-- ==== Sys2Proof/Word.lean ====
section
/-! DEFINITION. The word types of the DV9604 (spec/00_scope.md R1, spec/03_registers.md R58). -/

namespace Sys2Proof

/-- A 64-bit register value. -/
abbrev Word := BitVec 64

/-- A byte of memory. -/
abbrev Byte := BitVec 8

end Sys2Proof
end

