-- ==== Sys2Proof/Machine/Bits.lean ====
section
/-! DEFINITION. Bit fields, sign extension and byte order (00_scope.md R1, 02_encoding.md R27). -/

namespace Sys2Proof.Machine

/-- Bits `hi` to `lo` of `w`, the slice w[hi:lo] of R1. -/
def fld (w hi lo : Nat) : Nat := w / 2 ^ lo % 2 ^ (hi - lo + 1)

/-- Bits `hi` to `lo` of a register. -/
def wf (w : Word) (hi lo : Nat) : Nat := fld w.toNat hi lo

/-- Bit `i` of a register. -/
def wbit (w : Word) (i : Nat) : Bool := w.getLsbD i

/-- A number as a 64-bit register value, modulo 2^64. -/
def toW (n : Nat) : Word := BitVec.ofNat 64 n

/-- An integer as a 64-bit register value, modulo 2^64. -/
def ofZ (n : Int) : Word := BitVec.ofInt 64 n

/-- The `n`-bit two's-complement value of the field `v`. -/
def sextZ (n v : Nat) : Int := if v < 2 ^ (n - 1) then (v : Int) else (v : Int) - (2 ^ n : Nat)

/-- The field `v` of `n` bits, sign-extended to 64 bits (R27). -/
def sext (n v : Nat) : Word := ofZ (sextZ n v)

/-- `w` with bits `hi` to `lo` replaced by `v`. -/
def setFld (w : Word) (hi lo v : Nat) : Word :=
  toW (w.toNat - fld w.toNat hi lo * 2 ^ lo + (v % 2 ^ (hi - lo + 1)) * 2 ^ lo)

/-- The `n` bytes of `v`, lowest first (R1). -/
def bytesOf : Nat → Nat → List Byte
  | 0, _ => []
  | n + 1, v => BitVec.ofNat 8 v :: bytesOf n (v / 256)

/-- The value of bytes, lowest first (R1). -/
def ofBytes : List Byte → Nat
  | [] => 0
  | b :: bs => b.toNat + 256 * ofBytes bs

/-- Least multiple of `k` that is at least `n`. -/
def roundUp (n k : Nat) : Nat := (n + k - 1) / k * k

/-- The quotient rounded up. -/
def ceilDiv (n k : Nat) : Nat := (n + k - 1) / k

end Sys2Proof.Machine
end

