-- ==== Sys2Proof/Syntax.lean ====
section
/-! DEFINITION. The instruction set of the DV9604: one constructor per row of spec/opcode_table.json (218 encoded
rows, 17 literal forms, 107 events). Operand fields are the raw field values of the encoding (02_encoding.md R27);
`Sys2Proof.Instr.wf` (WellFormed.lean) says that each fits its field. Events carry what the outside world supplies. -/

namespace Sys2Proof

/-- Bits 31:28 of a word: the rill qualifiers WP, WN, SP, SN (02_encoding.md R25). -/
structure Rill where
  wp : Bool
  wn : Bool
  sp : Bool
  sn : Bool
  deriving DecidableEq, Repr

/-- No rill bit set. -/
def Rill.none : Rill := ⟨false, false, false, false⟩

/-- The unit a soft error or a fencing concerns (19_counters.md R352). -/
inductive HwUnit where
  | core (n : Nat)
  | port (n : Nat)
  /-- Channel `ch` of HBM stack `stack`. -/
  | channel (stack ch : Nat)
  /-- D0's distributor, or the control complex. -/
  | control
  /-- Storage of no unit that can be fenced, such as an L2 slice. -/
  | shared
  deriving DecidableEq, Repr

/-- The memory a corrected soft error is found in (19_counters.md R349, R352). -/
inductive SoftMem where
  | localStore
  | sram
  | hbm
  deriving DecidableEq, Repr

/-- A packet as it arrives at a port: the Seriz header (15_sluice.md Table 2), the payload, and what the transport below
says of it. -/
structure Packet where
  header : List (BitVec 8)
  payload : List (BitVec 8)
  /-- It uses only supported parts of Table 1 of 15_sluice.md (R270). -/
  supported : Bool
  /-- Its SA, whether it passes authentication under that SA's key, and its counter value (R271). -/
  sa : Nat
  authentic : Bool
  counter : Nat
  trimmed : Bool
  /-- The index of the sender's connection, the sender's endpoint and context. -/
  conn : Nat
  addr : Nat
  udp : Nat
  ctx : Nat
  /-- The failing address that a FAULT reports, which the header has no field for. -/
  va : Nat
  /-- Core cycles from the claim of its chunk to the writes of its payload (R273); 0 for within the step. -/
  delay : Nat
  /-- It arrives in a frame of this many bytes. -/
  size : Nat
  deriving DecidableEq, Repr

/-- A write that REGISTER_WRITE makes (00_scope.md R4). -/
inductive RegWrite where
  /-- A host write of `size` bytes at offset `off` of HW0. -/
  | hw0 (off size value : Nat)
  /-- A host write of `size` bytes at offset `off` of HW1. -/
  | hw1 (off size value : Nat)
  /-- Firmware sets the speed of a port whose link is down (15_sluice.md R269). -/
  | portSpeed (port : Nat) (slow : Bool)
  /-- Firmware sets a port's endpoint (15_sluice.md R269). -/
  | portEndpoint (port addr udp : Nat)
  /-- Firmware sets the base of the HW2 aperture (14_host_queues.md Table 1). -/
  | hw2Base (base : Nat)
  deriving DecidableEq, Repr


/-- The operations and events of the part, one constructor per row of spec/opcode_table.json.
`q` holds the rill bits, `e` is bit 27 (E, end of bundle, in the EP; in the AP and a Sluice core it must be clear,
a set bit being the literal form), the other names are the fields of the format. -/
inductive Instr where
  /-- ILLEGAL (R46): Execution of a word or bundle that matches no assigned encoding raises ILLEGAL as a precise trap. -/
  | illegal (syl : Nat)
  /-- ADD (R78): Writes the 64-bit sum of ga and gb to gd. -/
  | add (q : Rill) (e : Bool) (d a b : Nat)
  /-- SUB (R78): Writes ga minus gb, modulo 2^64, to gd. -/
  | sub (q : Rill) (e : Bool) (d a b : Nat)
  /-- AND (R78): Writes the bitwise AND of ga and gb to gd. -/
  | and (q : Rill) (e : Bool) (d a b : Nat)
  /-- OR (R78): Writes the bitwise OR of ga and gb to gd. -/
  | or (q : Rill) (e : Bool) (d a b : Nat)
  /-- XOR (R78): Writes the bitwise XOR of ga and gb to gd. -/
  | xor (q : Rill) (e : Bool) (d a b : Nat)
  /-- SLL (R78): Shifts ga left by gb[5:0] and writes the result to gd. -/
  | sll (q : Rill) (e : Bool) (d a b : Nat)
  /-- SRL (R78): Shifts ga right logically by gb[5:0] and writes the result to gd. -/
  | srl (q : Rill) (e : Bool) (d a b : Nat)
  /-- SRA (R78): Shifts ga right arithmetically by gb[5:0] and writes the result to gd. -/
  | sra (q : Rill) (e : Bool) (d a b : Nat)
  /-- SLT (R78): Writes 1 to gd if ga is less than gb as signed values, else 0. -/
  | slt (q : Rill) (e : Bool) (d a b : Nat)
  /-- SLTU (R78): Writes 1 to gd if ga is less than gb as unsigned values, else 0. -/
  | sltu (q : Rill) (e : Bool) (d a b : Nat)
  /-- MIN (R78): Writes the signed minimum of ga and gb to gd. -/
  | min (q : Rill) (e : Bool) (d a b : Nat)
  /-- MAX (R78): Writes the signed maximum of ga and gb to gd. -/
  | max (q : Rill) (e : Bool) (d a b : Nat)
  /-- MINU (R78): Writes the unsigned minimum of ga and gb to gd. -/
  | minu (q : Rill) (e : Bool) (d a b : Nat)
  /-- MAXU (R78): Writes the unsigned maximum of ga and gb to gd. -/
  | maxu (q : Rill) (e : Bool) (d a b : Nat)
  /-- ADDW (R78): Writes the 32-bit sum of ga and gb, sign-extended, to gd. -/
  | addw (q : Rill) (e : Bool) (d a b : Nat)
  /-- SUBW (R78): Writes the 32-bit difference of ga and gb, sign-extended, to gd. -/
  | subw (q : Rill) (e : Bool) (d a b : Nat)
  /-- MUL (R78): Writes the low 64 bits of ga times gb to gd. -/
  | mul (q : Rill) (e : Bool) (d a b : Nat)
  /-- MULH (R78): Writes the high 64 bits of the signed 128-bit product to gd. -/
  | mulh (q : Rill) (e : Bool) (d a b : Nat)
  /-- MULHU (R78): Writes the high 64 bits of the unsigned 128-bit product to gd. -/
  | mulhu (q : Rill) (e : Bool) (d a b : Nat)
  /-- DIV (R79): Writes the signed quotient, rounded toward zero, to gd, with fixed results for division by zero and overflow. -/
  | div (q : Rill) (e : Bool) (d a b : Nat)
  /-- DIVU (R79): Writes the unsigned quotient to gd, or all ones on division by zero. -/
  | divu (q : Rill) (e : Bool) (d a b : Nat)
  /-- REM (R79): Writes the signed remainder, with the sign of the dividend, to gd. -/
  | rem (q : Rill) (e : Bool) (d a b : Nat)
  /-- REMU (R79): Writes the unsigned remainder to gd, or ga on division by zero. -/
  | remu (q : Rill) (e : Bool) (d a b : Nat)
  /-- ADDI (R80): Writes ga plus the sign-extended 11-bit immediate to gd. -/
  | addi (q : Rill) (e : Bool) (d a imm : Nat)
  /-- ADDI_LITERAL (R30): Writes ga plus the sign-extended 32-bit literal word to gd. -/
  | addiLiteral (q : Rill) (d a lit : Nat)
  /-- ANDI (R80): Writes ga AND the sign-extended immediate to gd. -/
  | andi (q : Rill) (e : Bool) (d a imm : Nat)
  /-- ANDI_LITERAL (R30): Writes ga AND the sign-extended literal word to gd. -/
  | andiLiteral (q : Rill) (d a lit : Nat)
  /-- ORI (R80): Writes ga OR the sign-extended immediate to gd. -/
  | ori (q : Rill) (e : Bool) (d a imm : Nat)
  /-- ORI_LITERAL (R30): Writes ga OR the sign-extended literal word to gd. -/
  | oriLiteral (q : Rill) (d a lit : Nat)
  /-- XORI (R80): Writes ga XOR the sign-extended immediate to gd. -/
  | xori (q : Rill) (e : Bool) (d a imm : Nat)
  /-- XORI_LITERAL (R30): Writes ga XOR the sign-extended literal word to gd. -/
  | xoriLiteral (q : Rill) (d a lit : Nat)
  /-- SLLI (R80): Shifts ga left by an immediate amount and writes the result to gd. -/
  | slli (q : Rill) (e : Bool) (d a n : Nat)
  /-- SRLI (R80): Shifts ga right logically by an immediate amount and writes the result to gd. -/
  | srli (q : Rill) (e : Bool) (d a n : Nat)
  /-- SRAI (R80): Shifts ga right arithmetically by an immediate amount and writes the result to gd. -/
  | srai (q : Rill) (e : Bool) (d a n : Nat)
  /-- SLTI (R80): Writes 1 to gd if ga is less than the signed 8-bit immediate, else 0. -/
  | slti (q : Rill) (e : Bool) (d a imm : Nat)
  /-- SLTIU (R80): Writes 1 to gd if ga is less, unsigned, than the sign-extended immediate, else 0. -/
  | sltiu (q : Rill) (e : Bool) (d a imm : Nat)
  /-- AMO_ADD (R234): Adds gb atomically to the element at ga at its home slice and returns the old value in gd. -/
  | amoAdd (q : Rill) (d a b ty : Nat)
  /-- AMO_MIN (R234): Atomically replaces the element at ga by its minimum with gb and returns the old value. -/
  | amoMin (q : Rill) (d a b ty : Nat)
  /-- AMO_MAX (R234): Atomically replaces the element at ga by its maximum with gb and returns the old value. -/
  | amoMax (q : Rill) (d a b ty : Nat)
  /-- AMO_SWAP (R234): Atomically writes gb to the element at ga and returns the old value. -/
  | amoSwap (q : Rill) (d a b ty : Nat)
  /-- AMO_CAS (R234): Atomically writes gb at ga if the old bits equal gd, and returns the old value in gd. -/
  | amoCas (q : Rill) (d a b ty : Nat)
  /-- AMO_AND (R234): Atomically ANDs gb into the integer element at ga and returns the old value. -/
  | amoAnd (q : Rill) (d a b ty : Nat)
  /-- AMO_OR (R234): Atomically ORs gb into the integer element at ga and returns the old value. -/
  | amoOr (q : Rill) (d a b ty : Nat)
  /-- LI (R80): Writes the sign-extended 16-bit immediate to gd. -/
  | li (q : Rill) (e : Bool) (d imm : Nat)
  /-- LI_LITERAL (R30): Writes the sign-extended 32-bit literal word to gd. -/
  | liLiteral (q : Rill) (d lit : Nat)
  /-- LSH (R80): Shifts gd left by 16 and ORs in the 16-bit immediate pattern. -/
  | lsh (q : Rill) (e : Bool) (d imm : Nat)
  /-- LD_B (R81): Loads a byte at ga plus the scaled offset, sign-extended, into gd. -/
  | ldB (q : Rill) (d a off : Nat)
  /-- LD_BU (R81): Loads a byte, zero-extended, into gd. -/
  | ldBu (q : Rill) (d a off : Nat)
  /-- LD_H (R81): Loads a half-word, sign-extended, into gd. -/
  | ldH (q : Rill) (d a off : Nat)
  /-- LD_HU (R81): Loads a half-word, zero-extended, into gd. -/
  | ldHu (q : Rill) (d a off : Nat)
  /-- LD_W (R81): Loads a word, sign-extended, into gd. -/
  | ldW (q : Rill) (d a off : Nat)
  /-- LD_WU (R81): Loads a word, zero-extended, into gd. -/
  | ldWu (q : Rill) (d a off : Nat)
  /-- LD_D (R81): Loads 64 bits into gd. -/
  | ldD (q : Rill) (d a off : Nat)
  /-- ST_B (R81): Stores the low byte of gs at ga plus the scaled offset. -/
  | stB (q : Rill) (d a off : Nat)
  /-- ST_H (R81): Stores the low half-word of gs. -/
  | stH (q : Rill) (d a off : Nat)
  /-- ST_W (R81): Stores the low word of gs. -/
  | stW (q : Rill) (d a off : Nat)
  /-- ST_D (R81): Stores all 64 bits of gs. -/
  | stD (q : Rill) (d a off : Nat)
  /-- LD_B_LITERAL (R81): Loads a sign-extended byte at ga plus an unscaled 32-bit literal offset. -/
  | ldBLiteral (q : Rill) (d a lit : Nat)
  /-- LD_BU_LITERAL (R81): Loads a zero-extended byte with a literal offset. -/
  | ldBuLiteral (q : Rill) (d a lit : Nat)
  /-- LD_H_LITERAL (R81): Loads a sign-extended half-word with a literal offset. -/
  | ldHLiteral (q : Rill) (d a lit : Nat)
  /-- LD_HU_LITERAL (R81): Loads a zero-extended half-word with a literal offset. -/
  | ldHuLiteral (q : Rill) (d a lit : Nat)
  /-- LD_W_LITERAL (R81): Loads a sign-extended word with a literal offset. -/
  | ldWLiteral (q : Rill) (d a lit : Nat)
  /-- LD_WU_LITERAL (R81): Loads a zero-extended word with a literal offset. -/
  | ldWuLiteral (q : Rill) (d a lit : Nat)
  /-- LD_D_LITERAL (R81): Loads 64 bits with a literal offset. -/
  | ldDLiteral (q : Rill) (d a lit : Nat)
  /-- ST_B_LITERAL (R81): Stores a byte with a literal offset. -/
  | stBLiteral (q : Rill) (d a lit : Nat)
  /-- ST_H_LITERAL (R81): Stores a half-word with a literal offset. -/
  | stHLiteral (q : Rill) (d a lit : Nat)
  /-- ST_W_LITERAL (R81): Stores a word with a literal offset. -/
  | stWLiteral (q : Rill) (d a lit : Nat)
  /-- ST_D_LITERAL (R81): Stores 64 bits with a literal offset. -/
  | stDLiteral (q : Rill) (d a lit : Nat)
  /-- BEQZ (R84): Branches when ga is zero. -/
  | beqz (q : Rill) (e : Bool) (a off : Nat)
  /-- BNEZ (R84): Branches when ga is not zero. -/
  | bnez (q : Rill) (e : Bool) (a off : Nat)
  /-- BLTZ (R84): Branches when ga is negative. -/
  | bltz (q : Rill) (e : Bool) (a off : Nat)
  /-- BGEZ (R84): Branches when ga is zero or positive. -/
  | bgez (q : Rill) (e : Bool) (a off : Nat)
  /-- BGTZ (R84): Branches when ga is positive. -/
  | bgtz (q : Rill) (e : Bool) (a off : Nat)
  /-- BLEZ (R84): Branches when ga is zero or negative. -/
  | blez (q : Rill) (e : Bool) (a off : Nat)
  /-- BCQ (R85): Pops one CQ outcome and branches when it is 1. -/
  | bcq (q : Rill) (e : Bool) (off : Nat)
  /-- BNCQ (R85): Pops one CQ outcome and branches when it is 0. -/
  | bncq (q : Rill) (e : Bool) (off : Nat)
  /-- J (R86): Jumps to PC plus four times the signed 21-bit offset. -/
  | j (q : Rill) (e : Bool) (off : Nat)
  /-- CALL (R86): Writes the return address into g1 and jumps. -/
  | call (q : Rill) (e : Bool) (off : Nat)
  /-- LOOP (R88): Loads loop counter lcN from ga and sets up its frame, or skips the body for a count of zero. -/
  | loop (q : Rill) (e : Bool) (c a len : Nat)
  /-- LOOPI (R88): Loads loop counter lcN from a 7-bit count and sets up its frame. -/
  | loopi (q : Rill) (e : Bool) (c n len : Nat)
  /-- LOOPI_LITERAL (R88): Loads loop counter lcN from a zero-extended 32-bit literal in the AP. -/
  | loopiLiteral (q : Rill) (c len lit : Nat)
  /-- MFSR (R93): Writes the named special register to gd. -/
  | mfsr (q : Rill) (e : Bool) (d sel : Nat)
  /-- MTSR (R93): Writes ga to the named special register under its access rules. -/
  | mtsr (q : Rill) (e : Bool) (a sel : Nat)
  /-- JR (R86): Writes the return address into gd and jumps to ga. -/
  | jr (q : Rill) (e : Bool) (d a : Nat)
  /-- TRAP (R145): Retires with its rill bits and then traps with cause 0x10 + n. -/
  | trap (q : Rill) (e : Bool) (n : Nat)
  /-- BRK (R145): Retires and then traps with cause BREAK. -/
  | brk (q : Rill) (e : Bool)
  /-- RETT (R146): Clears trap mode and resumes the logical core, or the Sluice core at SEPC. -/
  | rett
  /-- ESCAL (R147): Escalates the current trap to firmware with ga as argument. -/
  | escal (a : Nat)
  /-- HALT (R148): Ends its stream once its engines have drained; the logical core ends when both streams have halted. -/
  | halt (q : Rill) (e : Bool)
  /-- ASST_DONE (R149): Ends a SUBNORMAL-ASSIST trap and reruns the stopped step with gradual underflow or flushed results. -/
  | asstDone (a : Nat)
  /-- BANK_RD (R73): Reads one 64-bit word of the inactive bank's logical-core record into gd. -/
  | bankRd (d a : Nat)
  /-- BANK_WR (R73): Writes gb to one 64-bit word of the inactive bank's logical-core record. -/
  | bankWr (a b : Nat)
  /-- CYC (R64): Writes the CYCLE counter to gd. -/
  | cyc (q : Rill) (e : Bool) (d : Nat)
  /-- ACQ (R192): Reads the generation of sync object ga at its home, acquiring the releases that precede it. -/
  | acq (q : Rill) (e : Bool) (a : Nat)
  /-- REL (R192): Waits for the bound writes to be performed, then increments the generation of sync object ga. -/
  | rel (q : Rill) (e : Bool) (a : Nat)
  /-- ACQ_GEN (R192): Acquires sync object ga, or raises STALE-GENERATION if its generation differs from gb. -/
  | acqGen (q : Rill) (e : Bool) (a b : Nat)
  /-- FENCE (R195): Performs earlier accesses with respect to the parties of scope k before any later access. -/
  | fence (q : Rill) (e : Bool) (k : Nat)
  /-- SO_GEN (R192): Writes the generation of sync object ga to gd without ordering anything. -/
  | soGen (q : Rill) (e : Bool) (d a : Nat)
  /-- CTX_YIELD (R338): Counts as a satisfied blocking wait, so the core rotates if another logical core is resident. -/
  | ctxYield (q : Rill) (e : Bool)
  /-- DLOG_ARM (R339): Arms the dirty log on the control block at ga and flips the epoch. -/
  | dlogArm (q : Rill) (a : Nat)
  /-- DLOG_STOP (R338): Clears ARMED and starts settling. -/
  | dlogStop (q : Rill)
  /-- DLOG_POS (R338): Writes the log head and the dirty-log state bits to gd. -/
  | dlogPos (q : Rill) (d : Nat)
  /-- CQ_PUT (R240): Pushes ga[0] onto CQ. -/
  | cqPut (q : Rill) (a : Nat)
  /-- ENG_ST (R256): Writes a snapshot of the named unit's progress, BUSY and occupancy to gt. -/
  | engSt (q : Rill) (t u : Nat)
  /-- RING_INIT (R255): Initialises ring ga from gb and zeroes its counters. -/
  | ringInit (q : Rill) (a b : Nat)
  /-- RING_CLAIM (R255): Waits for room, claims n slots and returns the slot address. -/
  | ringClaim (q : Rill) (t a b : Nat)
  /-- RING_COMMIT (R255): Adds n to the ring's TAIL. -/
  | ringCommit (q : Rill) (a b : Nat)
  /-- RING_WFILL (R255): Waits until n slots are filled, returns the head slot address and acquires their writes. -/
  | ringWfill (q : Rill) (t a b : Nat)
  /-- RING_WFREE (R255): Waits until n slots are free and returns the free count. -/
  | ringWfree (q : Rill) (t a b : Nat)
  /-- RING_REL (R255): Adds n to the ring's HEAD. -/
  | ringRel (q : Rill) (a b : Nat)
  /-- CP (R249): Issues a copy command to the copy engine with token gt. -/
  | cp (q : Rill) (t a b : Nat)
  /-- CP_FO (R111): Issues a copy that enters a follow-on matrix command once its last byte lands. -/
  | cpFo (q : Rill) (t a b : Nat)
  /-- CP_2D (R249): Issues a strided two-dimensional copy. -/
  | cp2d (q : Rill) (t a b : Nat)
  /-- CP_2D_FO (R111): Issues a two-dimensional copy with a follow-on matrix command. -/
  | cp2dFo (q : Rill) (t a b : Nat)
  /-- CP_MC (R249): Issues a copy whose chunk writes are terrace multicast stores. -/
  | cpMc (q : Rill) (t a b : Nat)
  /-- CP_FILL (R249): Issues a fill of the destination with a repeated 64-bit pattern. -/
  | cpFill (q : Rill) (t a b : Nat)
  /-- GE_GATHER (R250): Issues an indexed element gather to the gather engine. -/
  | geGather (q : Rill) (t a b : Nat)
  /-- GE_GATHER_2D (R250): Issues an indexed row gather. -/
  | geGather2d (q : Rill) (t a b : Nat)
  /-- GE_SCATTER (R250): Issues an indexed element scatter. -/
  | geScatter (q : Rill) (t a b : Nat)
  /-- VADD (R213): Adds regions da and db element by element into dd in the major's rounding mode. -/
  | vadd (q : Rill) (e : Bool) (rm d a b ty : Nat)
  /-- VSUB (R213): Subtracts db from da element by element into dd. -/
  | vsub (q : Rill) (e : Bool) (rm d a b ty : Nat)
  /-- VMUL (R213): Multiplies da and db element by element into dd. -/
  | vmul (q : Rill) (e : Bool) (rm d a b ty : Nat)
  /-- VMAC (R213): Adds the fused product of da and db to dd with one rounding. -/
  | vmac (q : Rill) (e : Bool) (rm d a b ty : Nat)
  /-- VMIN (R214): Writes the element-wise minimum of da and db to dd. -/
  | vmin (q : Rill) (e : Bool) (d a b ty : Nat)
  /-- VMAX (R214): Writes the element-wise maximum of da and db to dd. -/
  | vmax (q : Rill) (e : Bool) (d a b ty : Nat)
  /-- VABS (R214): Clears the sign bit of each element of da into dd. -/
  | vabs (q : Rill) (e : Bool) (d a ty : Nat)
  /-- VNEG (R214): Inverts the sign bit of each element of da into dd. -/
  | vneg (q : Rill) (e : Bool) (d a ty : Nat)
  /-- VEXP2 (R222): Computes 2^x of each element by the fixed algorithm and rounds once. -/
  | vexp2 (q : Rill) (e : Bool) (rm d a ty : Nat)
  /-- VLOG2 (R223): Computes log2 of each element by the fixed algorithm and rounds once. -/
  | vlog2 (q : Rill) (e : Bool) (rm d a ty : Nat)
  /-- VRCP (R221): Writes the correctly rounded reciprocal of each element. -/
  | vrcp (q : Rill) (e : Bool) (rm d a ty : Nat)
  /-- VRSQRT (R221): Writes the correctly rounded reciprocal square root of each element. -/
  | vrsqrt (q : Rill) (e : Bool) (rm d a ty : Nat)
  /-- VCMP_EQ (R215): Writes a bit region marking the elements where da equals db. -/
  | vcmpEq (q : Rill) (e : Bool) (d a b ty : Nat)
  /-- VCMP_NE (R215): Writes a bit region marking the elements where da differs from db. -/
  | vcmpNe (q : Rill) (e : Bool) (d a b ty : Nat)
  /-- VCMP_LT (R215): Writes a bit region marking the elements where da is less than db. -/
  | vcmpLt (q : Rill) (e : Bool) (d a b ty : Nat)
  /-- VCMP_LE (R215): Writes a bit region marking the elements where da is at most db. -/
  | vcmpLe (q : Rill) (e : Bool) (d a b ty : Nat)
  /-- VSEL (R216): Copies da into dd wherever the db bit is set. -/
  | vsel (q : Rill) (e : Bool) (d a b ty : Nat)
  /-- VSUM (R220): Sums each row of da by the fixed pairwise tree into dd. -/
  | vsum (q : Rill) (e : Bool) (rm d a ty : Nat)
  /-- VRMAX (R220): Writes the maximum of each row of da into dd. -/
  | vrmax (q : Rill) (e : Bool) (d a ty : Nat)
  /-- VRMIN (R220): Writes the minimum of each row of da into dd. -/
  | vrmin (q : Rill) (e : Bool) (d a ty : Nat)
  /-- VCVT (R179): Converts each element of da to the target type in dd, with rounding mode and saturation. -/
  | vcvt (q : Rill) (e : Bool) (d a m g h sat : Nat)
  /-- VADDS (R217): Adds scalar g to each element of da into dd. -/
  | vadds (q : Rill) (e : Bool) (d a g ty : Nat)
  /-- VMULS (R217): Multiplies each element of da by scalar g into dd. -/
  | vmuls (q : Rill) (e : Bool) (d a g ty : Nat)
  /-- VMACS (R217): Adds the fused product of da and scalar g to dd. -/
  | vmacs (q : Rill) (e : Bool) (d a g ty : Nat)
  /-- VMINS (R217): Writes the minimum of each element of da and scalar g. -/
  | vmins (q : Rill) (e : Bool) (d a g ty : Nat)
  /-- VMAXS (R217): Writes the maximum of each element of da and scalar g. -/
  | vmaxs (q : Rill) (e : Bool) (d a g ty : Nat)
  /-- VFILL (R217): Writes scalar g to every element of dd. -/
  | vfill (q : Rill) (e : Bool) (d g ty : Nat)
  /-- VSETI (R181): Writes an integer immediate, converted to dd's type, to every element. -/
  | vseti (q : Rill) (e : Bool) (d imm : Nat)
  /-- VSETF (R181): Writes a BF16 immediate, converted to dd's type, to every element. -/
  | vsetf (q : Rill) (e : Bool) (d imm : Nat)
  /-- VAND (R218): Writes the bitwise AND of da and db to dd. -/
  | vand (q : Rill) (e : Bool) (d a b ty : Nat)
  /-- VOR (R218): Writes the bitwise OR of da and db to dd. -/
  | vor (q : Rill) (e : Bool) (d a b ty : Nat)
  /-- VXOR (R218): Writes the bitwise XOR of da and db to dd. -/
  | vxor (q : Rill) (e : Bool) (d a b ty : Nat)
  /-- VNOT (R218): Writes the bitwise complement of da to dd. -/
  | vnot (q : Rill) (e : Bool) (d a ty : Nat)
  /-- VSHL (R218): Shifts each element of da left by the db element. -/
  | vshl (q : Rill) (e : Bool) (d a b ty : Nat)
  /-- VSHR (R218): Shifts each element of da right logically by the db element. -/
  | vshr (q : Rill) (e : Bool) (d a b ty : Nat)
  /-- VSRA (R218): Shifts each element of da right arithmetically by the db element. -/
  | vsra (q : Rill) (e : Bool) (d a b ty : Nat)
  /-- VMULH (R218): Writes the high half of each exact element product. -/
  | vmulh (q : Rill) (e : Bool) (d a b ty : Nat)
  /-- VPERM (R227): Permutes da by the indices in db into dd and writes the validity bits. -/
  | vperm (q : Rill) (e : Bool) (d a b ty : Nat)
  /-- VCOMPACT (R228): Packs the selected elements of da into dd and pushes the count onto q6. -/
  | vcompact (q : Rill) (e : Bool) (d a b ty : Nat)
  /-- VEXPAND (R228): Spreads consecutive elements of da to the selected elements of dd and pushes the count onto q6. -/
  | vexpand (q : Rill) (e : Bool) (d a b ty : Nat)
  /-- VSCAN_ADD (R229): Writes the inclusive prefix sum of each row. -/
  | vscanAdd (q : Rill) (e : Bool) (d a ty : Nat)
  /-- VSCAN_MAX (R229): Writes the inclusive prefix maximum of each row. -/
  | vscanMax (q : Rill) (e : Bool) (d a ty : Nat)
  /-- VCOLSEL (R230): Selects the best K rows of each column of da by rank, writing indices and scores. -/
  | vcolsel (q : Rill) (e : Bool) (d a b ty : Nat)
  /-- VPROBE (R231): Looks each key up in the hash table db by linear probing. -/
  | vprobe (q : Rill) (e : Bool) (d a b : Nat)
  /-- VSTOP (R232): Marks the tokens that are in the stop set of their active sequence. -/
  | vstop (q : Rill) (e : Bool) (d a b : Nat)
  /-- VMOV (R233): Copies the elements of da to dd as bits. -/
  | vmov (q : Rill) (e : Bool) (d a ty : Nat)
  /-- VMOV_DESCRIPTOR (R233): Pops two entries from qN and writes them as descriptor dd. -/
  | vmovDescriptor (q : Rill) (e : Bool) (d n : Nat)
  /-- VSHIFT (R227): Shifts elements along dimension 0 by g and writes the validity bits. -/
  | vshift (q : Rill) (e : Bool) (d a g ty : Nat)
  /-- VROTL (R227): Rotates elements along dimension 0 by g. -/
  | vrotl (q : Rill) (e : Bool) (d a g ty : Nat)
  /-- VBCAST (R227): Broadcasts element g of da to every element of dd. -/
  | vbcast (q : Rill) (e : Bool) (d a g ty : Nat)
  /-- VAMO_ADD (R236): Atomically adds each element of da to memory from base g and returns the old values. -/
  | vamoAdd (q : Rill) (e : Bool) (d a g ty : Nat)
  /-- VAMO_MIN (R236): Atomically takes the minimum of each element with memory. -/
  | vamoMin (q : Rill) (e : Bool) (d a g ty : Nat)
  /-- VAMO_MAX (R236): Atomically takes the maximum of each element with memory. -/
  | vamoMax (q : Rill) (e : Bool) (d a g ty : Nat)
  /-- VAMO_COMB (R237): Atomically combines each record of da into the target record with the rescaling combine. -/
  | vamoComb (q : Rill) (e : Bool) (d a g : Nat)
  /-- MX_MAC (R99): Hands the MXA a command that accumulates A times B into a bank. -/
  | mxMac (q : Rill) (e : Bool) (c ty a b : Nat)
  /-- MX_MACZ (R99): Hands the MXA a command that zeroes the enabled elements, then accumulates. -/
  | mxMacz (q : Rill) (e : Bool) (c ty a b : Nat)
  /-- MX_ZERO (R103): Zeroes every word of a bank. -/
  | mxZero (q : Rill) (e : Bool) (c : Nat)
  /-- MX_LD (R104): Loads the enabled words of a bank from memory. -/
  | mxLd (q : Rill) (e : Bool) (c a : Nat)
  /-- MX_ST (R104): Stores the enabled words of a bank to memory. -/
  | mxSt (q : Rill) (e : Bool) (c a : Nat)
  /-- MX_STC (R105): Converts the enabled bank elements to type T and stores them. -/
  | mxStc (q : Rill) (e : Bool) (c ty a : Nat)
  /-- MX_MASK (R106): Writes MXMASK from a popped queue entry. -/
  | mxMask (q : Rill) (e : Bool) (a : Nat)
  /-- MX_TW (R107): Holds later matrix commands until a range of tensor chunks has arrived. -/
  | mxTw (q : Rill) (e : Bool) (a : Nat)
  /-- MX_ADD (R103): Adds bank M into bank N on the enabled elements. -/
  | mxAdd (q : Rill) (e : Bool) (c m : Nat)
  /-- MX_SYNC (R108): Enters the FIFO only when the MXA is idle, so that every earlier command has completed. -/
  | mxSync (q : Rill) (e : Bool)
  /-- RT_CLR (R126): Zeroes TRI and every RTCNT. -/
  | rtClr (q : Rill) (e : Bool)
  /-- RT_LD (R126): Loads TRI from region da and zeroes RTCNT. -/
  | rtLd (q : Rill) (e : Bool) (a : Nat)
  /-- RT_ST (R126): Stores TRI to da, with deferred compensation in G2. -/
  | rtSt (q : Rill) (e : Bool) (g a : Nat)
  /-- RT_QR (R128): Streams the rows of da through the array into TRI, writing residuals to db. -/
  | rtQr (q : Rill) (e : Bool) (g a b n : Nat)
  /-- RT_VEC (R129): Computes the rotation word and magnitude of each pair of da. -/
  | rtVec (q : Rill) (e : Bool) (g a b : Nat)
  /-- RT_ROT (R129): Applies the rotation words of db to the pairs of da. -/
  | rtRot (q : Rill) (e : Bool) (g a b : Nat)
  /-- RT_ANG_B16 (R121): Converts BAM16 angles to rotation words. -/
  | rtAngB16 (q : Rill) (e : Bool) (a b : Nat)
  /-- RT_ANG_B32 (R121): Converts BAM32 angles to rotation words. -/
  | rtAngB32 (q : Rill) (e : Bool) (a b : Nat)
  /-- RT_SOL (R132): Solves the leading triangle of TRI against its right-hand sides and writes rank flags. -/
  | rtSol (q : Rill) (e : Bool) (g a b n : Nat)
  /-- RT_APP (R131): Applies a layer of 120 rotations to each row of da. -/
  | rtApp (q : Rill) (e : Bool) (g a b : Nat)
  /-- RT_GZ (R126): Applies deferred compensation to U and zeroes RTCNT. -/
  | rtGz (q : Rill) (e : Bool)
  /-- RT_RHS (R126): Loads the right-hand-side entries of TRI from da. -/
  | rtRhs (q : Rill) (e : Bool) (a : Nat)
  /-- SEQ_RETIRE (R302): Retires the marked active sequences, pushing their pages and retire records. -/
  | seqRetire (q : Rill) (d a b : Nat)
  /-- SEQ_RD (R303): Reads a sequence-table word or step-list value. -/
  | seqRd (q : Rill) (d a b : Nat)
  /-- SEQ_KV (R301): Reads one key/value page address of a sequence entry. -/
  | seqKv (q : Rill) (d a b : Nat)
  /-- NODE_LAUNCH (R304): Launches a child node from a LAUNCH image in memory, optionally held. -/
  | nodeLaunch (q : Rill) (d a b : Nat)
  /-- NODE_SIG (R304): Removes the hold of a held node. -/
  | nodeSig (q : Rill) (d a : Nat)
  /-- DIST_HINT (R301): Sets or reads the context's floor of cores kept at least clock-gated. -/
  | distHint (q : Rill) (d a b : Nat)
  /-- TNS_SET (R319): Writes or clears a tensor descriptor and reserves its staging. -/
  | tnsSet (q : Rill) (d a b : Nat)
  /-- TNS_WAIT (R320): Waits until a range of arrival bits is set and acquires their payload. -/
  | tnsWait (q : Rill) (d a : Nat)
  /-- TNS_BITS (R320): Reads arrival bits or a contributor record without waiting. -/
  | tnsBits (q : Rill) (d a b : Nat)
  /-- COLL_START (R321): Starts a collective record, enters its range and raises NODE at the serving Sluice core. -/
  | collStart (q : Rill) (d a : Nat)
  /-- COLL_STAT (R321): Reads a collective's state, freeing the handle once it has ended. -/
  | collStat (q : Rill) (d a : Nat)
  /-- RNG_SET (R322): Enters or clears a range-table entry. -/
  | rngSet (q : Rill) (d a b : Nat)
  /-- SIG_ADD (R344): Atomically adds gb to a signal and returns the old value. -/
  | sigAdd (q : Rill) (e : Bool) (d a b : Nat)
  /-- SIG_RD (R344): Reads a signal atomically. -/
  | sigRd (q : Rill) (e : Bool) (d a : Nat)
  /-- SIG_WAIT (R345): Waits until a signal falls to the threshold or goes negative. -/
  | sigWait (q : Rill) (e : Bool) (d a b : Nat)
  /-- FLAG_ADD (R344): Atomically adds gb to a flag slot of a logical core. -/
  | flagAdd (q : Rill) (e : Bool) (d a b : Nat)
  /-- FLAG_MSET (R346): Sets a flag slot in every logical core that the mask selects. -/
  | flagMset (q : Rill) (e : Bool) (d a b : Nat)
  /-- FLAG_WAIT (R344): Waits until the core's own flag slot reaches the threshold. -/
  | flagWait (q : Rill) (e : Bool) (d a b : Nat)
  /-- CTR_RD (R350): Reads a snapshot of the numbered counter. -/
  | ctrRd (q : Rill) (e : Bool) (d a : Nat)
  /-- CTR_SEL (R351): Selects the event of a performance counter, resets it and returns the old count. -/
  | ctrSel (q : Rill) (d a b : Nat)
  /-- EV_POP (R286): Waits for an event record, writes it to SRAM and removes it. -/
  | evPop (d a : Nat)
  /-- EV_PEEK (R286): Writes the head event record without removing it, or returns 0. -/
  | evPeek (d a : Nat)
  /-- PKT_SEND (R287): Allocates a transfer from a send descriptor and queues its chunks on a flow. -/
  | pktSend (d a b : Nat)
  /-- PKT_RESEND (R286): Queues the unacknowledged chunks of a range again with RTX set. -/
  | pktResend (d a b : Nat)
  /-- CHK_REQ (R286): Sends a CHK-REQ for a trimmed chunk through the recorded connection. -/
  | chkReq (d a b : Nat)
  /-- PAUSE_SND (R286): Sends a PAUSE or RESUME packet on a flow. -/
  | pauseSnd (d a b : Nat)
  /-- COLL_STEP (R286): Gives a collective's walker budget for more transfers. -/
  | collStep (d a b : Nat)
  /-- PORT_ST (R286): Reads a status or counter value of a local port. -/
  | portSt (d a b : Nat)
  /-- BMP_SET (R286): Sets a bitmap bit atomically and returns its old value. -/
  | bmpSet (d a b : Nat)
  /-- BMP_CLR (R286): Clears a bitmap bit atomically and returns its old value. -/
  | bmpClr (d a b : Nat)
  /-- BMP_TEST (R286): Reads a bitmap bit. -/
  | bmpTest (d a b : Nat)
  /-- BMP_SCAN (R286): Returns the first clear bit index in a range. -/
  | bmpScan (d a b : Nat)
  /-- TMR_SET (R286): Arms a Sluice timer with a duration and tag. -/
  | tmrSet (d a b : Nat)
  /-- TMR_CLR (R286): Disarms a Sluice timer. -/
  | tmrClr (d a : Nat)
  /-- RATE_SET (R286): Sets a flow's RATE and returns the old one. -/
  | rateSet (d a b : Nat)
  /-- PATH_SET (R286): Sets a flow's path mask and returns the old one. -/
  | pathSet (d a b : Nat)
  /-- RTO_SET (R286): Sets a flow's timeout and returns the old one. -/
  | rtoSet (d a b : Nat)
  /-- WEIR_TAKE (R277): Sends a WEIR-REQ to a target port. -/
  | weirTake (d a b : Nat)
  /-- WEIR_CALL (R277): Calls every issued ticket up to gb and advances CALLED. -/
  | weirCall (d a b : Nat)
  /-- WEIR_DONE (R277): Sends WEIR-DONE for a ticket. -/
  | weirDone (d a b : Nat)
  /-- DEVICE_RESET (R58): Resets the device, including on a PCIe hot or link-down reset; no logical core exists afterwards. -/
  | deviceReset
  /-- REGISTER_WRITE (R4): A host or firmware write to a register without behaviour of its own updates its writable fields. -/
  | registerWrite (w : RegWrite)
  /-- SQ_DOORBELL (R260): A submission-queue tail write is accepted into LATCH or rejected with RING-ERROR. -/
  | sqDoorbell (q value : Nat)
  /-- HQ_DOORBELL (R260): A handler-queue head write frees slots, letting a waiting HANDLER be appended. -/
  | hqDoorbell (q value : Nat)
  /-- QUEUE_ENABLE (R259): Setting EN checks the descriptor and enables the queue or sets ERR. -/
  | queueEnable (q w0 : Nat)
  /-- QUEUE_DISABLE (R259): A W0 write with EN clear disables an idle queue or is refused. -/
  | queueDisable (q : Nat)
  /-- RESUME (R264): Writing RESUME takes a STOPPED queue back to running from LATCH as at the abort. -/
  | resume (q : Nat)
  /-- ABORT (R264): Writing ABORT fails the BARRIER waiting at the head of the queue. -/
  | abort (q : Nat)
  /-- QUEUE_SWITCH_IN (R261): Firmware makes a queue resident in the distributor. -/
  | queueSwitchIn (q : Nat)
  /-- QUEUE_SWITCH_OUT (R261): Firmware switches a queue out between packets. -/
  | queueSwitchOut (q : Nat)
  /-- HOST_ACCESS_FAILURE (R258): A device access to host memory ends in an error or a 50 ms timeout and fails. -/
  | hostAccessFailure (q status pa : Nat) (payload : Bool)
  /-- LAUNCH (R291): A LAUNCH packet starts, is checked and enters a node into the pool. -/
  | launch (q : Nat)
  /-- BARRIER (R264): A BARRIER packet starts and evaluates its signals. -/
  | barrier (q : Nat)
  /-- BARRIER_EVALUATION (R264): A waiting BARRIER re-evaluates after a change to one of its signals, and is satisfied, waits or fails. -/
  | barrierEvaluation (q : Nat)
  /-- SIGNAL (R262): A SIGNAL packet performs a bank-ALU add or store on a signal. -/
  | signal (q : Nat)
  /-- COPY (R262): A COPY packet starts on the distributor's copy engine. -/
  | copy (q : Nat)
  /-- COPY_PACKET_CHUNK (R262): One 4 KiB chunk of a COPY packet is performed, the last completing the packet. -/
  | copyPacketChunk (q entry : Nat)
  /-- ADMIT (R300): An ADMIT packet writes a FREE sequence entry as ADMITTED. -/
  | admission (q : Nat)
  /-- FREEZE (R324): A FREEZE packet stops dispatch, swaps out the context's cores and drains its Sluice cores. -/
  | freeze (q : Nat)
  /-- FREEZE_DRAIN_TIMEOUT (R279): The wait for acknowledgements ends after the largest RTO, and PAUSE is sent on every flow. -/
  | freezeDrainTimeout (ctx : Nat)
  /-- FREEZE_IMAGE_WRITTEN (R324): The image is written and the FREEZE completes. -/
  | freezeImageWritten (ctx : Nat)
  /-- THAW (R335): A THAW packet checks an image and restores the context's tables, cores and Sluice state. -/
  | thaw (q : Nat)
  /-- FENCE_PACKET (R262): A FENCE packet, once earlier packets complete, makes a package or fabric fence for the context. -/
  | fencePacket (q : Nat)
  /-- HANDLER (R262): A device-written HANDLER packet is read and completes at once. -/
  | handler (q : Nat)
  /-- CREATE (R268): Creates a context with its page-table root, sync-object table, fault-record window and grants. -/
  | create
  /-- DESTROY (R268): Frees every table and backing of an idle context. -/
  | destroy
  /-- MAP (R268): Writes a page-table entry atomically and invalidates the context's translations. -/
  | map
  /-- GRANT (R268): Replaces the context's basin grants. -/
  | grant
  /-- BIND (R268): Binds a Sluice core and its ports to a context and starts its Sluice binary. -/
  | bind
  /-- UNBIND (R268): Stops a Sluice core, clears its state and frees it. -/
  | unbind
  /-- SA (R268): Installs a security association on a Sluice core and clears HOLD from exhausted flows. -/
  | sa
  /-- SLOT_LOAD (R289): Firmware checks, pins and maps a slot's kernel images and marks it LOADED. -/
  | slotLoad
  /-- SLOT_UNLOAD (R289): Firmware unpins a slot's images and leaves it EMPTY, or refuses. -/
  | slotUnload
  /-- NODE_DISPATCH (R295): The distributor selects a ready node, places its whole team and creates its logical cores. -/
  | nodeDispatch
  /-- DISPATCH_STARVATION (R295): A node waiting 2^26 core cycles starts holding back later nodes of equal or lower priority. -/
  | dispatchStarvation (n : Nat)
  /-- NODE_COMPLETION (R298): The team's halt AND tree fires; the record, release and csig are written and successors are freed. -/
  | nodeCompletion (n : Nat)
  /-- POWER_GATE_EXPIRY (R297): A core empty for 330,000 core cycles is power-gated. -/
  | powerGateExpiry (core : Nat)
  /-- CORE_WAKE_DONE (R23): A gated core finishes waking. -/
  | coreWakeDone (core : Nat)
  /-- CONTEXT_FAILURE (R298): Firmware fails a context, completing its nodes as FAILED. -/
  | contextFailure (ctx cause : Nat)
  /-- TRAP_ENTRY (R143): Once every unit has stopped, the record is written and the AP enters the handler. -/
  | trapEntry (core : Nat)
  /-- ESCALATION (R147): A trap is passed to firmware and the logical core is suspended by bank swap. -/
  | escalation (core : Nat)
  /-- HANDLER_OVERRUN (R144): A handler that stays in trap mode for 165,000 core cycles escalates. -/
  | handlerOverrun (core : Nat)
  /-- FIRMWARE_RESUME (R147): Firmware ends an escalation by resuming the logical core as rett would, including the TRAP 31 service. -/
  | firmwareResume (lc : Nat)
  /-- FIRMWARE_HANDLER_RETURN (R147): Firmware returns to the handler after escal with ESC set. -/
  | firmwareHandlerReturn (lc : Nat)
  /-- BANK_SWAP (R150): A requested swap stops both streams and every engine and begins the 64-cycle exchange of banks. -/
  | bankSwap (core : Nat)
  /-- BANK_SWAP_END (R150): The swap ends and the incoming logical core resumes at its recorded addresses. -/
  | bankSwapEnd (core : Nat)
  /-- QUANTUM_EXPIRY (R152): The active logical core's 165,000-cycle quantum ends and the core rotates. -/
  | quantumExpiry (core : Nat)
  /-- BLOCKING_WAIT (R371): A stream stalled over 4,096 cycles reaches a blocking wait and the core rotates. -/
  | blockingWait (core : Nat)
  /-- SPILL_STORE (R151): The spill engine writes a part of the inactive bank to the save area. -/
  | spillStore (core bytes : Nat) (faulted : Option Nat)
  /-- SPILL_RESUME (R151): Firmware clears HELD and the spill continues from OFFSET. -/
  | spillResume (core : Nat)
  /-- SPILL_END (R151): The spill writes its last byte, clears BUSY and leaves the bank empty. -/
  | spillEnd (core : Nat)
  /-- SHADOW_FILL_END (R151): The spill engine finishes filling the shadow bank for the next logical core. -/
  | shadowFillEnd (core : Nat)
  /-- LS_PAGE_ASSIGN (R157): An allotted local-store page is assigned, after any eviction, and stalled accesses continue. -/
  | lsPageAssign (lc page : Nat)
  /-- QUEUE_DEADLOCK (R244): DLCNT reaches 2^20 and the EP raises QUEUE-DEADLOCK. -/
  | queueDeadlock (core : Nat)
  /-- CE_COMMAND_START (R241): A copy or gather command takes its waits at C in issue order and starts. -/
  | ceCommandStart (core : Nat) (gather : Bool)
  /-- COPY_CHUNK (R249): A copy engine chunk reads its source and writes its destination, then commits. -/
  | copyChunk (core : Nat)
  /-- GATHER_STEP (R250): A gather engine step reads its index and source and writes one element or chunk. -/
  | gatherStep (core : Nat)
  /-- ENGINE_COMMAND_COMPLETE (R248): A CE or GE command enters its follow-on, applies RC, writes its status and gives its signals. -/
  | engineCommandComplete (core : Nat) (gather : Bool) (failed : Option Nat)
  /-- FOLLOW_ON_ENTRY (R111): A held follow-on enters the MXA FIFO when it has room. -/
  | followOnEntry (core : Nat)
  /-- MX_COMMAND_START (R110): The MXA takes the head command's rill waits and checks its operand words. -/
  | mxCommandStart (core : Nat)
  /-- MX_STEP (R99): The MXA commits one period, k-step or row of the head command. -/
  | mxStep (core : Nat)
  /-- MX_TW_SATISFIED (R107): The chunks an mx.tw waits on have all arrived, and the command completes. -/
  | mxTwSatisfied (core : Nat)
  /-- MX_COMMAND_COMPLETE (R110): The MXA command completes, merges its pending status and gives its signals. -/
  | mxCommandComplete (core : Nat)
  /-- RT_COMMAND_START (R134): The RTA takes the head command's waits and checks it. -/
  | rtCommandStart (core : Nat)
  /-- RT_ROW_COMMIT (R128): The RTA commits one row or item of the head command. -/
  | rtRowCommit (core : Nat)
  /-- RT_COMMAND_COMPLETE (R133): The RTA command completes and gives its signals. -/
  | rtCommandComplete (core : Nat)
  /-- VECTOR_BEAT (R208): The vector unit reads and then writes one beat of a vector syllable. -/
  | vectorBeat (core : Nat)
  /-- MULTICAST_LAND (R159): A terrace multicast store lands in every target on the terrace twelve cycles after issue. -/
  | multicastLand
  /-- FABRIC_DATA_ARRIVAL (R273): An arriving data packet is checked, claimed, placed or staged, and acknowledged. -/
  | fabricDataArrival (port : Nat) (p : Packet)
  /-- CLAIM_WAIT_END (R273): A packet waiting on a claimed chunk repeats its check when the bit is set or the claim released. -/
  | claimWaitEnd (ctx n : Nat)
  /-- DEADLINE_RELEASE (R312): DLINE expires for a chunk in flight, releasing it with the contributors it holds. -/
  | deadlineRelease (ctx tdesc chunk : Nat)
  /-- ACK_ARRIVAL (R287): An acknowledgement sets its ackmap bit, or is discarded, and may raise XFER-DONE. -/
  | ackArrival (port handle chunk path : Nat) (marked : Bool)
  /-- CHK_REQ_RECEIVED (R284): An arriving CHK-REQ raises a CHK-REQ event. -/
  | chkReqReceived (port : Nat) (p : Packet)
  /-- PAUSE_RECEIVED (R286): An arriving PAUSE sets HOLD on the matching flows. -/
  | pauseReceived (port : Nat) (p : Packet)
  /-- RESUME_RECEIVED (R286): An arriving RESUME clears HOLD on the matching flows. -/
  | resumeReceived (port : Nat) (p : Packet)
  /-- WEIR_REQ_RECEIVED (R277): The Weir block issues a ticket, or refuses one, and answers with TICKET. -/
  | weirReqReceived (port : Nat) (p : Packet)
  /-- TICKET_RECEIVED (R277): An arriving TICKET raises a TICKET event. -/
  | ticketReceived (port : Nat) (p : Packet)
  /-- CALL_RECEIVED (R277): An arriving CALL raises CALLED at the source. -/
  | callReceived (port : Nat) (p : Packet)
  /-- WEIR_DONE_RECEIVED (R277): The target marks the ticket done, advances BASE and raises WEIR-DONE. -/
  | weirDoneReceived (port : Nat) (p : Packet)
  /-- FAULT_RECEIVED (R278): An arriving FAULT packet raises REMOTE-FAULT at the sender and fails its transfer. -/
  | faultReceived (port : Nat) (p : Packet)
  /-- NEWEP_RECEIVED (R279): An authenticated NEWEP rewrites the peer endpoint of matching flows and clears HOLD. -/
  | newepReceived (port : Nat) (p : Packet)
  /-- PACKET_TRANSMIT (R276): A flow whose pacing bucket holds enough bytes sends its next packet on its next path. -/
  | packetTransmit (core flow : Nat)
  /-- TIMEOUT (R276): An unacknowledged chunk older than RTO raises one TIMEOUT event. -/
  | timeout (core handle chunk : Nat)
  /-- TIMER (R286): An armed Sluice timer expires, raises TIMER and disarms. -/
  | timer (core t : Nat)
  /-- EVENT_DEFERRED_ENQUEUE (R284): A source's pending event enters the event queue when room appears. -/
  | eventDeferredEnqueue (core : Nat)
  /-- CONNECTION_CLOSE (R285): A connection idle for 2^24 Sluice cycles closes, and its index may be reused. -/
  | connectionClose (port index : Nat)
  /-- LINK (R285): A port's link status changes and raises a LINK event. -/
  | link (port : Nat) (up : Bool)
  /-- WALKER_EMIT (R316): A collective's walker, having budget, emits its next transfer. -/
  | walkerEmit (ctx handle : Nat)
  /-- GATED_CHUNK_RELEASE (R316): A gated chunk leaves once its gate descriptor's arrival bit is set. -/
  | gatedChunkRelease (core handle chunk : Nat)
  /-- COLL_DONE (R317): A collective completes, clears its range and raises COLL-DONE. -/
  | collDone (ctx handle : Nat)
  /-- SLUICE_TRAP_TIMEOUT (R282): A Sluice core in trap mode for 165,000 Sluice cycles stops and firmware is told. -/
  | sluiceTrapTimeout (core : Nat)
  /-- SETTLE_END (R331): Firmware finishes setting LE to E in every leaf and clears SETTLING. -/
  | settleEnd (ctx : Nat)
  /-- STORAGE_FORMAT_WRITE (R163): Firmware writes a storage-format range register in every controller and invalidates affected L2 lines. -/
  | storageFormatWrite (n w0 w1 w2 w3 : Nat)
  /-- BASIN_CARVEOUT_SET (R161): Firmware sets a die's basin carve-out size. -/
  | basinCarveoutSet (die size : Nat)
  /-- SOFT_ERROR_CORRECTED (R352): A corrected soft error is counted, and the 1,024th within 2^32 cycles fences the unit. -/
  | softErrorCorrected (u : HwUnit) (m : SoftMem)
  /-- SOFT_ERROR_UNCORRECTABLE (R352): An uncorrectable soft error is counted and fences the unit. -/
  | softErrorUncorrectable (u : HwUnit) (lost : List Nat)
  /-- GET_VERSION (R354): Answers the SPDM GET_VERSION request. -/
  | getVersion
  /-- GET_CAPABILITIES (R354): Answers the SPDM GET_CAPABILITIES request. -/
  | getCapabilities
  /-- NEGOTIATE_ALGORITHMS (R354): Answers SPDM NEGOTIATE_ALGORITHMS with the fixed algorithms. -/
  | negotiateAlgorithms
  /-- GET_DIGESTS (R354): Answers SPDM GET_DIGESTS. -/
  | getDigests
  /-- GET_CERTIFICATE (R354): Returns the certificate chain of slot 0. -/
  | getCertificate (off len : Nat)
  /-- CHALLENGE (R354): Answers an SPDM CHALLENGE signed with the identity key. -/
  | challenge (nonce : Nat)
  /-- GET_MEASUREMENTS (R354): Returns the signed measurement blocks over the requester's nonce. -/
  | getMeasurements (nonce : Nat)
  /-- UNSUPPORTED_REQUEST (R354): Any other SPDM request is answered with an ERROR of UnsupportedRequest. -/
  | unsupportedRequest (code : Nat)
  /-- HW2_APERTURE_WRITE (R257): A host write through the HW2 aperture stores bytes into HBM, for example page tables and packet data. -/
  | hw2ApertureWrite (off : Nat) (data : List (BitVec 8))
  /-- CORE_CYCLE (R64): Each core cycle advances CYCLE and exactly one idle-by-cause counter per physical core. -/
  | coreCycle
  deriving DecidableEq, Repr

end Sys2Proof
end

