-- ==== Sys2Proof/WellFormed.lean ====
section
/-! DEFINITION. An instruction is well formed when every operand fits the field that the encoding gives it
(02_encoding.md R27, spec/opcode_table.json); an event has no encoding and no field to fit. -/

namespace Sys2Proof

/-- The instruction has an encoding: it is no event. -/
def Instr.hasWord : Instr → Bool
  | .add _ _ _ _ _ => true
  | .sub _ _ _ _ _ => true
  | .and _ _ _ _ _ => true
  | .or _ _ _ _ _ => true
  | .xor _ _ _ _ _ => true
  | .sll _ _ _ _ _ => true
  | .srl _ _ _ _ _ => true
  | .sra _ _ _ _ _ => true
  | .slt _ _ _ _ _ => true
  | .sltu _ _ _ _ _ => true
  | .min _ _ _ _ _ => true
  | .max _ _ _ _ _ => true
  | .minu _ _ _ _ _ => true
  | .maxu _ _ _ _ _ => true
  | .addw _ _ _ _ _ => true
  | .subw _ _ _ _ _ => true
  | .mul _ _ _ _ _ => true
  | .mulh _ _ _ _ _ => true
  | .mulhu _ _ _ _ _ => true
  | .div _ _ _ _ _ => true
  | .divu _ _ _ _ _ => true
  | .rem _ _ _ _ _ => true
  | .remu _ _ _ _ _ => true
  | .addi _ _ _ _ _ => true
  | .andi _ _ _ _ _ => true
  | .ori _ _ _ _ _ => true
  | .xori _ _ _ _ _ => true
  | .slli _ _ _ _ _ => true
  | .srli _ _ _ _ _ => true
  | .srai _ _ _ _ _ => true
  | .slti _ _ _ _ _ => true
  | .sltiu _ _ _ _ _ => true
  | .amoAdd _ _ _ _ _ => true
  | .amoMin _ _ _ _ _ => true
  | .amoMax _ _ _ _ _ => true
  | .amoSwap _ _ _ _ _ => true
  | .amoCas _ _ _ _ _ => true
  | .amoAnd _ _ _ _ _ => true
  | .amoOr _ _ _ _ _ => true
  | .li _ _ _ _ => true
  | .lsh _ _ _ _ => true
  | .ldB _ _ _ _ => true
  | .ldBu _ _ _ _ => true
  | .ldH _ _ _ _ => true
  | .ldHu _ _ _ _ => true
  | .ldW _ _ _ _ => true
  | .ldWu _ _ _ _ => true
  | .ldD _ _ _ _ => true
  | .stB _ _ _ _ => true
  | .stH _ _ _ _ => true
  | .stW _ _ _ _ => true
  | .stD _ _ _ _ => true
  | .beqz _ _ _ _ => true
  | .bnez _ _ _ _ => true
  | .bltz _ _ _ _ => true
  | .bgez _ _ _ _ => true
  | .bgtz _ _ _ _ => true
  | .blez _ _ _ _ => true
  | .bcq _ _ _ => true
  | .bncq _ _ _ => true
  | .j _ _ _ => true
  | .call _ _ _ => true
  | .loop _ _ _ _ _ => true
  | .loopi _ _ _ _ _ => true
  | .mfsr _ _ _ _ => true
  | .mtsr _ _ _ _ => true
  | .jr _ _ _ _ => true
  | .trap _ _ _ => true
  | .brk _ _ => true
  | .rett => true
  | .escal _ => true
  | .halt _ _ => true
  | .asstDone _ => true
  | .bankRd _ _ => true
  | .bankWr _ _ => true
  | .cyc _ _ _ => true
  | .acq _ _ _ => true
  | .rel _ _ _ => true
  | .acqGen _ _ _ _ => true
  | .fence _ _ _ => true
  | .soGen _ _ _ _ => true
  | .ctxYield _ _ => true
  | .dlogArm _ _ => true
  | .dlogStop _ => true
  | .dlogPos _ _ => true
  | .cqPut _ _ => true
  | .engSt _ _ _ => true
  | .ringInit _ _ _ => true
  | .ringClaim _ _ _ _ => true
  | .ringCommit _ _ _ => true
  | .ringWfill _ _ _ _ => true
  | .ringWfree _ _ _ _ => true
  | .ringRel _ _ _ => true
  | .cp _ _ _ _ => true
  | .cpFo _ _ _ _ => true
  | .cp2d _ _ _ _ => true
  | .cp2dFo _ _ _ _ => true
  | .cpMc _ _ _ _ => true
  | .cpFill _ _ _ _ => true
  | .geGather _ _ _ _ => true
  | .geGather2d _ _ _ _ => true
  | .geScatter _ _ _ _ => true
  | .vadd _ _ _ _ _ _ _ => true
  | .vsub _ _ _ _ _ _ _ => true
  | .vmul _ _ _ _ _ _ _ => true
  | .vmac _ _ _ _ _ _ _ => true
  | .vmin _ _ _ _ _ _ => true
  | .vmax _ _ _ _ _ _ => true
  | .vabs _ _ _ _ _ => true
  | .vneg _ _ _ _ _ => true
  | .vexp2 _ _ _ _ _ _ => true
  | .vlog2 _ _ _ _ _ _ => true
  | .vrcp _ _ _ _ _ _ => true
  | .vrsqrt _ _ _ _ _ _ => true
  | .vcmpEq _ _ _ _ _ _ => true
  | .vcmpNe _ _ _ _ _ _ => true
  | .vcmpLt _ _ _ _ _ _ => true
  | .vcmpLe _ _ _ _ _ _ => true
  | .vsel _ _ _ _ _ _ => true
  | .vsum _ _ _ _ _ _ => true
  | .vrmax _ _ _ _ _ => true
  | .vrmin _ _ _ _ _ => true
  | .vcvt _ _ _ _ _ _ _ _ => true
  | .vadds _ _ _ _ _ _ => true
  | .vmuls _ _ _ _ _ _ => true
  | .vmacs _ _ _ _ _ _ => true
  | .vmins _ _ _ _ _ _ => true
  | .vmaxs _ _ _ _ _ _ => true
  | .vfill _ _ _ _ _ => true
  | .vseti _ _ _ _ => true
  | .vsetf _ _ _ _ => true
  | .vand _ _ _ _ _ _ => true
  | .vor _ _ _ _ _ _ => true
  | .vxor _ _ _ _ _ _ => true
  | .vnot _ _ _ _ _ => true
  | .vshl _ _ _ _ _ _ => true
  | .vshr _ _ _ _ _ _ => true
  | .vsra _ _ _ _ _ _ => true
  | .vmulh _ _ _ _ _ _ => true
  | .vperm _ _ _ _ _ _ => true
  | .vcompact _ _ _ _ _ _ => true
  | .vexpand _ _ _ _ _ _ => true
  | .vscanAdd _ _ _ _ _ => true
  | .vscanMax _ _ _ _ _ => true
  | .vcolsel _ _ _ _ _ _ => true
  | .vprobe _ _ _ _ _ => true
  | .vstop _ _ _ _ _ => true
  | .vmov _ _ _ _ _ => true
  | .vmovDescriptor _ _ _ _ => true
  | .vshift _ _ _ _ _ _ => true
  | .vrotl _ _ _ _ _ _ => true
  | .vbcast _ _ _ _ _ _ => true
  | .vamoAdd _ _ _ _ _ _ => true
  | .vamoMin _ _ _ _ _ _ => true
  | .vamoMax _ _ _ _ _ _ => true
  | .vamoComb _ _ _ _ _ => true
  | .mxMac _ _ _ _ _ _ => true
  | .mxMacz _ _ _ _ _ _ => true
  | .mxZero _ _ _ => true
  | .mxLd _ _ _ _ => true
  | .mxSt _ _ _ _ => true
  | .mxStc _ _ _ _ _ => true
  | .mxMask _ _ _ => true
  | .mxTw _ _ _ => true
  | .mxAdd _ _ _ _ => true
  | .mxSync _ _ => true
  | .rtClr _ _ => true
  | .rtLd _ _ _ => true
  | .rtSt _ _ _ _ => true
  | .rtQr _ _ _ _ _ _ => true
  | .rtVec _ _ _ _ _ => true
  | .rtRot _ _ _ _ _ => true
  | .rtAngB16 _ _ _ _ => true
  | .rtAngB32 _ _ _ _ => true
  | .rtSol _ _ _ _ _ _ => true
  | .rtApp _ _ _ _ _ => true
  | .rtGz _ _ => true
  | .rtRhs _ _ _ => true
  | .seqRetire _ _ _ _ => true
  | .seqRd _ _ _ _ => true
  | .seqKv _ _ _ _ => true
  | .nodeLaunch _ _ _ _ => true
  | .nodeSig _ _ _ => true
  | .distHint _ _ _ _ => true
  | .tnsSet _ _ _ _ => true
  | .tnsWait _ _ _ => true
  | .tnsBits _ _ _ _ => true
  | .collStart _ _ _ => true
  | .collStat _ _ _ => true
  | .rngSet _ _ _ _ => true
  | .sigAdd _ _ _ _ _ => true
  | .sigRd _ _ _ _ => true
  | .sigWait _ _ _ _ _ => true
  | .flagAdd _ _ _ _ _ => true
  | .flagMset _ _ _ _ _ => true
  | .flagWait _ _ _ _ _ => true
  | .ctrRd _ _ _ _ => true
  | .ctrSel _ _ _ _ => true
  | .evPop _ _ => true
  | .evPeek _ _ => true
  | .pktSend _ _ _ => true
  | .pktResend _ _ _ => true
  | .chkReq _ _ _ => true
  | .pauseSnd _ _ _ => true
  | .collStep _ _ _ => true
  | .portSt _ _ _ => true
  | .bmpSet _ _ _ => true
  | .bmpClr _ _ _ => true
  | .bmpTest _ _ _ => true
  | .bmpScan _ _ _ => true
  | .tmrSet _ _ _ => true
  | .tmrClr _ _ => true
  | .rateSet _ _ _ => true
  | .pathSet _ _ _ => true
  | .rtoSet _ _ _ => true
  | .weirTake _ _ _ => true
  | .weirCall _ _ _ => true
  | .weirDone _ _ _ => true
  | .addiLiteral _ _ _ _ => true
  | .andiLiteral _ _ _ _ => true
  | .oriLiteral _ _ _ _ => true
  | .xoriLiteral _ _ _ _ => true
  | .liLiteral _ _ _ => true
  | .ldBLiteral _ _ _ _ => true
  | .ldBuLiteral _ _ _ _ => true
  | .ldHLiteral _ _ _ _ => true
  | .ldHuLiteral _ _ _ _ => true
  | .ldWLiteral _ _ _ _ => true
  | .ldWuLiteral _ _ _ _ => true
  | .ldDLiteral _ _ _ _ => true
  | .stBLiteral _ _ _ _ => true
  | .stHLiteral _ _ _ _ => true
  | .stWLiteral _ _ _ _ => true
  | .stDLiteral _ _ _ _ => true
  | .loopiLiteral _ _ _ _ => true
  | .illegal _ => false
  | .deviceReset => false
  | .registerWrite _ => false
  | .sqDoorbell _ _ => false
  | .hqDoorbell _ _ => false
  | .queueEnable _ _ => false
  | .queueDisable _ => false
  | .resume _ => false
  | .abort _ => false
  | .queueSwitchIn _ => false
  | .queueSwitchOut _ => false
  | .hostAccessFailure _ _ _ _ => false
  | .launch _ => false
  | .barrier _ => false
  | .barrierEvaluation _ => false
  | .signal _ => false
  | .copy _ => false
  | .copyPacketChunk _ _ => false
  | .admission _ => false
  | .freeze _ => false
  | .freezeDrainTimeout _ => false
  | .freezeImageWritten _ => false
  | .thaw _ => false
  | .fencePacket _ => false
  | .handler _ => false
  | .create => false
  | .destroy => false
  | .map => false
  | .grant => false
  | .bind => false
  | .unbind => false
  | .sa => false
  | .slotLoad => false
  | .slotUnload => false
  | .nodeDispatch => false
  | .dispatchStarvation _ => false
  | .nodeCompletion _ => false
  | .powerGateExpiry _ => false
  | .coreWakeDone _ => false
  | .contextFailure _ _ => false
  | .trapEntry _ => false
  | .escalation _ => false
  | .handlerOverrun _ => false
  | .firmwareResume _ => false
  | .firmwareHandlerReturn _ => false
  | .bankSwap _ => false
  | .bankSwapEnd _ => false
  | .quantumExpiry _ => false
  | .blockingWait _ => false
  | .spillStore _ _ _ => false
  | .spillResume _ => false
  | .spillEnd _ => false
  | .shadowFillEnd _ => false
  | .lsPageAssign _ _ => false
  | .queueDeadlock _ => false
  | .ceCommandStart _ _ => false
  | .copyChunk _ => false
  | .gatherStep _ => false
  | .engineCommandComplete _ _ _ => false
  | .followOnEntry _ => false
  | .mxCommandStart _ => false
  | .mxStep _ => false
  | .mxTwSatisfied _ => false
  | .mxCommandComplete _ => false
  | .rtCommandStart _ => false
  | .rtRowCommit _ => false
  | .rtCommandComplete _ => false
  | .vectorBeat _ => false
  | .multicastLand => false
  | .fabricDataArrival _ _ => false
  | .claimWaitEnd _ _ => false
  | .deadlineRelease _ _ _ => false
  | .ackArrival _ _ _ _ _ => false
  | .chkReqReceived _ _ => false
  | .pauseReceived _ _ => false
  | .resumeReceived _ _ => false
  | .weirReqReceived _ _ => false
  | .ticketReceived _ _ => false
  | .callReceived _ _ => false
  | .weirDoneReceived _ _ => false
  | .faultReceived _ _ => false
  | .newepReceived _ _ => false
  | .packetTransmit _ _ => false
  | .timeout _ _ _ => false
  | .timer _ _ => false
  | .eventDeferredEnqueue _ => false
  | .connectionClose _ _ => false
  | .link _ _ => false
  | .walkerEmit _ _ => false
  | .gatedChunkRelease _ _ _ => false
  | .collDone _ _ => false
  | .sluiceTrapTimeout _ => false
  | .settleEnd _ => false
  | .storageFormatWrite _ _ _ _ _ => false
  | .basinCarveoutSet _ _ => false
  | .softErrorCorrected _ _ => false
  | .softErrorUncorrectable _ _ => false
  | .getVersion => false
  | .getCapabilities => false
  | .negotiateAlgorithms => false
  | .getDigests => false
  | .getCertificate _ _ => false
  | .challenge _ => false
  | .getMeasurements _ => false
  | .unsupportedRequest _ => false
  | .hw2ApertureWrite _ _ => false
  | .coreCycle => false

/-- Every operand fits its field. -/
def Instr.wf : Instr → Bool
  | .add _ _ d a b => decide (d < 32) && decide (a < 32) && decide (b < 32)
  | .sub _ _ d a b => decide (d < 32) && decide (a < 32) && decide (b < 32)
  | .and _ _ d a b => decide (d < 32) && decide (a < 32) && decide (b < 32)
  | .or _ _ d a b => decide (d < 32) && decide (a < 32) && decide (b < 32)
  | .xor _ _ d a b => decide (d < 32) && decide (a < 32) && decide (b < 32)
  | .sll _ _ d a b => decide (d < 32) && decide (a < 32) && decide (b < 32)
  | .srl _ _ d a b => decide (d < 32) && decide (a < 32) && decide (b < 32)
  | .sra _ _ d a b => decide (d < 32) && decide (a < 32) && decide (b < 32)
  | .slt _ _ d a b => decide (d < 32) && decide (a < 32) && decide (b < 32)
  | .sltu _ _ d a b => decide (d < 32) && decide (a < 32) && decide (b < 32)
  | .min _ _ d a b => decide (d < 32) && decide (a < 32) && decide (b < 32)
  | .max _ _ d a b => decide (d < 32) && decide (a < 32) && decide (b < 32)
  | .minu _ _ d a b => decide (d < 32) && decide (a < 32) && decide (b < 32)
  | .maxu _ _ d a b => decide (d < 32) && decide (a < 32) && decide (b < 32)
  | .addw _ _ d a b => decide (d < 32) && decide (a < 32) && decide (b < 32)
  | .subw _ _ d a b => decide (d < 32) && decide (a < 32) && decide (b < 32)
  | .mul _ _ d a b => decide (d < 32) && decide (a < 32) && decide (b < 32)
  | .mulh _ _ d a b => decide (d < 32) && decide (a < 32) && decide (b < 32)
  | .mulhu _ _ d a b => decide (d < 32) && decide (a < 32) && decide (b < 32)
  | .div _ _ d a b => decide (d < 32) && decide (a < 32) && decide (b < 32)
  | .divu _ _ d a b => decide (d < 32) && decide (a < 32) && decide (b < 32)
  | .rem _ _ d a b => decide (d < 32) && decide (a < 32) && decide (b < 32)
  | .remu _ _ d a b => decide (d < 32) && decide (a < 32) && decide (b < 32)
  | .addi _ _ d a imm => decide (d < 32) && decide (a < 32) && decide (imm < 2048)
  | .andi _ _ d a imm => decide (d < 32) && decide (a < 32) && decide (imm < 2048)
  | .ori _ _ d a imm => decide (d < 32) && decide (a < 32) && decide (imm < 2048)
  | .xori _ _ d a imm => decide (d < 32) && decide (a < 32) && decide (imm < 2048)
  | .slli _ _ d a n => decide (d < 32) && decide (a < 32) && decide (n < 64)
  | .srli _ _ d a n => decide (d < 32) && decide (a < 32) && decide (n < 64)
  | .srai _ _ d a n => decide (d < 32) && decide (a < 32) && decide (n < 64)
  | .slti _ _ d a imm => decide (d < 32) && decide (a < 32) && decide (imm < 256)
  | .sltiu _ _ d a imm => decide (d < 32) && decide (a < 32) && decide (imm < 256)
  | .amoAdd _ d a b ty => decide (d < 32) && decide (a < 32) && decide (b < 32) && decide (ty < 4)
  | .amoMin _ d a b ty => decide (d < 32) && decide (a < 32) && decide (b < 32) && decide (ty < 4)
  | .amoMax _ d a b ty => decide (d < 32) && decide (a < 32) && decide (b < 32) && decide (ty < 4)
  | .amoSwap _ d a b ty => decide (d < 32) && decide (a < 32) && decide (b < 32) && decide (ty < 4)
  | .amoCas _ d a b ty => decide (d < 32) && decide (a < 32) && decide (b < 32) && decide (ty < 4)
  | .amoAnd _ d a b ty => decide (d < 32) && decide (a < 32) && decide (b < 32) && decide (ty < 4)
  | .amoOr _ d a b ty => decide (d < 32) && decide (a < 32) && decide (b < 32) && decide (ty < 4)
  | .li _ _ d imm => decide (d < 32) && decide (imm < 65536)
  | .lsh _ _ d imm => decide (d < 32) && decide (imm < 65536)
  | .ldB _ d a off => decide (d < 32) && decide (a < 32) && decide (off < 128)
  | .ldBu _ d a off => decide (d < 32) && decide (a < 32) && decide (off < 128)
  | .ldH _ d a off => decide (d < 32) && decide (a < 32) && decide (off < 128)
  | .ldHu _ d a off => decide (d < 32) && decide (a < 32) && decide (off < 128)
  | .ldW _ d a off => decide (d < 32) && decide (a < 32) && decide (off < 128)
  | .ldWu _ d a off => decide (d < 32) && decide (a < 32) && decide (off < 128)
  | .ldD _ d a off => decide (d < 32) && decide (a < 32) && decide (off < 128)
  | .stB _ d a off => decide (d < 32) && decide (a < 32) && decide (off < 128)
  | .stH _ d a off => decide (d < 32) && decide (a < 32) && decide (off < 128)
  | .stW _ d a off => decide (d < 32) && decide (a < 32) && decide (off < 128)
  | .stD _ d a off => decide (d < 32) && decide (a < 32) && decide (off < 128)
  | .beqz _ _ a off => decide (a < 32) && decide (off < 2048)
  | .bnez _ _ a off => decide (a < 32) && decide (off < 2048)
  | .bltz _ _ a off => decide (a < 32) && decide (off < 2048)
  | .bgez _ _ a off => decide (a < 32) && decide (off < 2048)
  | .bgtz _ _ a off => decide (a < 32) && decide (off < 2048)
  | .blez _ _ a off => decide (a < 32) && decide (off < 2048)
  | .bcq _ _ off => decide (off < 2048)
  | .bncq _ _ off => decide (off < 2048)
  | .j _ _ off => decide (off < 2097152)
  | .call _ _ off => decide (off < 2097152)
  | .loop _ _ c a len => decide (c < 4) && decide (a < 32) && decide (len < 2048)
  | .loopi _ _ c n len => decide (c < 4) && decide (n < 128) && decide (len < 2048)
  | .mfsr _ _ d sel => decide (d < 32) && decide (sel < 512)
  | .mtsr _ _ a sel => decide (a < 32) && decide (sel < 512)
  | .jr _ _ d a => decide (d < 32) && decide (a < 32)
  | .trap _ _ n => decide (n < 32)
  | .brk _ _ => true
  | .rett => true
  | .escal a => decide (a < 32)
  | .halt _ _ => true
  | .asstDone a => decide (a < 32)
  | .bankRd d a => decide (d < 32) && decide (a < 32)
  | .bankWr a b => decide (a < 32) && decide (b < 32)
  | .cyc _ _ d => decide (d < 32)
  | .acq _ _ a => decide (a < 32)
  | .rel _ _ a => decide (a < 32)
  | .acqGen _ _ a b => decide (a < 32) && decide (b < 32)
  | .fence _ _ k => decide (k < 32)
  | .soGen _ _ d a => decide (d < 32) && decide (a < 32)
  | .ctxYield _ _ => true
  | .dlogArm _ a => decide (a < 32)
  | .dlogStop _ => true
  | .dlogPos _ d => decide (d < 32)
  | .cqPut _ a => decide (a < 32)
  | .engSt _ t u => decide (t < 32) && decide (u < 32)
  | .ringInit _ a b => decide (a < 32) && decide (b < 32)
  | .ringClaim _ t a b => decide (t < 32) && decide (a < 32) && decide (b < 32)
  | .ringCommit _ a b => decide (a < 32) && decide (b < 32)
  | .ringWfill _ t a b => decide (t < 32) && decide (a < 32) && decide (b < 32)
  | .ringWfree _ t a b => decide (t < 32) && decide (a < 32) && decide (b < 32)
  | .ringRel _ a b => decide (a < 32) && decide (b < 32)
  | .cp _ t a b => decide (t < 32) && decide (a < 32) && decide (b < 32)
  | .cpFo _ t a b => decide (t < 32) && decide (a < 32) && decide (b < 32)
  | .cp2d _ t a b => decide (t < 32) && decide (a < 32) && decide (b < 32)
  | .cp2dFo _ t a b => decide (t < 32) && decide (a < 32) && decide (b < 32)
  | .cpMc _ t a b => decide (t < 32) && decide (a < 32) && decide (b < 32)
  | .cpFill _ t a b => decide (t < 32) && decide (a < 32) && decide (b < 32)
  | .geGather _ t a b => decide (t < 32) && decide (a < 32) && decide (b < 32)
  | .geGather2d _ t a b => decide (t < 32) && decide (a < 32) && decide (b < 32)
  | .geScatter _ t a b => decide (t < 32) && decide (a < 32) && decide (b < 32)
  | .vadd _ _ rm d a b ty => decide (rm < 4) && decide (d < 16) && decide (a < 16) && decide (b < 16) && decide (ty < 16)
  | .vsub _ _ rm d a b ty => decide (rm < 4) && decide (d < 16) && decide (a < 16) && decide (b < 16) && decide (ty < 16)
  | .vmul _ _ rm d a b ty => decide (rm < 4) && decide (d < 16) && decide (a < 16) && decide (b < 16) && decide (ty < 16)
  | .vmac _ _ rm d a b ty => decide (rm < 4) && decide (d < 16) && decide (a < 16) && decide (b < 16) && decide (ty < 16)
  | .vmin _ _ d a b ty => decide (d < 16) && decide (a < 16) && decide (b < 16) && decide (ty < 16)
  | .vmax _ _ d a b ty => decide (d < 16) && decide (a < 16) && decide (b < 16) && decide (ty < 16)
  | .vabs _ _ d a ty => decide (d < 16) && decide (a < 16) && decide (ty < 16)
  | .vneg _ _ d a ty => decide (d < 16) && decide (a < 16) && decide (ty < 16)
  | .vexp2 _ _ rm d a ty => decide (rm < 4) && decide (d < 16) && decide (a < 16) && decide (ty < 16)
  | .vlog2 _ _ rm d a ty => decide (rm < 4) && decide (d < 16) && decide (a < 16) && decide (ty < 16)
  | .vrcp _ _ rm d a ty => decide (rm < 4) && decide (d < 16) && decide (a < 16) && decide (ty < 16)
  | .vrsqrt _ _ rm d a ty => decide (rm < 4) && decide (d < 16) && decide (a < 16) && decide (ty < 16)
  | .vcmpEq _ _ d a b ty => decide (d < 16) && decide (a < 16) && decide (b < 16) && decide (ty < 16)
  | .vcmpNe _ _ d a b ty => decide (d < 16) && decide (a < 16) && decide (b < 16) && decide (ty < 16)
  | .vcmpLt _ _ d a b ty => decide (d < 16) && decide (a < 16) && decide (b < 16) && decide (ty < 16)
  | .vcmpLe _ _ d a b ty => decide (d < 16) && decide (a < 16) && decide (b < 16) && decide (ty < 16)
  | .vsel _ _ d a b ty => decide (d < 16) && decide (a < 16) && decide (b < 16) && decide (ty < 16)
  | .vsum _ _ rm d a ty => decide (rm < 4) && decide (d < 16) && decide (a < 16) && decide (ty < 16)
  | .vrmax _ _ d a ty => decide (d < 16) && decide (a < 16) && decide (ty < 16)
  | .vrmin _ _ d a ty => decide (d < 16) && decide (a < 16) && decide (ty < 16)
  | .vcvt _ _ d a m g h sat => decide (d < 16) && decide (a < 16) && decide (m < 4) && decide (g < 16) && decide (h < 16) && decide (sat < 2)
  | .vadds _ _ d a g ty => decide (d < 16) && decide (a < 16) && decide (g < 32) && decide (ty < 16)
  | .vmuls _ _ d a g ty => decide (d < 16) && decide (a < 16) && decide (g < 32) && decide (ty < 16)
  | .vmacs _ _ d a g ty => decide (d < 16) && decide (a < 16) && decide (g < 32) && decide (ty < 16)
  | .vmins _ _ d a g ty => decide (d < 16) && decide (a < 16) && decide (g < 32) && decide (ty < 16)
  | .vmaxs _ _ d a g ty => decide (d < 16) && decide (a < 16) && decide (g < 32) && decide (ty < 16)
  | .vfill _ _ d g ty => decide (d < 16) && decide (g < 32) && decide (ty < 16)
  | .vseti _ _ d imm => decide (d < 16) && decide (imm < 65536)
  | .vsetf _ _ d imm => decide (d < 16) && decide (imm < 65536)
  | .vand _ _ d a b ty => decide (d < 16) && decide (a < 16) && decide (b < 16) && decide (ty < 16)
  | .vor _ _ d a b ty => decide (d < 16) && decide (a < 16) && decide (b < 16) && decide (ty < 16)
  | .vxor _ _ d a b ty => decide (d < 16) && decide (a < 16) && decide (b < 16) && decide (ty < 16)
  | .vnot _ _ d a ty => decide (d < 16) && decide (a < 16) && decide (ty < 16)
  | .vshl _ _ d a b ty => decide (d < 16) && decide (a < 16) && decide (b < 16) && decide (ty < 16)
  | .vshr _ _ d a b ty => decide (d < 16) && decide (a < 16) && decide (b < 16) && decide (ty < 16)
  | .vsra _ _ d a b ty => decide (d < 16) && decide (a < 16) && decide (b < 16) && decide (ty < 16)
  | .vmulh _ _ d a b ty => decide (d < 16) && decide (a < 16) && decide (b < 16) && decide (ty < 16)
  | .vperm _ _ d a b ty => decide (d < 16) && decide (a < 16) && decide (b < 16) && decide (ty < 16)
  | .vcompact _ _ d a b ty => decide (d < 16) && decide (a < 16) && decide (b < 16) && decide (ty < 16)
  | .vexpand _ _ d a b ty => decide (d < 16) && decide (a < 16) && decide (b < 16) && decide (ty < 16)
  | .vscanAdd _ _ d a ty => decide (d < 16) && decide (a < 16) && decide (ty < 16)
  | .vscanMax _ _ d a ty => decide (d < 16) && decide (a < 16) && decide (ty < 16)
  | .vcolsel _ _ d a b ty => decide (d < 16) && decide (a < 16) && decide (b < 16) && decide (ty < 16)
  | .vprobe _ _ d a b => decide (d < 16) && decide (a < 16) && decide (b < 16)
  | .vstop _ _ d a b => decide (d < 16) && decide (a < 16) && decide (b < 16)
  | .vmov _ _ d a ty => decide (d < 16) && decide (a < 16) && decide (ty < 16)
  | .vmovDescriptor _ _ d n => decide (d < 16) && decide (n < 16)
  | .vshift _ _ d a g ty => decide (d < 16) && decide (a < 16) && decide (g < 32) && decide (ty < 16)
  | .vrotl _ _ d a g ty => decide (d < 16) && decide (a < 16) && decide (g < 32) && decide (ty < 16)
  | .vbcast _ _ d a g ty => decide (d < 16) && decide (a < 16) && decide (g < 32) && decide (ty < 16)
  | .vamoAdd _ _ d a g ty => decide (d < 16) && decide (a < 16) && decide (g < 32) && decide (ty < 16)
  | .vamoMin _ _ d a g ty => decide (d < 16) && decide (a < 16) && decide (g < 32) && decide (ty < 16)
  | .vamoMax _ _ d a g ty => decide (d < 16) && decide (a < 16) && decide (g < 32) && decide (ty < 16)
  | .vamoComb _ _ d a g => decide (d < 16) && decide (a < 16) && decide (g < 32)
  | .mxMac _ _ c ty a b => decide (c < 4) && decide (ty < 16) && decide (a < 8) && decide (b < 8)
  | .mxMacz _ _ c ty a b => decide (c < 4) && decide (ty < 16) && decide (a < 8) && decide (b < 8)
  | .mxZero _ _ c => decide (c < 4)
  | .mxLd _ _ c a => decide (c < 4) && decide (a < 8)
  | .mxSt _ _ c a => decide (c < 4) && decide (a < 8)
  | .mxStc _ _ c ty a => decide (c < 4) && decide (ty < 16) && decide (a < 8)
  | .mxMask _ _ a => decide (a < 8)
  | .mxTw _ _ a => decide (a < 8)
  | .mxAdd _ _ c m => decide (c < 4) && decide (m < 8)
  | .mxSync _ _ => true
  | .rtClr _ _ => true
  | .rtLd _ _ a => decide (a < 16)
  | .rtSt _ _ g a => decide (g < 4) && decide (a < 16)
  | .rtQr _ _ g a b n => decide (g < 4) && decide (a < 16) && decide (b < 16) && decide (n < 8)
  | .rtVec _ _ g a b => decide (g < 4) && decide (a < 16) && decide (b < 16)
  | .rtRot _ _ g a b => decide (g < 4) && decide (a < 16) && decide (b < 16)
  | .rtAngB16 _ _ a b => decide (a < 16) && decide (b < 16)
  | .rtAngB32 _ _ a b => decide (a < 16) && decide (b < 16)
  | .rtSol _ _ g a b n => decide (g < 4) && decide (a < 16) && decide (b < 16) && decide (n < 8)
  | .rtApp _ _ g a b => decide (g < 4) && decide (a < 16) && decide (b < 16)
  | .rtGz _ _ => true
  | .rtRhs _ _ a => decide (a < 16)
  | .seqRetire _ d a b => decide (d < 32) && decide (a < 32) && decide (b < 32)
  | .seqRd _ d a b => decide (d < 32) && decide (a < 32) && decide (b < 32)
  | .seqKv _ d a b => decide (d < 32) && decide (a < 32) && decide (b < 32)
  | .nodeLaunch _ d a b => decide (d < 32) && decide (a < 32) && decide (b < 32)
  | .nodeSig _ d a => decide (d < 32) && decide (a < 32)
  | .distHint _ d a b => decide (d < 32) && decide (a < 32) && decide (b < 32)
  | .tnsSet _ d a b => decide (d < 32) && decide (a < 32) && decide (b < 32)
  | .tnsWait _ d a => decide (d < 32) && decide (a < 32)
  | .tnsBits _ d a b => decide (d < 32) && decide (a < 32) && decide (b < 32)
  | .collStart _ d a => decide (d < 32) && decide (a < 32)
  | .collStat _ d a => decide (d < 32) && decide (a < 32)
  | .rngSet _ d a b => decide (d < 32) && decide (a < 32) && decide (b < 32)
  | .sigAdd _ _ d a b => decide (d < 32) && decide (a < 32) && decide (b < 32)
  | .sigRd _ _ d a => decide (d < 32) && decide (a < 32)
  | .sigWait _ _ d a b => decide (d < 32) && decide (a < 32) && decide (b < 32)
  | .flagAdd _ _ d a b => decide (d < 32) && decide (a < 32) && decide (b < 32)
  | .flagMset _ _ d a b => decide (d < 32) && decide (a < 32) && decide (b < 32)
  | .flagWait _ _ d a b => decide (d < 32) && decide (a < 32) && decide (b < 32)
  | .ctrRd _ _ d a => decide (d < 32) && decide (a < 32)
  | .ctrSel _ d a b => decide (d < 32) && decide (a < 32) && decide (b < 32)
  | .evPop d a => decide (d < 32) && decide (a < 32)
  | .evPeek d a => decide (d < 32) && decide (a < 32)
  | .pktSend d a b => decide (d < 32) && decide (a < 32) && decide (b < 32)
  | .pktResend d a b => decide (d < 32) && decide (a < 32) && decide (b < 32)
  | .chkReq d a b => decide (d < 32) && decide (a < 32) && decide (b < 32)
  | .pauseSnd d a b => decide (d < 32) && decide (a < 32) && decide (b < 32)
  | .collStep d a b => decide (d < 32) && decide (a < 32) && decide (b < 32)
  | .portSt d a b => decide (d < 32) && decide (a < 32) && decide (b < 32)
  | .bmpSet d a b => decide (d < 32) && decide (a < 32) && decide (b < 32)
  | .bmpClr d a b => decide (d < 32) && decide (a < 32) && decide (b < 32)
  | .bmpTest d a b => decide (d < 32) && decide (a < 32) && decide (b < 32)
  | .bmpScan d a b => decide (d < 32) && decide (a < 32) && decide (b < 32)
  | .tmrSet d a b => decide (d < 32) && decide (a < 32) && decide (b < 32)
  | .tmrClr d a => decide (d < 32) && decide (a < 32)
  | .rateSet d a b => decide (d < 32) && decide (a < 32) && decide (b < 32)
  | .pathSet d a b => decide (d < 32) && decide (a < 32) && decide (b < 32)
  | .rtoSet d a b => decide (d < 32) && decide (a < 32) && decide (b < 32)
  | .weirTake d a b => decide (d < 32) && decide (a < 32) && decide (b < 32)
  | .weirCall d a b => decide (d < 32) && decide (a < 32) && decide (b < 32)
  | .weirDone d a b => decide (d < 32) && decide (a < 32) && decide (b < 32)
  | .addiLiteral _ d a lit => decide (d < 32) && decide (a < 32) && decide (lit < 4294967296)
  | .andiLiteral _ d a lit => decide (d < 32) && decide (a < 32) && decide (lit < 4294967296)
  | .oriLiteral _ d a lit => decide (d < 32) && decide (a < 32) && decide (lit < 4294967296)
  | .xoriLiteral _ d a lit => decide (d < 32) && decide (a < 32) && decide (lit < 4294967296)
  | .liLiteral _ d lit => decide (d < 32) && decide (lit < 4294967296)
  | .ldBLiteral _ d a lit => decide (d < 32) && decide (a < 32) && decide (lit < 4294967296)
  | .ldBuLiteral _ d a lit => decide (d < 32) && decide (a < 32) && decide (lit < 4294967296)
  | .ldHLiteral _ d a lit => decide (d < 32) && decide (a < 32) && decide (lit < 4294967296)
  | .ldHuLiteral _ d a lit => decide (d < 32) && decide (a < 32) && decide (lit < 4294967296)
  | .ldWLiteral _ d a lit => decide (d < 32) && decide (a < 32) && decide (lit < 4294967296)
  | .ldWuLiteral _ d a lit => decide (d < 32) && decide (a < 32) && decide (lit < 4294967296)
  | .ldDLiteral _ d a lit => decide (d < 32) && decide (a < 32) && decide (lit < 4294967296)
  | .stBLiteral _ d a lit => decide (d < 32) && decide (a < 32) && decide (lit < 4294967296)
  | .stHLiteral _ d a lit => decide (d < 32) && decide (a < 32) && decide (lit < 4294967296)
  | .stWLiteral _ d a lit => decide (d < 32) && decide (a < 32) && decide (lit < 4294967296)
  | .stDLiteral _ d a lit => decide (d < 32) && decide (a < 32) && decide (lit < 4294967296)
  | .loopiLiteral _ c len lit => decide (c < 4) && decide (len < 2048) && decide (lit < 4294967296)
  | .illegal _ => true
  | .deviceReset => true
  | .registerWrite _ => true
  | .sqDoorbell _ _ => true
  | .hqDoorbell _ _ => true
  | .queueEnable _ _ => true
  | .queueDisable _ => true
  | .resume _ => true
  | .abort _ => true
  | .queueSwitchIn _ => true
  | .queueSwitchOut _ => true
  | .hostAccessFailure _ _ _ _ => true
  | .launch _ => true
  | .barrier _ => true
  | .barrierEvaluation _ => true
  | .signal _ => true
  | .copy _ => true
  | .copyPacketChunk _ _ => true
  | .admission _ => true
  | .freeze _ => true
  | .freezeDrainTimeout _ => true
  | .freezeImageWritten _ => true
  | .thaw _ => true
  | .fencePacket _ => true
  | .handler _ => true
  | .create => true
  | .destroy => true
  | .map => true
  | .grant => true
  | .bind => true
  | .unbind => true
  | .sa => true
  | .slotLoad => true
  | .slotUnload => true
  | .nodeDispatch => true
  | .dispatchStarvation _ => true
  | .nodeCompletion _ => true
  | .powerGateExpiry _ => true
  | .coreWakeDone _ => true
  | .contextFailure _ _ => true
  | .trapEntry _ => true
  | .escalation _ => true
  | .handlerOverrun _ => true
  | .firmwareResume _ => true
  | .firmwareHandlerReturn _ => true
  | .bankSwap _ => true
  | .bankSwapEnd _ => true
  | .quantumExpiry _ => true
  | .blockingWait _ => true
  | .spillStore _ _ _ => true
  | .spillResume _ => true
  | .spillEnd _ => true
  | .shadowFillEnd _ => true
  | .lsPageAssign _ _ => true
  | .queueDeadlock _ => true
  | .ceCommandStart _ _ => true
  | .copyChunk _ => true
  | .gatherStep _ => true
  | .engineCommandComplete _ _ _ => true
  | .followOnEntry _ => true
  | .mxCommandStart _ => true
  | .mxStep _ => true
  | .mxTwSatisfied _ => true
  | .mxCommandComplete _ => true
  | .rtCommandStart _ => true
  | .rtRowCommit _ => true
  | .rtCommandComplete _ => true
  | .vectorBeat _ => true
  | .multicastLand => true
  | .fabricDataArrival _ _ => true
  | .claimWaitEnd _ _ => true
  | .deadlineRelease _ _ _ => true
  | .ackArrival _ _ _ _ _ => true
  | .chkReqReceived _ _ => true
  | .pauseReceived _ _ => true
  | .resumeReceived _ _ => true
  | .weirReqReceived _ _ => true
  | .ticketReceived _ _ => true
  | .callReceived _ _ => true
  | .weirDoneReceived _ _ => true
  | .faultReceived _ _ => true
  | .newepReceived _ _ => true
  | .packetTransmit _ _ => true
  | .timeout _ _ _ => true
  | .timer _ _ => true
  | .eventDeferredEnqueue _ => true
  | .connectionClose _ _ => true
  | .link _ _ => true
  | .walkerEmit _ _ => true
  | .gatedChunkRelease _ _ _ => true
  | .collDone _ _ => true
  | .sluiceTrapTimeout _ => true
  | .settleEnd _ => true
  | .storageFormatWrite _ _ _ _ _ => true
  | .basinCarveoutSet _ _ => true
  | .softErrorCorrected _ _ => true
  | .softErrorUncorrectable _ _ => true
  | .getVersion => true
  | .getCapabilities => true
  | .negotiateAlgorithms => true
  | .getDigests => true
  | .getCertificate _ _ => true
  | .challenge _ => true
  | .getMeasurements _ => true
  | .unsupportedRequest _ => true
  | .hw2ApertureWrite _ _ => true
  | .coreCycle => true

end Sys2Proof
end

