-- ==== Sys2Proof/Decode.lean ====
section
/-! DEFINITION. Decoding of instruction words (02_encoding.md R25 to R46) and, after it, encoding.
The decoder is total on any bytes and rejects by name; what it rejects raises ILLEGAL when executed (R46).
It reads the opcode tables only: static conditions on operand values (Table 14: lc = 3, len = 0, type codes ...) are
checked when the instruction executes. -/

namespace Sys2Proof

/-- Why bytes are no instruction. -/
inductive DecodeError where
  /-- Fewer bytes than the word, or its literal, needs. -/
  | truncated
  /-- The major opcode is reserved (R36). -/
  | reservedMajor
  /-- The function, op, cond or sub code is not assigned, or a reserved or unused field is not zero (R37 to R44, R28). -/
  | unassigned
  /-- X = 1 on a word that takes no literal (R30). -/
  | literalRefused
  deriving DecidableEq, Repr

open Sys2Proof.Machine (fld)

/-- Bits 31:28 of a word. -/
def rillOf (w : Nat) : Rill := ⟨fld w 31 31 == 1, fld w 30 30 == 1, fld w 29 29 == 1, fld w 28 28 == 1⟩

/-- Bit 27 of a word. -/
def bit27 (w : Nat) : Bool := fld w 27 27 == 1

/-- Words of major 0x01. -/
def decode01 (w : Nat) : Option Instr :=
  if fld w 5 0 = 0 then some (.add (rillOf w) (bit27 w) (fld w 20 16) (fld w 15 11) (fld w 10 6))
  else if fld w 5 0 = 1 then some (.sub (rillOf w) (bit27 w) (fld w 20 16) (fld w 15 11) (fld w 10 6))
  else if fld w 5 0 = 2 then some (.and (rillOf w) (bit27 w) (fld w 20 16) (fld w 15 11) (fld w 10 6))
  else if fld w 5 0 = 3 then some (.or (rillOf w) (bit27 w) (fld w 20 16) (fld w 15 11) (fld w 10 6))
  else if fld w 5 0 = 4 then some (.xor (rillOf w) (bit27 w) (fld w 20 16) (fld w 15 11) (fld w 10 6))
  else if fld w 5 0 = 5 then some (.sll (rillOf w) (bit27 w) (fld w 20 16) (fld w 15 11) (fld w 10 6))
  else if fld w 5 0 = 6 then some (.srl (rillOf w) (bit27 w) (fld w 20 16) (fld w 15 11) (fld w 10 6))
  else if fld w 5 0 = 7 then some (.sra (rillOf w) (bit27 w) (fld w 20 16) (fld w 15 11) (fld w 10 6))
  else if fld w 5 0 = 8 then some (.slt (rillOf w) (bit27 w) (fld w 20 16) (fld w 15 11) (fld w 10 6))
  else if fld w 5 0 = 9 then some (.sltu (rillOf w) (bit27 w) (fld w 20 16) (fld w 15 11) (fld w 10 6))
  else if fld w 5 0 = 10 then some (.min (rillOf w) (bit27 w) (fld w 20 16) (fld w 15 11) (fld w 10 6))
  else if fld w 5 0 = 11 then some (.max (rillOf w) (bit27 w) (fld w 20 16) (fld w 15 11) (fld w 10 6))
  else if fld w 5 0 = 12 then some (.minu (rillOf w) (bit27 w) (fld w 20 16) (fld w 15 11) (fld w 10 6))
  else if fld w 5 0 = 13 then some (.maxu (rillOf w) (bit27 w) (fld w 20 16) (fld w 15 11) (fld w 10 6))
  else if fld w 5 0 = 14 then some (.addw (rillOf w) (bit27 w) (fld w 20 16) (fld w 15 11) (fld w 10 6))
  else if fld w 5 0 = 15 then some (.subw (rillOf w) (bit27 w) (fld w 20 16) (fld w 15 11) (fld w 10 6))
  else if fld w 5 0 = 16 then some (.mul (rillOf w) (bit27 w) (fld w 20 16) (fld w 15 11) (fld w 10 6))
  else if fld w 5 0 = 17 then some (.mulh (rillOf w) (bit27 w) (fld w 20 16) (fld w 15 11) (fld w 10 6))
  else if fld w 5 0 = 18 then some (.mulhu (rillOf w) (bit27 w) (fld w 20 16) (fld w 15 11) (fld w 10 6))
  else if fld w 5 0 = 19 then some (.div (rillOf w) (bit27 w) (fld w 20 16) (fld w 15 11) (fld w 10 6))
  else if fld w 5 0 = 20 then some (.divu (rillOf w) (bit27 w) (fld w 20 16) (fld w 15 11) (fld w 10 6))
  else if fld w 5 0 = 21 then some (.rem (rillOf w) (bit27 w) (fld w 20 16) (fld w 15 11) (fld w 10 6))
  else if fld w 5 0 = 22 then some (.remu (rillOf w) (bit27 w) (fld w 20 16) (fld w 15 11) (fld w 10 6))
  else none

/-- Words of major 0x02. -/
def decode02 (w : Nat) : Option Instr :=
  some (.addi (rillOf w) (bit27 w) (fld w 20 16) (fld w 15 11) (fld w 10 0))

/-- Words of major 0x03. -/
def decode03 (w : Nat) : Option Instr :=
  some (.andi (rillOf w) (bit27 w) (fld w 20 16) (fld w 15 11) (fld w 10 0))

/-- Words of major 0x04. -/
def decode04 (w : Nat) : Option Instr :=
  some (.ori (rillOf w) (bit27 w) (fld w 20 16) (fld w 15 11) (fld w 10 0))

/-- Words of major 0x05. -/
def decode05 (w : Nat) : Option Instr :=
  some (.xori (rillOf w) (bit27 w) (fld w 20 16) (fld w 15 11) (fld w 10 0))

/-- Words of major 0x06. -/
def decode06 (w : Nat) : Option Instr :=
  if fld w 10 6 = 0 then some (.slli (rillOf w) (bit27 w) (fld w 20 16) (fld w 15 11) (fld w 5 0))
  else if fld w 10 6 = 4 then some (.srli (rillOf w) (bit27 w) (fld w 20 16) (fld w 15 11) (fld w 5 0))
  else if fld w 10 6 = 8 then some (.srai (rillOf w) (bit27 w) (fld w 20 16) (fld w 15 11) (fld w 5 0))
  else if fld w 10 8 = 3 then some (.slti (rillOf w) (bit27 w) (fld w 20 16) (fld w 15 11) (fld w 7 0))
  else if fld w 10 8 = 4 then some (.sltiu (rillOf w) (bit27 w) (fld w 20 16) (fld w 15 11) (fld w 7 0))
  else none

/-- Words of major 0x07. -/
def decode07 (w : Nat) : Option Instr :=
  if fld w 27 27 = 0 ∧ fld w 5 2 = 0 then some (.amoAdd (rillOf w) (fld w 20 16) (fld w 15 11) (fld w 10 6) (fld w 1 0))
  else if fld w 27 27 = 0 ∧ fld w 5 2 = 1 then some (.amoMin (rillOf w) (fld w 20 16) (fld w 15 11) (fld w 10 6) (fld w 1 0))
  else if fld w 27 27 = 0 ∧ fld w 5 2 = 2 then some (.amoMax (rillOf w) (fld w 20 16) (fld w 15 11) (fld w 10 6) (fld w 1 0))
  else if fld w 27 27 = 0 ∧ fld w 5 2 = 3 then some (.amoSwap (rillOf w) (fld w 20 16) (fld w 15 11) (fld w 10 6) (fld w 1 0))
  else if fld w 27 27 = 0 ∧ fld w 5 2 = 4 then some (.amoCas (rillOf w) (fld w 20 16) (fld w 15 11) (fld w 10 6) (fld w 1 0))
  else if fld w 27 27 = 0 ∧ fld w 5 2 = 5 then some (.amoAnd (rillOf w) (fld w 20 16) (fld w 15 11) (fld w 10 6) (fld w 1 0))
  else if fld w 27 27 = 0 ∧ fld w 5 2 = 6 then some (.amoOr (rillOf w) (fld w 20 16) (fld w 15 11) (fld w 10 6) (fld w 1 0))
  else none

/-- Words of major 0x08. -/
def decode08 (w : Nat) : Option Instr :=
  some (.li (rillOf w) (bit27 w) (fld w 20 16) (fld w 15 0))

/-- Words of major 0x09. -/
def decode09 (w : Nat) : Option Instr :=
  some (.lsh (rillOf w) (bit27 w) (fld w 20 16) (fld w 15 0))

/-- Words of major 0x0A. -/
def decode0A (w : Nat) : Option Instr :=
  if fld w 27 27 = 0 ∧ fld w 10 7 = 0 then some (.ldB (rillOf w) (fld w 20 16) (fld w 15 11) (fld w 6 0))
  else if fld w 27 27 = 0 ∧ fld w 10 7 = 1 then some (.ldBu (rillOf w) (fld w 20 16) (fld w 15 11) (fld w 6 0))
  else if fld w 27 27 = 0 ∧ fld w 10 7 = 2 then some (.ldH (rillOf w) (fld w 20 16) (fld w 15 11) (fld w 6 0))
  else if fld w 27 27 = 0 ∧ fld w 10 7 = 3 then some (.ldHu (rillOf w) (fld w 20 16) (fld w 15 11) (fld w 6 0))
  else if fld w 27 27 = 0 ∧ fld w 10 7 = 4 then some (.ldW (rillOf w) (fld w 20 16) (fld w 15 11) (fld w 6 0))
  else if fld w 27 27 = 0 ∧ fld w 10 7 = 5 then some (.ldWu (rillOf w) (fld w 20 16) (fld w 15 11) (fld w 6 0))
  else if fld w 27 27 = 0 ∧ fld w 10 7 = 6 then some (.ldD (rillOf w) (fld w 20 16) (fld w 15 11) (fld w 6 0))
  else if fld w 27 27 = 0 ∧ fld w 10 7 = 8 then some (.stB (rillOf w) (fld w 20 16) (fld w 15 11) (fld w 6 0))
  else if fld w 27 27 = 0 ∧ fld w 10 7 = 9 then some (.stH (rillOf w) (fld w 20 16) (fld w 15 11) (fld w 6 0))
  else if fld w 27 27 = 0 ∧ fld w 10 7 = 10 then some (.stW (rillOf w) (fld w 20 16) (fld w 15 11) (fld w 6 0))
  else if fld w 27 27 = 0 ∧ fld w 10 7 = 11 then some (.stD (rillOf w) (fld w 20 16) (fld w 15 11) (fld w 6 0))
  else none

/-- Words of major 0x0B. -/
def decode0B (w : Nat) : Option Instr :=
  if fld w 20 16 = 0 then some (.beqz (rillOf w) (bit27 w) (fld w 15 11) (fld w 10 0))
  else if fld w 20 16 = 1 then some (.bnez (rillOf w) (bit27 w) (fld w 15 11) (fld w 10 0))
  else if fld w 20 16 = 2 then some (.bltz (rillOf w) (bit27 w) (fld w 15 11) (fld w 10 0))
  else if fld w 20 16 = 3 then some (.bgez (rillOf w) (bit27 w) (fld w 15 11) (fld w 10 0))
  else if fld w 20 16 = 4 then some (.bgtz (rillOf w) (bit27 w) (fld w 15 11) (fld w 10 0))
  else if fld w 20 16 = 5 then some (.blez (rillOf w) (bit27 w) (fld w 15 11) (fld w 10 0))
  else if fld w 20 11 = 256 then some (.bcq (rillOf w) (bit27 w) (fld w 10 0))
  else if fld w 20 11 = 288 then some (.bncq (rillOf w) (bit27 w) (fld w 10 0))
  else none

/-- Words of major 0x0C. -/
def decode0C (w : Nat) : Option Instr :=
  some (.j (rillOf w) (bit27 w) (fld w 20 0))

/-- Words of major 0x0D. -/
def decode0D (w : Nat) : Option Instr :=
  some (.call (rillOf w) (bit27 w) (fld w 20 0))

/-- Words of major 0x0E. -/
def decode0E (w : Nat) : Option Instr :=
  if fld w 18 16 = 0 then some (.loop (rillOf w) (bit27 w) (fld w 20 19) (fld w 15 11) (fld w 10 0))
  else if fld w 18 18 = 1 then some (.loopi (rillOf w) (bit27 w) (fld w 20 19) (fld w 17 11) (fld w 10 0))
  else none

/-- Words of major 0x0F. -/
def decode0F (w : Nat) : Option Instr :=
  if fld w 15 9 = 0 then some (.mfsr (rillOf w) (bit27 w) (fld w 20 16) (fld w 8 0))
  else if fld w 20 16 = 0 ∧ fld w 10 9 = 1 then some (.mtsr (rillOf w) (bit27 w) (fld w 15 11) (fld w 8 0))
  else if fld w 10 0 = 1024 then some (.jr (rillOf w) (bit27 w) (fld w 20 16) (fld w 15 11))
  else none

/-- Words of major 0x10. -/
def decode10 (w : Nat) : Option Instr :=
  if fld w 20 11 = 0 ∧ fld w 5 0 = 0 then some (.trap (rillOf w) (bit27 w) (fld w 10 6))
  else if fld w 20 0 = 1 then some (.brk (rillOf w) (bit27 w))
  else if fld w 27 27 = 0 ∧ fld w 31 28 = 0 ∧ fld w 20 0 = 2 then some (.rett)
  else if fld w 27 27 = 0 ∧ fld w 31 28 = 0 ∧ fld w 20 16 = 0 ∧ fld w 10 0 = 3 then some (.escal (fld w 15 11))
  else if fld w 20 0 = 4 then some (.halt (rillOf w) (bit27 w))
  else if fld w 27 27 = 0 ∧ fld w 31 28 = 0 ∧ fld w 20 16 = 0 ∧ fld w 10 0 = 5 then some (.asstDone (fld w 15 11))
  else if fld w 27 27 = 0 ∧ fld w 31 28 = 0 ∧ fld w 10 0 = 6 then some (.bankRd (fld w 20 16) (fld w 15 11))
  else if fld w 27 27 = 0 ∧ fld w 31 28 = 0 ∧ fld w 20 16 = 0 ∧ fld w 5 0 = 7 then some (.bankWr (fld w 15 11) (fld w 10 6))
  else if fld w 15 0 = 8 then some (.cyc (rillOf w) (bit27 w) (fld w 20 16))
  else none

/-- Words of major 0x11. -/
def decode11 (w : Nat) : Option Instr :=
  if fld w 20 16 = 0 ∧ fld w 10 0 = 0 then some (.acq (rillOf w) (bit27 w) (fld w 15 11))
  else if fld w 20 16 = 0 ∧ fld w 10 0 = 1 then some (.rel (rillOf w) (bit27 w) (fld w 15 11))
  else if fld w 20 16 = 0 ∧ fld w 5 0 = 2 then some (.acqGen (rillOf w) (bit27 w) (fld w 15 11) (fld w 10 6))
  else if fld w 20 11 = 0 ∧ fld w 5 0 = 3 then some (.fence (rillOf w) (bit27 w) (fld w 10 6))
  else if fld w 10 0 = 4 then some (.soGen (rillOf w) (bit27 w) (fld w 20 16) (fld w 15 11))
  else none

/-- Words of major 0x12. -/
def decode12 (w : Nat) : Option Instr :=
  if fld w 20 0 = 0 then some (.ctxYield (rillOf w) (bit27 w))
  else if fld w 27 27 = 0 ∧ fld w 20 16 = 0 ∧ fld w 10 0 = 1 then some (.dlogArm (rillOf w) (fld w 15 11))
  else if fld w 27 27 = 0 ∧ fld w 20 0 = 2 then some (.dlogStop (rillOf w))
  else if fld w 27 27 = 0 ∧ fld w 15 0 = 3 then some (.dlogPos (rillOf w) (fld w 20 16))
  else none

/-- Words of major 0x18. -/
def decode18 (w : Nat) : Option Instr :=
  if fld w 27 27 = 0 ∧ fld w 20 16 = 0 ∧ fld w 10 0 = 0 then some (.cqPut (rillOf w) (fld w 15 11))
  else if fld w 27 27 = 0 ∧ fld w 10 0 = 2 then some (.engSt (rillOf w) (fld w 20 16) (fld w 15 11))
  else none

/-- Words of major 0x19. -/
def decode19 (w : Nat) : Option Instr :=
  if fld w 27 27 = 0 ∧ fld w 20 16 = 0 ∧ fld w 5 0 = 0 then some (.ringInit (rillOf w) (fld w 15 11) (fld w 10 6))
  else if fld w 27 27 = 0 ∧ fld w 5 0 = 2 then some (.ringClaim (rillOf w) (fld w 20 16) (fld w 15 11) (fld w 10 6))
  else if fld w 27 27 = 0 ∧ fld w 20 16 = 0 ∧ fld w 5 0 = 4 then some (.ringCommit (rillOf w) (fld w 15 11) (fld w 10 6))
  else if fld w 27 27 = 0 ∧ fld w 5 0 = 6 then some (.ringWfill (rillOf w) (fld w 20 16) (fld w 15 11) (fld w 10 6))
  else if fld w 27 27 = 0 ∧ fld w 5 0 = 8 then some (.ringWfree (rillOf w) (fld w 20 16) (fld w 15 11) (fld w 10 6))
  else if fld w 27 27 = 0 ∧ fld w 20 16 = 0 ∧ fld w 5 0 = 10 then some (.ringRel (rillOf w) (fld w 15 11) (fld w 10 6))
  else none

/-- Words of major 0x1A. -/
def decode1A (w : Nat) : Option Instr :=
  if fld w 27 27 = 0 ∧ fld w 5 0 = 0 then some (.cp (rillOf w) (fld w 20 16) (fld w 15 11) (fld w 10 6))
  else if fld w 27 27 = 0 ∧ fld w 5 0 = 1 then some (.cpFo (rillOf w) (fld w 20 16) (fld w 15 11) (fld w 10 6))
  else if fld w 27 27 = 0 ∧ fld w 5 0 = 2 then some (.cp2d (rillOf w) (fld w 20 16) (fld w 15 11) (fld w 10 6))
  else if fld w 27 27 = 0 ∧ fld w 5 0 = 3 then some (.cp2dFo (rillOf w) (fld w 20 16) (fld w 15 11) (fld w 10 6))
  else if fld w 27 27 = 0 ∧ fld w 5 0 = 4 then some (.cpMc (rillOf w) (fld w 20 16) (fld w 15 11) (fld w 10 6))
  else if fld w 27 27 = 0 ∧ fld w 5 0 = 6 then some (.cpFill (rillOf w) (fld w 20 16) (fld w 15 11) (fld w 10 6))
  else none

/-- Words of major 0x1B. -/
def decode1B (w : Nat) : Option Instr :=
  if fld w 27 27 = 0 ∧ fld w 5 0 = 0 then some (.geGather (rillOf w) (fld w 20 16) (fld w 15 11) (fld w 10 6))
  else if fld w 27 27 = 0 ∧ fld w 5 0 = 2 then some (.geGather2d (rillOf w) (fld w 20 16) (fld w 15 11) (fld w 10 6))
  else if fld w 27 27 = 0 ∧ fld w 5 0 = 4 then some (.geScatter (rillOf w) (fld w 20 16) (fld w 15 11) (fld w 10 6))
  else none

/-- Words of major 0x20 to 0x23. -/
def decode20 (w : Nat) : Option Instr :=
  if fld w 8 4 = 0 then some (.vadd (rillOf w) (bit27 w) (fld w 22 21) (fld w 20 17) (fld w 16 13) (fld w 12 9) (fld w 3 0))
  else if fld w 8 4 = 1 then some (.vsub (rillOf w) (bit27 w) (fld w 22 21) (fld w 20 17) (fld w 16 13) (fld w 12 9) (fld w 3 0))
  else if fld w 8 4 = 2 then some (.vmul (rillOf w) (bit27 w) (fld w 22 21) (fld w 20 17) (fld w 16 13) (fld w 12 9) (fld w 3 0))
  else if fld w 8 4 = 3 then some (.vmac (rillOf w) (bit27 w) (fld w 22 21) (fld w 20 17) (fld w 16 13) (fld w 12 9) (fld w 3 0))
  else if fld w 26 21 = 32 ∧ fld w 8 4 = 4 then some (.vmin (rillOf w) (bit27 w) (fld w 20 17) (fld w 16 13) (fld w 12 9) (fld w 3 0))
  else if fld w 26 21 = 32 ∧ fld w 8 4 = 5 then some (.vmax (rillOf w) (bit27 w) (fld w 20 17) (fld w 16 13) (fld w 12 9) (fld w 3 0))
  else if fld w 26 21 = 32 ∧ fld w 12 4 = 6 then some (.vabs (rillOf w) (bit27 w) (fld w 20 17) (fld w 16 13) (fld w 3 0))
  else if fld w 26 21 = 32 ∧ fld w 12 4 = 7 then some (.vneg (rillOf w) (bit27 w) (fld w 20 17) (fld w 16 13) (fld w 3 0))
  else if fld w 12 4 = 8 then some (.vexp2 (rillOf w) (bit27 w) (fld w 22 21) (fld w 20 17) (fld w 16 13) (fld w 3 0))
  else if fld w 12 4 = 9 then some (.vlog2 (rillOf w) (bit27 w) (fld w 22 21) (fld w 20 17) (fld w 16 13) (fld w 3 0))
  else if fld w 12 4 = 10 then some (.vrcp (rillOf w) (bit27 w) (fld w 22 21) (fld w 20 17) (fld w 16 13) (fld w 3 0))
  else if fld w 12 4 = 11 then some (.vrsqrt (rillOf w) (bit27 w) (fld w 22 21) (fld w 20 17) (fld w 16 13) (fld w 3 0))
  else if fld w 26 21 = 32 ∧ fld w 8 4 = 12 then some (.vcmpEq (rillOf w) (bit27 w) (fld w 20 17) (fld w 16 13) (fld w 12 9) (fld w 3 0))
  else if fld w 26 21 = 32 ∧ fld w 8 4 = 13 then some (.vcmpNe (rillOf w) (bit27 w) (fld w 20 17) (fld w 16 13) (fld w 12 9) (fld w 3 0))
  else if fld w 26 21 = 32 ∧ fld w 8 4 = 14 then some (.vcmpLt (rillOf w) (bit27 w) (fld w 20 17) (fld w 16 13) (fld w 12 9) (fld w 3 0))
  else if fld w 26 21 = 32 ∧ fld w 8 4 = 15 then some (.vcmpLe (rillOf w) (bit27 w) (fld w 20 17) (fld w 16 13) (fld w 12 9) (fld w 3 0))
  else if fld w 26 21 = 32 ∧ fld w 8 4 = 16 then some (.vsel (rillOf w) (bit27 w) (fld w 20 17) (fld w 16 13) (fld w 12 9) (fld w 3 0))
  else if fld w 12 4 = 17 then some (.vsum (rillOf w) (bit27 w) (fld w 22 21) (fld w 20 17) (fld w 16 13) (fld w 3 0))
  else if fld w 26 21 = 32 ∧ fld w 12 4 = 18 then some (.vrmax (rillOf w) (bit27 w) (fld w 20 17) (fld w 16 13) (fld w 3 0))
  else if fld w 26 21 = 32 ∧ fld w 12 4 = 19 then some (.vrmin (rillOf w) (bit27 w) (fld w 20 17) (fld w 16 13) (fld w 3 0))
  else none

/-- Words of major 0x24. -/
def decode24 (w : Nat) : Option Instr :=
  if fld w 10 9 = 0 then some (.vcvt (rillOf w) (bit27 w) (fld w 20 17) (fld w 16 13) (fld w 12 11) (fld w 8 5) (fld w 4 1) (fld w 0 0))
  else none

/-- Words of major 0x25. -/
def decode25 (w : Nat) : Option Instr :=
  if fld w 7 4 = 0 then some (.vadds (rillOf w) (bit27 w) (fld w 20 17) (fld w 16 13) (fld w 12 8) (fld w 3 0))
  else if fld w 7 4 = 1 then some (.vmuls (rillOf w) (bit27 w) (fld w 20 17) (fld w 16 13) (fld w 12 8) (fld w 3 0))
  else if fld w 7 4 = 2 then some (.vmacs (rillOf w) (bit27 w) (fld w 20 17) (fld w 16 13) (fld w 12 8) (fld w 3 0))
  else if fld w 7 4 = 3 then some (.vmins (rillOf w) (bit27 w) (fld w 20 17) (fld w 16 13) (fld w 12 8) (fld w 3 0))
  else if fld w 7 4 = 4 then some (.vmaxs (rillOf w) (bit27 w) (fld w 20 17) (fld w 16 13) (fld w 12 8) (fld w 3 0))
  else if fld w 16 13 = 0 ∧ fld w 7 4 = 5 then some (.vfill (rillOf w) (bit27 w) (fld w 20 17) (fld w 12 8) (fld w 3 0))
  else none

/-- Words of major 0x26. -/
def decode26 (w : Nat) : Option Instr :=
  if fld w 16 16 = 0 then some (.vseti (rillOf w) (bit27 w) (fld w 20 17) (fld w 15 0))
  else if fld w 16 16 = 1 then some (.vsetf (rillOf w) (bit27 w) (fld w 20 17) (fld w 15 0))
  else none

/-- Words of major 0x27. -/
def decode27 (w : Nat) : Option Instr :=
  if fld w 8 4 = 0 then some (.vand (rillOf w) (bit27 w) (fld w 20 17) (fld w 16 13) (fld w 12 9) (fld w 3 0))
  else if fld w 8 4 = 1 then some (.vor (rillOf w) (bit27 w) (fld w 20 17) (fld w 16 13) (fld w 12 9) (fld w 3 0))
  else if fld w 8 4 = 2 then some (.vxor (rillOf w) (bit27 w) (fld w 20 17) (fld w 16 13) (fld w 12 9) (fld w 3 0))
  else if fld w 12 4 = 3 then some (.vnot (rillOf w) (bit27 w) (fld w 20 17) (fld w 16 13) (fld w 3 0))
  else if fld w 8 4 = 4 then some (.vshl (rillOf w) (bit27 w) (fld w 20 17) (fld w 16 13) (fld w 12 9) (fld w 3 0))
  else if fld w 8 4 = 5 then some (.vshr (rillOf w) (bit27 w) (fld w 20 17) (fld w 16 13) (fld w 12 9) (fld w 3 0))
  else if fld w 8 4 = 6 then some (.vsra (rillOf w) (bit27 w) (fld w 20 17) (fld w 16 13) (fld w 12 9) (fld w 3 0))
  else if fld w 8 4 = 7 then some (.vmulh (rillOf w) (bit27 w) (fld w 20 17) (fld w 16 13) (fld w 12 9) (fld w 3 0))
  else none

/-- Words of major 0x28. -/
def decode28 (w : Nat) : Option Instr :=
  if fld w 8 4 = 0 then some (.vperm (rillOf w) (bit27 w) (fld w 20 17) (fld w 16 13) (fld w 12 9) (fld w 3 0))
  else if fld w 8 4 = 1 then some (.vcompact (rillOf w) (bit27 w) (fld w 20 17) (fld w 16 13) (fld w 12 9) (fld w 3 0))
  else if fld w 8 4 = 2 then some (.vexpand (rillOf w) (bit27 w) (fld w 20 17) (fld w 16 13) (fld w 12 9) (fld w 3 0))
  else if fld w 12 4 = 3 then some (.vscanAdd (rillOf w) (bit27 w) (fld w 20 17) (fld w 16 13) (fld w 3 0))
  else if fld w 12 4 = 4 then some (.vscanMax (rillOf w) (bit27 w) (fld w 20 17) (fld w 16 13) (fld w 3 0))
  else if fld w 8 4 = 5 then some (.vcolsel (rillOf w) (bit27 w) (fld w 20 17) (fld w 16 13) (fld w 12 9) (fld w 3 0))
  else if fld w 8 0 = 108 then some (.vprobe (rillOf w) (bit27 w) (fld w 20 17) (fld w 16 13) (fld w 12 9))
  else if fld w 8 0 = 121 then some (.vstop (rillOf w) (bit27 w) (fld w 20 17) (fld w 16 13) (fld w 12 9))
  else if fld w 12 4 = 8 then some (.vmov (rillOf w) (bit27 w) (fld w 20 17) (fld w 16 13) (fld w 3 0))
  else if fld w 12 0 = 640 then some (.vmovDescriptor (rillOf w) (bit27 w) (fld w 20 17) (fld w 16 13))
  else none

/-- Words of major 0x29. -/
def decode29 (w : Nat) : Option Instr :=
  if fld w 7 4 = 0 then some (.vshift (rillOf w) (bit27 w) (fld w 20 17) (fld w 16 13) (fld w 12 8) (fld w 3 0))
  else if fld w 7 4 = 1 then some (.vrotl (rillOf w) (bit27 w) (fld w 20 17) (fld w 16 13) (fld w 12 8) (fld w 3 0))
  else if fld w 7 4 = 2 then some (.vbcast (rillOf w) (bit27 w) (fld w 20 17) (fld w 16 13) (fld w 12 8) (fld w 3 0))
  else none

/-- Words of major 0x2A. -/
def decode2A (w : Nat) : Option Instr :=
  if fld w 7 4 = 0 then some (.vamoAdd (rillOf w) (bit27 w) (fld w 20 17) (fld w 16 13) (fld w 12 8) (fld w 3 0))
  else if fld w 7 4 = 1 then some (.vamoMin (rillOf w) (bit27 w) (fld w 20 17) (fld w 16 13) (fld w 12 8) (fld w 3 0))
  else if fld w 7 4 = 2 then some (.vamoMax (rillOf w) (bit27 w) (fld w 20 17) (fld w 16 13) (fld w 12 8) (fld w 3 0))
  else if fld w 7 0 = 49 then some (.vamoComb (rillOf w) (bit27 w) (fld w 20 17) (fld w 16 13) (fld w 12 8))
  else none

/-- Words of major 0x30. -/
def decode30 (w : Nat) : Option Instr :=
  if fld w 20 17 = 0 ∧ fld w 4 0 = 0 then some (.mxMac (rillOf w) (bit27 w) (fld w 16 15) (fld w 14 11) (fld w 10 8) (fld w 7 5))
  else if fld w 20 17 = 1 ∧ fld w 4 0 = 0 then some (.mxMacz (rillOf w) (bit27 w) (fld w 16 15) (fld w 14 11) (fld w 10 8) (fld w 7 5))
  else if fld w 20 17 = 2 ∧ fld w 14 0 = 0 then some (.mxZero (rillOf w) (bit27 w) (fld w 16 15))
  else if fld w 20 17 = 3 ∧ fld w 14 11 = 0 ∧ fld w 7 0 = 0 then some (.mxLd (rillOf w) (bit27 w) (fld w 16 15) (fld w 10 8))
  else if fld w 20 17 = 4 ∧ fld w 14 11 = 0 ∧ fld w 7 0 = 0 then some (.mxSt (rillOf w) (bit27 w) (fld w 16 15) (fld w 10 8))
  else if fld w 20 17 = 5 ∧ fld w 7 0 = 0 then some (.mxStc (rillOf w) (bit27 w) (fld w 16 15) (fld w 14 11) (fld w 10 8))
  else if fld w 20 11 = 384 ∧ fld w 7 0 = 0 then some (.mxMask (rillOf w) (bit27 w) (fld w 10 8))
  else if fld w 20 11 = 448 ∧ fld w 7 0 = 0 then some (.mxTw (rillOf w) (bit27 w) (fld w 10 8))
  else if fld w 20 17 = 8 ∧ fld w 14 11 = 0 ∧ fld w 7 0 = 0 then some (.mxAdd (rillOf w) (bit27 w) (fld w 16 15) (fld w 10 8))
  else if fld w 20 0 = 1179648 then some (.mxSync (rillOf w) (bit27 w))
  else none

/-- Words of major 0x34. -/
def decode34 (w : Nat) : Option Instr :=
  if fld w 20 0 = 0 then some (.rtClr (rillOf w) (bit27 w))
  else if fld w 20 15 = 4 ∧ fld w 10 0 = 0 then some (.rtLd (rillOf w) (bit27 w) (fld w 14 11))
  else if fld w 20 17 = 2 ∧ fld w 10 0 = 0 then some (.rtSt (rillOf w) (bit27 w) (fld w 16 15) (fld w 14 11))
  else if fld w 20 17 = 3 ∧ fld w 3 0 = 0 then some (.rtQr (rillOf w) (bit27 w) (fld w 16 15) (fld w 14 11) (fld w 10 7) (fld w 6 4))
  else if fld w 20 17 = 4 ∧ fld w 6 0 = 0 then some (.rtVec (rillOf w) (bit27 w) (fld w 16 15) (fld w 14 11) (fld w 10 7))
  else if fld w 20 17 = 5 ∧ fld w 6 0 = 0 then some (.rtRot (rillOf w) (bit27 w) (fld w 16 15) (fld w 14 11) (fld w 10 7))
  else if fld w 20 15 = 24 ∧ fld w 6 0 = 0 then some (.rtAngB16 (rillOf w) (bit27 w) (fld w 14 11) (fld w 10 7))
  else if fld w 20 15 = 24 ∧ fld w 6 0 = 16 then some (.rtAngB32 (rillOf w) (bit27 w) (fld w 14 11) (fld w 10 7))
  else if fld w 20 17 = 7 ∧ fld w 3 0 = 0 then some (.rtSol (rillOf w) (bit27 w) (fld w 16 15) (fld w 14 11) (fld w 10 7) (fld w 6 4))
  else if fld w 20 17 = 8 ∧ fld w 6 0 = 0 then some (.rtApp (rillOf w) (bit27 w) (fld w 16 15) (fld w 14 11) (fld w 10 7))
  else if fld w 20 0 = 1179648 then some (.rtGz (rillOf w) (bit27 w))
  else if fld w 20 15 = 40 ∧ fld w 10 0 = 0 then some (.rtRhs (rillOf w) (bit27 w) (fld w 14 11))
  else none

/-- Words of major 0x38. -/
def decode38 (w : Nat) : Option Instr :=
  if fld w 27 27 = 0 ∧ fld w 5 0 = 0 then some (.seqRetire (rillOf w) (fld w 20 16) (fld w 15 11) (fld w 10 6))
  else if fld w 27 27 = 0 ∧ fld w 5 0 = 1 then some (.seqRd (rillOf w) (fld w 20 16) (fld w 15 11) (fld w 10 6))
  else if fld w 27 27 = 0 ∧ fld w 5 0 = 2 then some (.seqKv (rillOf w) (fld w 20 16) (fld w 15 11) (fld w 10 6))
  else if fld w 27 27 = 0 ∧ fld w 5 0 = 3 then some (.nodeLaunch (rillOf w) (fld w 20 16) (fld w 15 11) (fld w 10 6))
  else if fld w 27 27 = 0 ∧ fld w 10 0 = 4 then some (.nodeSig (rillOf w) (fld w 20 16) (fld w 15 11))
  else if fld w 27 27 = 0 ∧ fld w 5 0 = 5 then some (.distHint (rillOf w) (fld w 20 16) (fld w 15 11) (fld w 10 6))
  else none

/-- Words of major 0x39. -/
def decode39 (w : Nat) : Option Instr :=
  if fld w 27 27 = 0 ∧ fld w 5 0 = 0 then some (.tnsSet (rillOf w) (fld w 20 16) (fld w 15 11) (fld w 10 6))
  else if fld w 27 27 = 0 ∧ fld w 10 0 = 1 then some (.tnsWait (rillOf w) (fld w 20 16) (fld w 15 11))
  else if fld w 27 27 = 0 ∧ fld w 5 0 = 2 then some (.tnsBits (rillOf w) (fld w 20 16) (fld w 15 11) (fld w 10 6))
  else if fld w 27 27 = 0 ∧ fld w 10 0 = 3 then some (.collStart (rillOf w) (fld w 20 16) (fld w 15 11))
  else if fld w 27 27 = 0 ∧ fld w 10 0 = 4 then some (.collStat (rillOf w) (fld w 20 16) (fld w 15 11))
  else if fld w 27 27 = 0 ∧ fld w 5 0 = 5 then some (.rngSet (rillOf w) (fld w 20 16) (fld w 15 11) (fld w 10 6))
  else none

/-- Words of major 0x3A. -/
def decode3A (w : Nat) : Option Instr :=
  if fld w 5 0 = 0 then some (.sigAdd (rillOf w) (bit27 w) (fld w 20 16) (fld w 15 11) (fld w 10 6))
  else if fld w 10 0 = 1 then some (.sigRd (rillOf w) (bit27 w) (fld w 20 16) (fld w 15 11))
  else if fld w 5 0 = 2 then some (.sigWait (rillOf w) (bit27 w) (fld w 20 16) (fld w 15 11) (fld w 10 6))
  else if fld w 5 0 = 3 then some (.flagAdd (rillOf w) (bit27 w) (fld w 20 16) (fld w 15 11) (fld w 10 6))
  else if fld w 5 0 = 4 then some (.flagMset (rillOf w) (bit27 w) (fld w 20 16) (fld w 15 11) (fld w 10 6))
  else if fld w 5 0 = 5 then some (.flagWait (rillOf w) (bit27 w) (fld w 20 16) (fld w 15 11) (fld w 10 6))
  else if fld w 10 0 = 6 then some (.ctrRd (rillOf w) (bit27 w) (fld w 20 16) (fld w 15 11))
  else if fld w 27 27 = 0 ∧ fld w 5 0 = 7 then some (.ctrSel (rillOf w) (fld w 20 16) (fld w 15 11) (fld w 10 6))
  else none

/-- Words of major 0x3C. -/
def decode3C (w : Nat) : Option Instr :=
  if fld w 27 27 = 0 ∧ fld w 31 28 = 0 ∧ fld w 10 0 = 0 then some (.evPop (fld w 20 16) (fld w 15 11))
  else if fld w 27 27 = 0 ∧ fld w 31 28 = 0 ∧ fld w 10 0 = 1 then some (.evPeek (fld w 20 16) (fld w 15 11))
  else if fld w 27 27 = 0 ∧ fld w 31 28 = 0 ∧ fld w 5 0 = 2 then some (.pktSend (fld w 20 16) (fld w 15 11) (fld w 10 6))
  else if fld w 27 27 = 0 ∧ fld w 31 28 = 0 ∧ fld w 5 0 = 3 then some (.pktResend (fld w 20 16) (fld w 15 11) (fld w 10 6))
  else if fld w 27 27 = 0 ∧ fld w 31 28 = 0 ∧ fld w 5 0 = 4 then some (.chkReq (fld w 20 16) (fld w 15 11) (fld w 10 6))
  else if fld w 27 27 = 0 ∧ fld w 31 28 = 0 ∧ fld w 5 0 = 5 then some (.pauseSnd (fld w 20 16) (fld w 15 11) (fld w 10 6))
  else if fld w 27 27 = 0 ∧ fld w 31 28 = 0 ∧ fld w 5 0 = 6 then some (.collStep (fld w 20 16) (fld w 15 11) (fld w 10 6))
  else if fld w 27 27 = 0 ∧ fld w 31 28 = 0 ∧ fld w 5 0 = 7 then some (.portSt (fld w 20 16) (fld w 15 11) (fld w 10 6))
  else none

/-- Words of major 0x3D. -/
def decode3D (w : Nat) : Option Instr :=
  if fld w 27 27 = 0 ∧ fld w 31 28 = 0 ∧ fld w 5 0 = 0 then some (.bmpSet (fld w 20 16) (fld w 15 11) (fld w 10 6))
  else if fld w 27 27 = 0 ∧ fld w 31 28 = 0 ∧ fld w 5 0 = 1 then some (.bmpClr (fld w 20 16) (fld w 15 11) (fld w 10 6))
  else if fld w 27 27 = 0 ∧ fld w 31 28 = 0 ∧ fld w 5 0 = 2 then some (.bmpTest (fld w 20 16) (fld w 15 11) (fld w 10 6))
  else if fld w 27 27 = 0 ∧ fld w 31 28 = 0 ∧ fld w 5 0 = 3 then some (.bmpScan (fld w 20 16) (fld w 15 11) (fld w 10 6))
  else if fld w 27 27 = 0 ∧ fld w 31 28 = 0 ∧ fld w 5 0 = 4 then some (.tmrSet (fld w 20 16) (fld w 15 11) (fld w 10 6))
  else if fld w 27 27 = 0 ∧ fld w 31 28 = 0 ∧ fld w 10 0 = 5 then some (.tmrClr (fld w 20 16) (fld w 15 11))
  else none

/-- Words of major 0x3E. -/
def decode3E (w : Nat) : Option Instr :=
  if fld w 27 27 = 0 ∧ fld w 31 28 = 0 ∧ fld w 5 0 = 0 then some (.rateSet (fld w 20 16) (fld w 15 11) (fld w 10 6))
  else if fld w 27 27 = 0 ∧ fld w 31 28 = 0 ∧ fld w 5 0 = 1 then some (.pathSet (fld w 20 16) (fld w 15 11) (fld w 10 6))
  else if fld w 27 27 = 0 ∧ fld w 31 28 = 0 ∧ fld w 5 0 = 2 then some (.rtoSet (fld w 20 16) (fld w 15 11) (fld w 10 6))
  else if fld w 27 27 = 0 ∧ fld w 31 28 = 0 ∧ fld w 5 0 = 3 then some (.weirTake (fld w 20 16) (fld w 15 11) (fld w 10 6))
  else if fld w 27 27 = 0 ∧ fld w 31 28 = 0 ∧ fld w 5 0 = 4 then some (.weirCall (fld w 20 16) (fld w 15 11) (fld w 10 6))
  else if fld w 27 27 = 0 ∧ fld w 31 28 = 0 ∧ fld w 5 0 = 5 then some (.weirDone (fld w 20 16) (fld w 15 11) (fld w 10 6))
  else none

/-- The two-word forms: a word with X = 1 and its literal (R30). -/
def decodeLiteral (w lit : Nat) : Option Instr :=
  if fld w 26 21 = 2 ∧ fld w 10 0 = 0 then some (.addiLiteral (rillOf w) (fld w 20 16) (fld w 15 11) lit)
  else if fld w 26 21 = 3 ∧ fld w 10 0 = 0 then some (.andiLiteral (rillOf w) (fld w 20 16) (fld w 15 11) lit)
  else if fld w 26 21 = 4 ∧ fld w 10 0 = 0 then some (.oriLiteral (rillOf w) (fld w 20 16) (fld w 15 11) lit)
  else if fld w 26 21 = 5 ∧ fld w 10 0 = 0 then some (.xoriLiteral (rillOf w) (fld w 20 16) (fld w 15 11) lit)
  else if fld w 26 21 = 8 ∧ fld w 15 0 = 0 then some (.liLiteral (rillOf w) (fld w 20 16) lit)
  else if fld w 26 21 = 10 ∧ fld w 10 7 = 0 ∧ fld w 6 0 = 0 then some (.ldBLiteral (rillOf w) (fld w 20 16) (fld w 15 11) lit)
  else if fld w 26 21 = 10 ∧ fld w 10 7 = 1 ∧ fld w 6 0 = 0 then some (.ldBuLiteral (rillOf w) (fld w 20 16) (fld w 15 11) lit)
  else if fld w 26 21 = 10 ∧ fld w 10 7 = 2 ∧ fld w 6 0 = 0 then some (.ldHLiteral (rillOf w) (fld w 20 16) (fld w 15 11) lit)
  else if fld w 26 21 = 10 ∧ fld w 10 7 = 3 ∧ fld w 6 0 = 0 then some (.ldHuLiteral (rillOf w) (fld w 20 16) (fld w 15 11) lit)
  else if fld w 26 21 = 10 ∧ fld w 10 7 = 4 ∧ fld w 6 0 = 0 then some (.ldWLiteral (rillOf w) (fld w 20 16) (fld w 15 11) lit)
  else if fld w 26 21 = 10 ∧ fld w 10 7 = 5 ∧ fld w 6 0 = 0 then some (.ldWuLiteral (rillOf w) (fld w 20 16) (fld w 15 11) lit)
  else if fld w 26 21 = 10 ∧ fld w 10 7 = 6 ∧ fld w 6 0 = 0 then some (.ldDLiteral (rillOf w) (fld w 20 16) (fld w 15 11) lit)
  else if fld w 26 21 = 10 ∧ fld w 10 7 = 8 ∧ fld w 6 0 = 0 then some (.stBLiteral (rillOf w) (fld w 20 16) (fld w 15 11) lit)
  else if fld w 26 21 = 10 ∧ fld w 10 7 = 9 ∧ fld w 6 0 = 0 then some (.stHLiteral (rillOf w) (fld w 20 16) (fld w 15 11) lit)
  else if fld w 26 21 = 10 ∧ fld w 10 7 = 10 ∧ fld w 6 0 = 0 then some (.stWLiteral (rillOf w) (fld w 20 16) (fld w 15 11) lit)
  else if fld w 26 21 = 10 ∧ fld w 10 7 = 11 ∧ fld w 6 0 = 0 then some (.stDLiteral (rillOf w) (fld w 20 16) (fld w 15 11) lit)
  else if fld w 26 21 = 14 ∧ fld w 18 18 = 1 ∧ fld w 17 11 = 0 then some (.loopiLiteral (rillOf w) (fld w 20 19) (fld w 10 0) lit)
  else none

/-- The one-word instruction that a 32-bit word stands for. -/
def decodeWord (w : Nat) : Except DecodeError Instr :=
  let ok (o : Option Instr) : Except DecodeError Instr :=
    match o with
    | some i => .ok i
    | none => .error .unassigned
  match fld w 26 21 with
  | 1 => ok (decode01 w)
  | 2 => ok (decode02 w)
  | 3 => ok (decode03 w)
  | 4 => ok (decode04 w)
  | 5 => ok (decode05 w)
  | 6 => ok (decode06 w)
  | 7 => ok (decode07 w)
  | 8 => ok (decode08 w)
  | 9 => ok (decode09 w)
  | 10 => ok (decode0A w)
  | 11 => ok (decode0B w)
  | 12 => ok (decode0C w)
  | 13 => ok (decode0D w)
  | 14 => ok (decode0E w)
  | 15 => ok (decode0F w)
  | 16 => ok (decode10 w)
  | 17 => ok (decode11 w)
  | 18 => ok (decode12 w)
  | 24 => ok (decode18 w)
  | 25 => ok (decode19 w)
  | 26 => ok (decode1A w)
  | 27 => ok (decode1B w)
  | 32 => ok (decode20 w)
  | 33 => ok (decode20 w)
  | 34 => ok (decode20 w)
  | 35 => ok (decode20 w)
  | 36 => ok (decode24 w)
  | 37 => ok (decode25 w)
  | 38 => ok (decode26 w)
  | 39 => ok (decode27 w)
  | 40 => ok (decode28 w)
  | 41 => ok (decode29 w)
  | 42 => ok (decode2A w)
  | 48 => ok (decode30 w)
  | 52 => ok (decode34 w)
  | 56 => ok (decode38 w)
  | 57 => ok (decode39 w)
  | 58 => ok (decode3A w)
  | 60 => ok (decode3C w)
  | 61 => ok (decode3D w)
  | 62 => ok (decode3E w)
  | _ => .error .reservedMajor

/-- The words that accept a literal (R30, Table 3): by their major, and in major 0x0E the form `loopi`. -/
def takesLiteral (w : Nat) : Bool :=
  let m := fld w 26 21
  (2 ≤ m && m ≤ 5) || m == 8 || m == 10 || (m == 14 && fld w 18 18 == 1)

/-- A word and, where it is read, the literal after it: in the EP (`ep`) bit 27 is E; elsewhere it is X (R30, R31).
Answers the instruction and the number of words it occupies. -/
def decodeWords (ep : Bool) (w : Nat) (lit : Option Nat) : Except DecodeError (Instr × Nat) :=
  if !ep && bit27 w then
    if takesLiteral w then
      match lit with
      | none => .error .truncated
      | some l =>
        match decodeLiteral w l with
        | some i => .ok (i, 2)
        | none => .error .unassigned
    else .error .literalRefused
  else
    match decodeWord w with
    | .ok i => .ok (i, 1)
    | .error r => .error r

/-- The 32-bit word at the head of a list of bytes, little-endian (R1, R25). -/
def takeWord : List Byte → Option (Nat × List Byte)
  | b0 :: b1 :: b2 :: b3 :: rest =>
    some (b0.toNat + 256 * b1.toNat + 65536 * b2.toNat + 16777216 * b3.toNat, rest)
  | _ => none

/-- The instruction at the head of a list of bytes and the bytes after it. -/
def decode (ep : Bool) (bs : List Byte) : Except DecodeError (Instr × List Byte) :=
  match takeWord bs with
  | none => .error .truncated
  | some (w, rest) =>
    match decodeWords ep w ((takeWord rest).map Prod.fst) with
    | .error r => .error r
    | .ok (i, n) => .ok (i, if n = 2 then rest.drop 4 else rest)

/-- The instruction whose bits are `w` as spec/opcode_table.json numbers them: the first word in bits 31:0, a
literal in bits 63:32. The table gives a literal no bits, so bit 27 decides: with it set the word is the literal form of
a load or store (major 0x0A, whose words have no E), and otherwise the EP reading, where bit 27 is E. -/
def decodeTableWord (_nbits w : Nat) : Option Instr :=
  let word := w % 4294967296
  let r := if fld word 26 21 = 10 then decodeWords false word (some (w / 4294967296)) else decodeWords true word none
  match r with
  | .ok (i, _) => some i
  | .error _ => none

/-- Bits 31:28 of a word, in place. -/
def Rill.bits (q : Rill) : Nat :=
  (if q.wp then 2147483648 else 0) + (if q.wn then 1073741824 else 0) + (if q.sp then 536870912 else 0)
    + (if q.sn then 268435456 else 0)

/-- Bit 27 of a word, in place. -/
def eBit (e : Bool) : Nat := if e then 134217728 else 0

/-- The words of an instruction, from the encoding tables of 02_encoding.md; an event has none. -/
def encodeWords : Instr → List Nat
  | .add q e d a b => [2097152 + q.bits + eBit e + d * 65536 + a * 2048 + b * 64]
  | .sub q e d a b => [2097153 + q.bits + eBit e + d * 65536 + a * 2048 + b * 64]
  | .and q e d a b => [2097154 + q.bits + eBit e + d * 65536 + a * 2048 + b * 64]
  | .or q e d a b => [2097155 + q.bits + eBit e + d * 65536 + a * 2048 + b * 64]
  | .xor q e d a b => [2097156 + q.bits + eBit e + d * 65536 + a * 2048 + b * 64]
  | .sll q e d a b => [2097157 + q.bits + eBit e + d * 65536 + a * 2048 + b * 64]
  | .srl q e d a b => [2097158 + q.bits + eBit e + d * 65536 + a * 2048 + b * 64]
  | .sra q e d a b => [2097159 + q.bits + eBit e + d * 65536 + a * 2048 + b * 64]
  | .slt q e d a b => [2097160 + q.bits + eBit e + d * 65536 + a * 2048 + b * 64]
  | .sltu q e d a b => [2097161 + q.bits + eBit e + d * 65536 + a * 2048 + b * 64]
  | .min q e d a b => [2097162 + q.bits + eBit e + d * 65536 + a * 2048 + b * 64]
  | .max q e d a b => [2097163 + q.bits + eBit e + d * 65536 + a * 2048 + b * 64]
  | .minu q e d a b => [2097164 + q.bits + eBit e + d * 65536 + a * 2048 + b * 64]
  | .maxu q e d a b => [2097165 + q.bits + eBit e + d * 65536 + a * 2048 + b * 64]
  | .addw q e d a b => [2097166 + q.bits + eBit e + d * 65536 + a * 2048 + b * 64]
  | .subw q e d a b => [2097167 + q.bits + eBit e + d * 65536 + a * 2048 + b * 64]
  | .mul q e d a b => [2097168 + q.bits + eBit e + d * 65536 + a * 2048 + b * 64]
  | .mulh q e d a b => [2097169 + q.bits + eBit e + d * 65536 + a * 2048 + b * 64]
  | .mulhu q e d a b => [2097170 + q.bits + eBit e + d * 65536 + a * 2048 + b * 64]
  | .div q e d a b => [2097171 + q.bits + eBit e + d * 65536 + a * 2048 + b * 64]
  | .divu q e d a b => [2097172 + q.bits + eBit e + d * 65536 + a * 2048 + b * 64]
  | .rem q e d a b => [2097173 + q.bits + eBit e + d * 65536 + a * 2048 + b * 64]
  | .remu q e d a b => [2097174 + q.bits + eBit e + d * 65536 + a * 2048 + b * 64]
  | .addi q e d a imm => [4194304 + q.bits + eBit e + d * 65536 + a * 2048 + imm]
  | .andi q e d a imm => [6291456 + q.bits + eBit e + d * 65536 + a * 2048 + imm]
  | .ori q e d a imm => [8388608 + q.bits + eBit e + d * 65536 + a * 2048 + imm]
  | .xori q e d a imm => [10485760 + q.bits + eBit e + d * 65536 + a * 2048 + imm]
  | .slli q e d a n => [12582912 + q.bits + eBit e + d * 65536 + a * 2048 + n]
  | .srli q e d a n => [12583168 + q.bits + eBit e + d * 65536 + a * 2048 + n]
  | .srai q e d a n => [12583424 + q.bits + eBit e + d * 65536 + a * 2048 + n]
  | .slti q e d a imm => [12583680 + q.bits + eBit e + d * 65536 + a * 2048 + imm]
  | .sltiu q e d a imm => [12583936 + q.bits + eBit e + d * 65536 + a * 2048 + imm]
  | .amoAdd q d a b ty => [14680064 + q.bits + d * 65536 + a * 2048 + b * 64 + ty]
  | .amoMin q d a b ty => [14680068 + q.bits + d * 65536 + a * 2048 + b * 64 + ty]
  | .amoMax q d a b ty => [14680072 + q.bits + d * 65536 + a * 2048 + b * 64 + ty]
  | .amoSwap q d a b ty => [14680076 + q.bits + d * 65536 + a * 2048 + b * 64 + ty]
  | .amoCas q d a b ty => [14680080 + q.bits + d * 65536 + a * 2048 + b * 64 + ty]
  | .amoAnd q d a b ty => [14680084 + q.bits + d * 65536 + a * 2048 + b * 64 + ty]
  | .amoOr q d a b ty => [14680088 + q.bits + d * 65536 + a * 2048 + b * 64 + ty]
  | .li q e d imm => [16777216 + q.bits + eBit e + d * 65536 + imm]
  | .lsh q e d imm => [18874368 + q.bits + eBit e + d * 65536 + imm]
  | .ldB q d a off => [20971520 + q.bits + d * 65536 + a * 2048 + off]
  | .ldBu q d a off => [20971648 + q.bits + d * 65536 + a * 2048 + off]
  | .ldH q d a off => [20971776 + q.bits + d * 65536 + a * 2048 + off]
  | .ldHu q d a off => [20971904 + q.bits + d * 65536 + a * 2048 + off]
  | .ldW q d a off => [20972032 + q.bits + d * 65536 + a * 2048 + off]
  | .ldWu q d a off => [20972160 + q.bits + d * 65536 + a * 2048 + off]
  | .ldD q d a off => [20972288 + q.bits + d * 65536 + a * 2048 + off]
  | .stB q d a off => [20972544 + q.bits + d * 65536 + a * 2048 + off]
  | .stH q d a off => [20972672 + q.bits + d * 65536 + a * 2048 + off]
  | .stW q d a off => [20972800 + q.bits + d * 65536 + a * 2048 + off]
  | .stD q d a off => [20972928 + q.bits + d * 65536 + a * 2048 + off]
  | .beqz q e a off => [23068672 + q.bits + eBit e + a * 2048 + off]
  | .bnez q e a off => [23134208 + q.bits + eBit e + a * 2048 + off]
  | .bltz q e a off => [23199744 + q.bits + eBit e + a * 2048 + off]
  | .bgez q e a off => [23265280 + q.bits + eBit e + a * 2048 + off]
  | .bgtz q e a off => [23330816 + q.bits + eBit e + a * 2048 + off]
  | .blez q e a off => [23396352 + q.bits + eBit e + a * 2048 + off]
  | .bcq q e off => [23592960 + q.bits + eBit e + off]
  | .bncq q e off => [23658496 + q.bits + eBit e + off]
  | .j q e off => [25165824 + q.bits + eBit e + off]
  | .call q e off => [27262976 + q.bits + eBit e + off]
  | .loop q e c a len => [29360128 + q.bits + eBit e + c * 524288 + a * 2048 + len]
  | .loopi q e c n len => [29622272 + q.bits + eBit e + c * 524288 + n * 2048 + len]
  | .mfsr q e d sel => [31457280 + q.bits + eBit e + d * 65536 + sel]
  | .mtsr q e a sel => [31457792 + q.bits + eBit e + a * 2048 + sel]
  | .jr q e d a => [31458304 + q.bits + eBit e + d * 65536 + a * 2048]
  | .trap q e n => [33554432 + q.bits + eBit e + n * 64]
  | .brk q e => [33554433 + q.bits + eBit e]
  | .rett => [33554434]
  | .escal a => [33554435 + a * 2048]
  | .halt q e => [33554436 + q.bits + eBit e]
  | .asstDone a => [33554437 + a * 2048]
  | .bankRd d a => [33554438 + d * 65536 + a * 2048]
  | .bankWr a b => [33554439 + a * 2048 + b * 64]
  | .cyc q e d => [33554440 + q.bits + eBit e + d * 65536]
  | .acq q e a => [35651584 + q.bits + eBit e + a * 2048]
  | .rel q e a => [35651585 + q.bits + eBit e + a * 2048]
  | .acqGen q e a b => [35651586 + q.bits + eBit e + a * 2048 + b * 64]
  | .fence q e k => [35651587 + q.bits + eBit e + k * 64]
  | .soGen q e d a => [35651588 + q.bits + eBit e + d * 65536 + a * 2048]
  | .ctxYield q e => [37748736 + q.bits + eBit e]
  | .dlogArm q a => [37748737 + q.bits + a * 2048]
  | .dlogStop q => [37748738 + q.bits]
  | .dlogPos q d => [37748739 + q.bits + d * 65536]
  | .cqPut q a => [50331648 + q.bits + a * 2048]
  | .engSt q t u => [50331650 + q.bits + t * 65536 + u * 2048]
  | .ringInit q a b => [52428800 + q.bits + a * 2048 + b * 64]
  | .ringClaim q t a b => [52428802 + q.bits + t * 65536 + a * 2048 + b * 64]
  | .ringCommit q a b => [52428804 + q.bits + a * 2048 + b * 64]
  | .ringWfill q t a b => [52428806 + q.bits + t * 65536 + a * 2048 + b * 64]
  | .ringWfree q t a b => [52428808 + q.bits + t * 65536 + a * 2048 + b * 64]
  | .ringRel q a b => [52428810 + q.bits + a * 2048 + b * 64]
  | .cp q t a b => [54525952 + q.bits + t * 65536 + a * 2048 + b * 64]
  | .cpFo q t a b => [54525953 + q.bits + t * 65536 + a * 2048 + b * 64]
  | .cp2d q t a b => [54525954 + q.bits + t * 65536 + a * 2048 + b * 64]
  | .cp2dFo q t a b => [54525955 + q.bits + t * 65536 + a * 2048 + b * 64]
  | .cpMc q t a b => [54525956 + q.bits + t * 65536 + a * 2048 + b * 64]
  | .cpFill q t a b => [54525958 + q.bits + t * 65536 + a * 2048 + b * 64]
  | .geGather q t a b => [56623104 + q.bits + t * 65536 + a * 2048 + b * 64]
  | .geGather2d q t a b => [56623106 + q.bits + t * 65536 + a * 2048 + b * 64]
  | .geScatter q t a b => [56623108 + q.bits + t * 65536 + a * 2048 + b * 64]
  | .vadd q e rm d a b ty => [67108864 + q.bits + eBit e + rm * 2097152 + d * 131072 + a * 8192 + b * 512 + ty]
  | .vsub q e rm d a b ty => [67108880 + q.bits + eBit e + rm * 2097152 + d * 131072 + a * 8192 + b * 512 + ty]
  | .vmul q e rm d a b ty => [67108896 + q.bits + eBit e + rm * 2097152 + d * 131072 + a * 8192 + b * 512 + ty]
  | .vmac q e rm d a b ty => [67108912 + q.bits + eBit e + rm * 2097152 + d * 131072 + a * 8192 + b * 512 + ty]
  | .vmin q e d a b ty => [67108928 + q.bits + eBit e + d * 131072 + a * 8192 + b * 512 + ty]
  | .vmax q e d a b ty => [67108944 + q.bits + eBit e + d * 131072 + a * 8192 + b * 512 + ty]
  | .vabs q e d a ty => [67108960 + q.bits + eBit e + d * 131072 + a * 8192 + ty]
  | .vneg q e d a ty => [67108976 + q.bits + eBit e + d * 131072 + a * 8192 + ty]
  | .vexp2 q e rm d a ty => [67108992 + q.bits + eBit e + rm * 2097152 + d * 131072 + a * 8192 + ty]
  | .vlog2 q e rm d a ty => [67109008 + q.bits + eBit e + rm * 2097152 + d * 131072 + a * 8192 + ty]
  | .vrcp q e rm d a ty => [67109024 + q.bits + eBit e + rm * 2097152 + d * 131072 + a * 8192 + ty]
  | .vrsqrt q e rm d a ty => [67109040 + q.bits + eBit e + rm * 2097152 + d * 131072 + a * 8192 + ty]
  | .vcmpEq q e d a b ty => [67109056 + q.bits + eBit e + d * 131072 + a * 8192 + b * 512 + ty]
  | .vcmpNe q e d a b ty => [67109072 + q.bits + eBit e + d * 131072 + a * 8192 + b * 512 + ty]
  | .vcmpLt q e d a b ty => [67109088 + q.bits + eBit e + d * 131072 + a * 8192 + b * 512 + ty]
  | .vcmpLe q e d a b ty => [67109104 + q.bits + eBit e + d * 131072 + a * 8192 + b * 512 + ty]
  | .vsel q e d a b ty => [67109120 + q.bits + eBit e + d * 131072 + a * 8192 + b * 512 + ty]
  | .vsum q e rm d a ty => [67109136 + q.bits + eBit e + rm * 2097152 + d * 131072 + a * 8192 + ty]
  | .vrmax q e d a ty => [67109152 + q.bits + eBit e + d * 131072 + a * 8192 + ty]
  | .vrmin q e d a ty => [67109168 + q.bits + eBit e + d * 131072 + a * 8192 + ty]
  | .vcvt q e d a m g h sat => [75497472 + q.bits + eBit e + d * 131072 + a * 8192 + m * 2048 + g * 32 + h * 2 + sat]
  | .vadds q e d a g ty => [77594624 + q.bits + eBit e + d * 131072 + a * 8192 + g * 256 + ty]
  | .vmuls q e d a g ty => [77594640 + q.bits + eBit e + d * 131072 + a * 8192 + g * 256 + ty]
  | .vmacs q e d a g ty => [77594656 + q.bits + eBit e + d * 131072 + a * 8192 + g * 256 + ty]
  | .vmins q e d a g ty => [77594672 + q.bits + eBit e + d * 131072 + a * 8192 + g * 256 + ty]
  | .vmaxs q e d a g ty => [77594688 + q.bits + eBit e + d * 131072 + a * 8192 + g * 256 + ty]
  | .vfill q e d g ty => [77594704 + q.bits + eBit e + d * 131072 + g * 256 + ty]
  | .vseti q e d imm => [79691776 + q.bits + eBit e + d * 131072 + imm]
  | .vsetf q e d imm => [79757312 + q.bits + eBit e + d * 131072 + imm]
  | .vand q e d a b ty => [81788928 + q.bits + eBit e + d * 131072 + a * 8192 + b * 512 + ty]
  | .vor q e d a b ty => [81788944 + q.bits + eBit e + d * 131072 + a * 8192 + b * 512 + ty]
  | .vxor q e d a b ty => [81788960 + q.bits + eBit e + d * 131072 + a * 8192 + b * 512 + ty]
  | .vnot q e d a ty => [81788976 + q.bits + eBit e + d * 131072 + a * 8192 + ty]
  | .vshl q e d a b ty => [81788992 + q.bits + eBit e + d * 131072 + a * 8192 + b * 512 + ty]
  | .vshr q e d a b ty => [81789008 + q.bits + eBit e + d * 131072 + a * 8192 + b * 512 + ty]
  | .vsra q e d a b ty => [81789024 + q.bits + eBit e + d * 131072 + a * 8192 + b * 512 + ty]
  | .vmulh q e d a b ty => [81789040 + q.bits + eBit e + d * 131072 + a * 8192 + b * 512 + ty]
  | .vperm q e d a b ty => [83886080 + q.bits + eBit e + d * 131072 + a * 8192 + b * 512 + ty]
  | .vcompact q e d a b ty => [83886096 + q.bits + eBit e + d * 131072 + a * 8192 + b * 512 + ty]
  | .vexpand q e d a b ty => [83886112 + q.bits + eBit e + d * 131072 + a * 8192 + b * 512 + ty]
  | .vscanAdd q e d a ty => [83886128 + q.bits + eBit e + d * 131072 + a * 8192 + ty]
  | .vscanMax q e d a ty => [83886144 + q.bits + eBit e + d * 131072 + a * 8192 + ty]
  | .vcolsel q e d a b ty => [83886160 + q.bits + eBit e + d * 131072 + a * 8192 + b * 512 + ty]
  | .vprobe q e d a b => [83886188 + q.bits + eBit e + d * 131072 + a * 8192 + b * 512]
  | .vstop q e d a b => [83886201 + q.bits + eBit e + d * 131072 + a * 8192 + b * 512]
  | .vmov q e d a ty => [83886208 + q.bits + eBit e + d * 131072 + a * 8192 + ty]
  | .vmovDescriptor q e d n => [83886720 + q.bits + eBit e + d * 131072 + n * 8192]
  | .vshift q e d a g ty => [85983232 + q.bits + eBit e + d * 131072 + a * 8192 + g * 256 + ty]
  | .vrotl q e d a g ty => [85983248 + q.bits + eBit e + d * 131072 + a * 8192 + g * 256 + ty]
  | .vbcast q e d a g ty => [85983264 + q.bits + eBit e + d * 131072 + a * 8192 + g * 256 + ty]
  | .vamoAdd q e d a g ty => [88080384 + q.bits + eBit e + d * 131072 + a * 8192 + g * 256 + ty]
  | .vamoMin q e d a g ty => [88080400 + q.bits + eBit e + d * 131072 + a * 8192 + g * 256 + ty]
  | .vamoMax q e d a g ty => [88080416 + q.bits + eBit e + d * 131072 + a * 8192 + g * 256 + ty]
  | .vamoComb q e d a g => [88080433 + q.bits + eBit e + d * 131072 + a * 8192 + g * 256]
  | .mxMac q e c ty a b => [100663296 + q.bits + eBit e + c * 32768 + ty * 2048 + a * 256 + b * 32]
  | .mxMacz q e c ty a b => [100794368 + q.bits + eBit e + c * 32768 + ty * 2048 + a * 256 + b * 32]
  | .mxZero q e c => [100925440 + q.bits + eBit e + c * 32768]
  | .mxLd q e c a => [101056512 + q.bits + eBit e + c * 32768 + a * 256]
  | .mxSt q e c a => [101187584 + q.bits + eBit e + c * 32768 + a * 256]
  | .mxStc q e c ty a => [101318656 + q.bits + eBit e + c * 32768 + ty * 2048 + a * 256]
  | .mxMask q e a => [101449728 + q.bits + eBit e + a * 256]
  | .mxTw q e a => [101580800 + q.bits + eBit e + a * 256]
  | .mxAdd q e c m => [101711872 + q.bits + eBit e + c * 32768 + m * 256]
  | .mxSync q e => [101842944 + q.bits + eBit e]
  | .rtClr q e => [109051904 + q.bits + eBit e]
  | .rtLd q e a => [109182976 + q.bits + eBit e + a * 2048]
  | .rtSt q e g a => [109314048 + q.bits + eBit e + g * 32768 + a * 2048]
  | .rtQr q e g a b n => [109445120 + q.bits + eBit e + g * 32768 + a * 2048 + b * 128 + n * 16]
  | .rtVec q e g a b => [109576192 + q.bits + eBit e + g * 32768 + a * 2048 + b * 128]
  | .rtRot q e g a b => [109707264 + q.bits + eBit e + g * 32768 + a * 2048 + b * 128]
  | .rtAngB16 q e a b => [109838336 + q.bits + eBit e + a * 2048 + b * 128]
  | .rtAngB32 q e a b => [109838352 + q.bits + eBit e + a * 2048 + b * 128]
  | .rtSol q e g a b n => [109969408 + q.bits + eBit e + g * 32768 + a * 2048 + b * 128 + n * 16]
  | .rtApp q e g a b => [110100480 + q.bits + eBit e + g * 32768 + a * 2048 + b * 128]
  | .rtGz q e => [110231552 + q.bits + eBit e]
  | .rtRhs q e a => [110362624 + q.bits + eBit e + a * 2048]
  | .seqRetire q d a b => [117440512 + q.bits + d * 65536 + a * 2048 + b * 64]
  | .seqRd q d a b => [117440513 + q.bits + d * 65536 + a * 2048 + b * 64]
  | .seqKv q d a b => [117440514 + q.bits + d * 65536 + a * 2048 + b * 64]
  | .nodeLaunch q d a b => [117440515 + q.bits + d * 65536 + a * 2048 + b * 64]
  | .nodeSig q d a => [117440516 + q.bits + d * 65536 + a * 2048]
  | .distHint q d a b => [117440517 + q.bits + d * 65536 + a * 2048 + b * 64]
  | .tnsSet q d a b => [119537664 + q.bits + d * 65536 + a * 2048 + b * 64]
  | .tnsWait q d a => [119537665 + q.bits + d * 65536 + a * 2048]
  | .tnsBits q d a b => [119537666 + q.bits + d * 65536 + a * 2048 + b * 64]
  | .collStart q d a => [119537667 + q.bits + d * 65536 + a * 2048]
  | .collStat q d a => [119537668 + q.bits + d * 65536 + a * 2048]
  | .rngSet q d a b => [119537669 + q.bits + d * 65536 + a * 2048 + b * 64]
  | .sigAdd q e d a b => [121634816 + q.bits + eBit e + d * 65536 + a * 2048 + b * 64]
  | .sigRd q e d a => [121634817 + q.bits + eBit e + d * 65536 + a * 2048]
  | .sigWait q e d a b => [121634818 + q.bits + eBit e + d * 65536 + a * 2048 + b * 64]
  | .flagAdd q e d a b => [121634819 + q.bits + eBit e + d * 65536 + a * 2048 + b * 64]
  | .flagMset q e d a b => [121634820 + q.bits + eBit e + d * 65536 + a * 2048 + b * 64]
  | .flagWait q e d a b => [121634821 + q.bits + eBit e + d * 65536 + a * 2048 + b * 64]
  | .ctrRd q e d a => [121634822 + q.bits + eBit e + d * 65536 + a * 2048]
  | .ctrSel q d a b => [121634823 + q.bits + d * 65536 + a * 2048 + b * 64]
  | .evPop d a => [125829120 + d * 65536 + a * 2048]
  | .evPeek d a => [125829121 + d * 65536 + a * 2048]
  | .pktSend d a b => [125829122 + d * 65536 + a * 2048 + b * 64]
  | .pktResend d a b => [125829123 + d * 65536 + a * 2048 + b * 64]
  | .chkReq d a b => [125829124 + d * 65536 + a * 2048 + b * 64]
  | .pauseSnd d a b => [125829125 + d * 65536 + a * 2048 + b * 64]
  | .collStep d a b => [125829126 + d * 65536 + a * 2048 + b * 64]
  | .portSt d a b => [125829127 + d * 65536 + a * 2048 + b * 64]
  | .bmpSet d a b => [127926272 + d * 65536 + a * 2048 + b * 64]
  | .bmpClr d a b => [127926273 + d * 65536 + a * 2048 + b * 64]
  | .bmpTest d a b => [127926274 + d * 65536 + a * 2048 + b * 64]
  | .bmpScan d a b => [127926275 + d * 65536 + a * 2048 + b * 64]
  | .tmrSet d a b => [127926276 + d * 65536 + a * 2048 + b * 64]
  | .tmrClr d a => [127926277 + d * 65536 + a * 2048]
  | .rateSet d a b => [130023424 + d * 65536 + a * 2048 + b * 64]
  | .pathSet d a b => [130023425 + d * 65536 + a * 2048 + b * 64]
  | .rtoSet d a b => [130023426 + d * 65536 + a * 2048 + b * 64]
  | .weirTake d a b => [130023427 + d * 65536 + a * 2048 + b * 64]
  | .weirCall d a b => [130023428 + d * 65536 + a * 2048 + b * 64]
  | .weirDone d a b => [130023429 + d * 65536 + a * 2048 + b * 64]
  | .addiLiteral q d a lit => [138412032 + q.bits + d * 65536 + a * 2048, lit]
  | .andiLiteral q d a lit => [140509184 + q.bits + d * 65536 + a * 2048, lit]
  | .oriLiteral q d a lit => [142606336 + q.bits + d * 65536 + a * 2048, lit]
  | .xoriLiteral q d a lit => [144703488 + q.bits + d * 65536 + a * 2048, lit]
  | .liLiteral q d lit => [150994944 + q.bits + d * 65536, lit]
  | .ldBLiteral q d a lit => [155189248 + q.bits + d * 65536 + a * 2048, lit]
  | .ldBuLiteral q d a lit => [155189376 + q.bits + d * 65536 + a * 2048, lit]
  | .ldHLiteral q d a lit => [155189504 + q.bits + d * 65536 + a * 2048, lit]
  | .ldHuLiteral q d a lit => [155189632 + q.bits + d * 65536 + a * 2048, lit]
  | .ldWLiteral q d a lit => [155189760 + q.bits + d * 65536 + a * 2048, lit]
  | .ldWuLiteral q d a lit => [155189888 + q.bits + d * 65536 + a * 2048, lit]
  | .ldDLiteral q d a lit => [155190016 + q.bits + d * 65536 + a * 2048, lit]
  | .stBLiteral q d a lit => [155190272 + q.bits + d * 65536 + a * 2048, lit]
  | .stHLiteral q d a lit => [155190400 + q.bits + d * 65536 + a * 2048, lit]
  | .stWLiteral q d a lit => [155190528 + q.bits + d * 65536 + a * 2048, lit]
  | .stDLiteral q d a lit => [155190656 + q.bits + d * 65536 + a * 2048, lit]
  | .loopiLiteral q c len lit => [163840000 + q.bits + c * 524288 + len, lit]
  | .illegal _ => []
  | .deviceReset => []
  | .registerWrite _ => []
  | .sqDoorbell _ _ => []
  | .hqDoorbell _ _ => []
  | .queueEnable _ _ => []
  | .queueDisable _ => []
  | .resume _ => []
  | .abort _ => []
  | .queueSwitchIn _ => []
  | .queueSwitchOut _ => []
  | .hostAccessFailure _ _ _ _ => []
  | .launch _ => []
  | .barrier _ => []
  | .barrierEvaluation _ => []
  | .signal _ => []
  | .copy _ => []
  | .copyPacketChunk _ _ => []
  | .admission _ => []
  | .freeze _ => []
  | .freezeDrainTimeout _ => []
  | .freezeImageWritten _ => []
  | .thaw _ => []
  | .fencePacket _ => []
  | .handler _ => []
  | .create => []
  | .destroy => []
  | .map => []
  | .grant => []
  | .bind => []
  | .unbind => []
  | .sa => []
  | .slotLoad => []
  | .slotUnload => []
  | .nodeDispatch => []
  | .dispatchStarvation _ => []
  | .nodeCompletion _ => []
  | .powerGateExpiry _ => []
  | .coreWakeDone _ => []
  | .contextFailure _ _ => []
  | .trapEntry _ => []
  | .escalation _ => []
  | .handlerOverrun _ => []
  | .firmwareResume _ => []
  | .firmwareHandlerReturn _ => []
  | .bankSwap _ => []
  | .bankSwapEnd _ => []
  | .quantumExpiry _ => []
  | .blockingWait _ => []
  | .spillStore _ _ _ => []
  | .spillResume _ => []
  | .spillEnd _ => []
  | .shadowFillEnd _ => []
  | .lsPageAssign _ _ => []
  | .queueDeadlock _ => []
  | .ceCommandStart _ _ => []
  | .copyChunk _ => []
  | .gatherStep _ => []
  | .engineCommandComplete _ _ _ => []
  | .followOnEntry _ => []
  | .mxCommandStart _ => []
  | .mxStep _ => []
  | .mxTwSatisfied _ => []
  | .mxCommandComplete _ => []
  | .rtCommandStart _ => []
  | .rtRowCommit _ => []
  | .rtCommandComplete _ => []
  | .vectorBeat _ => []
  | .multicastLand => []
  | .fabricDataArrival _ _ => []
  | .claimWaitEnd _ _ => []
  | .deadlineRelease _ _ _ => []
  | .ackArrival _ _ _ _ _ => []
  | .chkReqReceived _ _ => []
  | .pauseReceived _ _ => []
  | .resumeReceived _ _ => []
  | .weirReqReceived _ _ => []
  | .ticketReceived _ _ => []
  | .callReceived _ _ => []
  | .weirDoneReceived _ _ => []
  | .faultReceived _ _ => []
  | .newepReceived _ _ => []
  | .packetTransmit _ _ => []
  | .timeout _ _ _ => []
  | .timer _ _ => []
  | .eventDeferredEnqueue _ => []
  | .connectionClose _ _ => []
  | .link _ _ => []
  | .walkerEmit _ _ => []
  | .gatedChunkRelease _ _ _ => []
  | .collDone _ _ => []
  | .sluiceTrapTimeout _ => []
  | .settleEnd _ => []
  | .storageFormatWrite _ _ _ _ _ => []
  | .basinCarveoutSet _ _ => []
  | .softErrorCorrected _ _ => []
  | .softErrorUncorrectable _ _ => []
  | .getVersion => []
  | .getCapabilities => []
  | .negotiateAlgorithms => []
  | .getDigests => []
  | .getCertificate _ _ => []
  | .challenge _ => []
  | .getMeasurements _ => []
  | .unsupportedRequest _ => []
  | .hw2ApertureWrite _ _ => []
  | .coreCycle => []

/-- A 32-bit word as its four bytes, lowest first. -/
def wordBytes (w : Nat) : List Byte :=
  [BitVec.ofNat 8 w, BitVec.ofNat 8 (w / 256), BitVec.ofNat 8 (w / 65536), BitVec.ofNat 8 (w / 16777216)]

/-- The bytes of an instruction as memory holds them. -/
def encode (i : Instr) : List Byte := (encodeWords i).flatMap wordBytes

/-- The encoding of `i` is read back by the EP's decoder: an instruction with a bit 27 field, or one without it whose bit
27 is zero; the literal forms exist in the AP and the Sluice cores only (R31). -/
def Instr.isLiteral : Instr → Bool
  | .addiLiteral _ _ _ _ => true
  | .andiLiteral _ _ _ _ => true
  | .oriLiteral _ _ _ _ => true
  | .xoriLiteral _ _ _ _ => true
  | .liLiteral _ _ _ => true
  | .ldBLiteral _ _ _ _ => true
  | .ldBuLiteral _ _ _ _ => true
  | .ldHLiteral _ _ _ _ => true
  | .ldHuLiteral _ _ _ _ => true
  | .ldWLiteral _ _ _ _ => true
  | .ldWuLiteral _ _ _ _ => true
  | .ldDLiteral _ _ _ _ => true
  | .stBLiteral _ _ _ _ => true
  | .stHLiteral _ _ _ _ => true
  | .stWLiteral _ _ _ _ => true
  | .stDLiteral _ _ _ _ => true
  | .loopiLiteral _ _ _ _ => true
  | _ => false

/-- Bit 27 of the instruction's word is set as E. -/
def Instr.endsBundle : Instr → Bool
  | .add _ e _ _ _ => e
  | .sub _ e _ _ _ => e
  | .and _ e _ _ _ => e
  | .or _ e _ _ _ => e
  | .xor _ e _ _ _ => e
  | .sll _ e _ _ _ => e
  | .srl _ e _ _ _ => e
  | .sra _ e _ _ _ => e
  | .slt _ e _ _ _ => e
  | .sltu _ e _ _ _ => e
  | .min _ e _ _ _ => e
  | .max _ e _ _ _ => e
  | .minu _ e _ _ _ => e
  | .maxu _ e _ _ _ => e
  | .addw _ e _ _ _ => e
  | .subw _ e _ _ _ => e
  | .mul _ e _ _ _ => e
  | .mulh _ e _ _ _ => e
  | .mulhu _ e _ _ _ => e
  | .div _ e _ _ _ => e
  | .divu _ e _ _ _ => e
  | .rem _ e _ _ _ => e
  | .remu _ e _ _ _ => e
  | .addi _ e _ _ _ => e
  | .andi _ e _ _ _ => e
  | .ori _ e _ _ _ => e
  | .xori _ e _ _ _ => e
  | .slli _ e _ _ _ => e
  | .srli _ e _ _ _ => e
  | .srai _ e _ _ _ => e
  | .slti _ e _ _ _ => e
  | .sltiu _ e _ _ _ => e
  | .li _ e _ _ => e
  | .lsh _ e _ _ => e
  | .beqz _ e _ _ => e
  | .bnez _ e _ _ => e
  | .bltz _ e _ _ => e
  | .bgez _ e _ _ => e
  | .bgtz _ e _ _ => e
  | .blez _ e _ _ => e
  | .bcq _ e _ => e
  | .bncq _ e _ => e
  | .j _ e _ => e
  | .call _ e _ => e
  | .loop _ e _ _ _ => e
  | .loopi _ e _ _ _ => e
  | .mfsr _ e _ _ => e
  | .mtsr _ e _ _ => e
  | .jr _ e _ _ => e
  | .trap _ e _ => e
  | .brk _ e => e
  | .halt _ e => e
  | .cyc _ e _ => e
  | .acq _ e _ => e
  | .rel _ e _ => e
  | .acqGen _ e _ _ => e
  | .fence _ e _ => e
  | .soGen _ e _ _ => e
  | .ctxYield _ e => e
  | .vadd _ e _ _ _ _ _ => e
  | .vsub _ e _ _ _ _ _ => e
  | .vmul _ e _ _ _ _ _ => e
  | .vmac _ e _ _ _ _ _ => e
  | .vmin _ e _ _ _ _ => e
  | .vmax _ e _ _ _ _ => e
  | .vabs _ e _ _ _ => e
  | .vneg _ e _ _ _ => e
  | .vexp2 _ e _ _ _ _ => e
  | .vlog2 _ e _ _ _ _ => e
  | .vrcp _ e _ _ _ _ => e
  | .vrsqrt _ e _ _ _ _ => e
  | .vcmpEq _ e _ _ _ _ => e
  | .vcmpNe _ e _ _ _ _ => e
  | .vcmpLt _ e _ _ _ _ => e
  | .vcmpLe _ e _ _ _ _ => e
  | .vsel _ e _ _ _ _ => e
  | .vsum _ e _ _ _ _ => e
  | .vrmax _ e _ _ _ => e
  | .vrmin _ e _ _ _ => e
  | .vcvt _ e _ _ _ _ _ _ => e
  | .vadds _ e _ _ _ _ => e
  | .vmuls _ e _ _ _ _ => e
  | .vmacs _ e _ _ _ _ => e
  | .vmins _ e _ _ _ _ => e
  | .vmaxs _ e _ _ _ _ => e
  | .vfill _ e _ _ _ => e
  | .vseti _ e _ _ => e
  | .vsetf _ e _ _ => e
  | .vand _ e _ _ _ _ => e
  | .vor _ e _ _ _ _ => e
  | .vxor _ e _ _ _ _ => e
  | .vnot _ e _ _ _ => e
  | .vshl _ e _ _ _ _ => e
  | .vshr _ e _ _ _ _ => e
  | .vsra _ e _ _ _ _ => e
  | .vmulh _ e _ _ _ _ => e
  | .vperm _ e _ _ _ _ => e
  | .vcompact _ e _ _ _ _ => e
  | .vexpand _ e _ _ _ _ => e
  | .vscanAdd _ e _ _ _ => e
  | .vscanMax _ e _ _ _ => e
  | .vcolsel _ e _ _ _ _ => e
  | .vprobe _ e _ _ _ => e
  | .vstop _ e _ _ _ => e
  | .vmov _ e _ _ _ => e
  | .vmovDescriptor _ e _ _ => e
  | .vshift _ e _ _ _ _ => e
  | .vrotl _ e _ _ _ _ => e
  | .vbcast _ e _ _ _ _ => e
  | .vamoAdd _ e _ _ _ _ => e
  | .vamoMin _ e _ _ _ _ => e
  | .vamoMax _ e _ _ _ _ => e
  | .vamoComb _ e _ _ _ => e
  | .mxMac _ e _ _ _ _ => e
  | .mxMacz _ e _ _ _ _ => e
  | .mxZero _ e _ => e
  | .mxLd _ e _ _ => e
  | .mxSt _ e _ _ => e
  | .mxStc _ e _ _ _ => e
  | .mxMask _ e _ => e
  | .mxTw _ e _ => e
  | .mxAdd _ e _ _ => e
  | .mxSync _ e => e
  | .rtClr _ e => e
  | .rtLd _ e _ => e
  | .rtSt _ e _ _ => e
  | .rtQr _ e _ _ _ _ => e
  | .rtVec _ e _ _ _ => e
  | .rtRot _ e _ _ _ => e
  | .rtAngB16 _ e _ _ => e
  | .rtAngB32 _ e _ _ => e
  | .rtSol _ e _ _ _ _ => e
  | .rtApp _ e _ _ _ => e
  | .rtGz _ e => e
  | .rtRhs _ e _ => e
  | .sigAdd _ e _ _ _ => e
  | .sigRd _ e _ _ => e
  | .sigWait _ e _ _ _ => e
  | .flagAdd _ e _ _ _ => e
  | .flagMset _ e _ _ _ => e
  | .flagWait _ e _ _ _ => e
  | .ctrRd _ e _ _ => e
  | _ => false

end Sys2Proof
end

