-- ==== Sys2Proof/Config.lean ====
section
/-! DEFINITION. What the spec leaves to an implementation, to firmware or to the world outside: free values. Each is a
constant without a body, so that no proof can rest on a particular value (log entries 2, 12, 13, 14, 40, 43, 48, 50, 52, 56, 62). -/

namespace Sys2Proof.Machine

/-- An agent that runs instruction words. -/
inductive Agent where
  | ap (core : Nat)
  | ep (core : Nat)
  | sluice (n : Nat)
  deriving DecidableEq, Repr, Inhabited

/-- What a step is: an agent runs its next instruction, or an event happens. -/
inductive Turn where
  | run (a : Agent)
  | event (i : Instr)
  deriving DecidableEq, Repr, Inhabited

/-- Turn `n` of the schedule: which agent moves, or which event happens, when the agenda names none (log entry 2). -/
opaque Config.schedule : Nat → Turn

/-- Where firmware looks for a free HBM frame the `n`-th time (log entry 12). -/
opaque Config.frameStart : Nat → Nat

/-- Firmware can allocate what its `n`-th request needs (14_host_queues.md Table 8, NOMEM). -/
opaque Config.canAllocate : Nat → Bool

/-- The budget of the die allows physical core `c` to be woken, after `n` core cycles (01_device.md R24). -/
opaque Config.budgetAllows : Nat → Nat → Bool

/-- Byte `o` of a newly assigned local-store page, at free value `n` (08_memory.md R157). -/
opaque Config.pageByte : Nat → Nat → Byte

/-- How often event `code` (10 or 11) happens in one core cycle of logical core `k`, at free value `n`: L1 TLB misses of its
streams and local-store bank conflicts, which nothing else shows (19_counters.md R348; log entry 56). -/
opaque Config.perfEvents : Nat → Nat → Nat → Nat

/-- The L2 still holds the decoded line `ln` at free value `n` (08_memory.md R164, R165; log entry 43). -/
opaque Config.l2Holds : Nat → Nat → Bool

/-- Firmware enables reduction on port `p` when it sets a carve-out at free value `n` (17_collectives.md R308; log entry 50). -/
opaque Config.reduces : Nat → Nat → Bool

/-- The ticket number of a refused WEIR-REQ at free value `n` (15_sluice.md R277; log entry 48). -/
opaque Config.refusedTicket : Nat → BitVec 32

/-- Field `i` of the HANDLER of a failed node that aborts its queue, at free value `n`: cause, cause word, requested, available
(14_host_queues.md R264; log entry 52). -/
opaque Config.nodeHandler : Nat → Nat → Word

/-- The channel, within its stack, of the 128-byte line `ln` of HBM (08_memory.md R155: not architectural; log entry 62). -/
opaque Config.channelOf : Nat → Nat

/-- What a host read of the doorbell of queue `q` returns at free value `n` (14_host_queues.md R257 gives none; log entry 40). -/
opaque Config.doorbellRead : Nat → Nat → BitVec 32

/-- Bytes of a frame beside the Seriz header and the payload: Ethernet, IPv6, UDP and transport (15_sluice.md R269, R270). -/
opaque Config.frameOverhead : Nat

/-- The measured size, digest and name of measurement `i` after boot `b` (19_counters.md R353). -/
opaque Config.measuredSize : Nat → Nat → BitVec 32
opaque Config.measuredDigest : Nat → Nat → BitVec 512
opaque Config.measuredName : Nat → Nat → BitVec 448

/-- The certificate chain of slot 0 as a number of bytes and their value, its digest, and the signature with the identity
key over an answer (0 to CHALLENGE, 1 to GET_MEASUREMENTS) given as a number (19_counters.md R354). -/
opaque Config.certLength : Nat
opaque Config.certChain : Nat → Byte
opaque Config.certDigest : BitVec 512
opaque Config.signature : Nat → Nat → BitVec 512

/-- Capability flags of the SPDM responder (19_counters.md R354). -/
opaque Config.spdmFlags : BitVec 32

end Sys2Proof.Machine
end

