-- ==== Sys2Proof/Machine/SMap.lean ====
section
/-! DEFINITION. Tables by number, held as plain data: a list of (number, value) pairs with strictly rising numbers.
`put` also keeps out entries equal to what an unlisted number reads as, so that equal tables are equal lists. -/

namespace Sys2Proof.Machine

/-- A table from numbers to values. -/
abbrev SMap (β : Type) := List (Nat × β)

/-- The value listed at `k`. -/
def SMap.at? {β : Type} (m : SMap β) (k : Nat) : Option β :=
  match m with
  | [] => none
  | (k', v) :: r => if k' = k then some v else SMap.at? r k

/-- The value at `k`, or `d` where none is listed. -/
def SMap.atD {β : Type} (m : SMap β) (k : Nat) (d : β) : β :=
  match m with
  | [] => d
  | (k', v) :: r => if k' = k then v else SMap.atD r k d

/-- List `v` at `k`. -/
def SMap.ins {β : Type} (m : SMap β) (k : Nat) (v : β) : SMap β :=
  match m with
  | [] => [(k, v)]
  | (k', v') :: r =>
    if k < k' then (k, v) :: (k', v') :: r
    else if k = k' then (k, v) :: r
    else (k', v') :: SMap.ins r k v

/-- List nothing at `k`. -/
def SMap.del {β : Type} (m : SMap β) (k : Nat) : SMap β :=
  match m with
  | [] => []
  | (k', v') :: r => if k' = k then SMap.del r k else (k', v') :: SMap.del r k

/-- Make `k` read as `v`, where an unlisted number reads as `d`. -/
def SMap.put {β : Type} [DecidableEq β] (m : SMap β) (k : Nat) (v d : β) : SMap β :=
  if v = d then m.del k else m.ins k v

/-- Change every listed value. -/
def SMap.mapV {β : Type} (f : β → β) (m : SMap β) : SMap β := m.map (fun p => (p.1, f p.2))

/-- The numbers whose values satisfy `f`, rising. -/
def SMap.keysWhere {β : Type} (f : β → Bool) (m : SMap β) : List Nat := (m.filter (fun p => f p.2)).map Prod.fst

/-- The numbers listed, rising. -/
def SMap.keys {β : Type} (m : SMap β) : List Nat := m.map Prod.fst

/-- The part of a table from `lo` up to `hi`. -/
def SMap.cut {β : Type} (m : SMap β) (lo hi : Nat) : SMap β := m.filter (fun p => decide (lo ≤ p.1) && decide (p.1 < hi))

/-- The canonical form of what a list of entries says, where an unlisted number reads as `d`. -/
def SMap.norm {β : Type} [DecidableEq β] (m : SMap β) (d : β) : SMap β := m.foldr (fun p r => r.put p.1 p.2 d) []

/-- Replace the part from `lo` up to `hi` by `new`, where an unlisted number reads as `d`. -/
def SMap.splice {β : Type} [DecidableEq β] (m : SMap β) (lo hi : Nat) (new : SMap β) (d : β) : SMap β :=
  m.filter (fun p => decide (p.1 < lo)) ++ (new.norm d).cut lo hi ++ m.filter (fun p => decide (hi ≤ p.1))

/-- A table with its numbers moved from `lo` to `base`; numbers below `lo` are left out. -/
def SMap.move {β : Type} (m : SMap β) (lo base : Nat) : SMap β :=
  (m.filter (fun p => decide (lo ≤ p.1))).map (fun p => (p.1 - lo + base, p.2))

/-- The canonical form of a table: numbers strictly rising. -/
def SMap.sorted {β : Type} (m : SMap β) : Bool :=
  match m with
  | [] => true
  | (k, _) :: r => r.all (fun p => decide (k < p.1)) && SMap.sorted r

/-- The canonical form of a table whose unlisted numbers read as `d`. -/
def SMap.canon {β : Type} [DecidableEq β] (m : SMap β) (d : β) : Bool :=
  m.sorted && m.all (fun p => decide (p.2 ≠ d))

end Sys2Proof.Machine
end

