-- ==== Sys2Proof/Machine/State.lean ====
section
/-! DEFINITION. The state of the DV9604 as plain data: everything spec/ gives the device (INVENTORY.md, State). -/

namespace Sys2Proof.Machine

/-! ## Streams -/

/-- What holds a stalled stream (13_streams.md R243, 19_counters.md Table 3, 07_traps.md R371). -/
inductive StallOn where
  /-- A pop of `need` entries from stream queue `n`, which holds fewer. -/
  | queueEmpty (n need : Nat)
  /-- A push into stream queue `n`, which is full. -/
  | queueFull (n : Nat)
  | cqEmpty
  | cqFull
  /-- A token register with a pending write (R60). -/
  | token
  /-- A rill wait on the queue from the previous position. -/
  | rillPrev
  /-- A rill wait on the queue from the next position. -/
  | rillNext
  /-- A rill signal into a full queue. -/
  | rillRoom
  /-- Room in an engine input FIFO. -/
  | fifo
  | mxSync
  /-- The drain of `halt` (R148). -/
  | drain
  | ring
  /-- A `bank.wr` on the spill of the inactive bank (03_registers.md R73). -/
  | bank
  /-- Local-store page `p` of logical core `k` is allotted and not present (R157). -/
  | page (k p : Nat)
  /-- A sync object, or a signal, flag or tensor wait. -/
  | sync
  /-- A `fence`: it covers what started before number `bound` (10_consistency.md R195, 15_sluice.md R283). -/
  | fence (bound : Nat)
  | other
  deriving DecidableEq, Repr

/-- A hardware loop: its counter and its frame (03_registers.md R62). -/
structure Loop where
  count : Word
  first : Word
  last : Word
  active : Bool
  deriving DecidableEq, Repr

def Loop.idle : Loop := ⟨0, 0, 0, false⟩

/-- The per-stream registers of a logical core (03_registers.md Table 1) and what its stream is doing. -/
structure Strm where
  pc : Word
  /-- g1 to g23; an unlisted register holds 0. -/
  regs : SMap Word
  loop0 : Loop
  loop1 : Loop
  loop2 : Loop
  halted : Bool
  stall : Option StallOn
  /-- Consecutive core cycles of the stall (R371). -/
  stallCycles : Nat
  /-- The EP's `halt` bundle has handed its other syllables over and waits for the drain (R148). -/
  handed : Bool
  deriving DecidableEq, Repr

def Strm.fresh : Strm := ⟨0, [], Loop.idle, Loop.idle, Loop.idle, false, none, 0, false⟩

/-! ## Engine commands -/

/-- A command of the MXA input FIFO (05_matrix.md R109, 18_context_image.md Table 3). -/
structure MxCmd where
  /-- The M word. -/
  word : Nat
  /-- Entered by a copy's follow-on (R111). -/
  followOn : Bool
  ftz : Bool
  mask : Word
  /-- Operand entries in pop order. -/
  ops : List Word
  /-- The address reported as TEPC. -/
  pc : Word
  syl : Nat
  deriving DecidableEq, Repr

/-- A command of the RTA input FIFO (06_rotator.md R133). -/
structure RtCmd where
  word : Nat
  ftz : Bool
  da : BitVec 128
  db : BitVec 128
  pc : Word
  syl : Nat
  deriving DecidableEq, Repr

/-- A command of the CE or GE input FIFO (13_streams.md R245, R248). -/
structure CgCmd where
  word : Nat
  token : Nat
  /-- The group values of Table 3, in register order. -/
  group : List Word
  pc : Word
  /-- The issue number among the logical core's CE and GE commands, modulo 2^32. -/
  seq : Nat
  deriving DecidableEq, Repr

/-- The progress of an engine's head command. -/
structure Progress where
  count : Nat
  waited : Bool
  done : Bool
  /-- The command has been started (its checks are made) since the engine last stopped. -/
  started : Bool
  deriving DecidableEq, Repr

def Progress.zero : Progress := ⟨0, false, false, false⟩

/-- Pending numeric status (09_numbers.md Table 6); `flags` is NV, DZ, OF, UF, NX in bits 4:0. -/
structure NumStat where
  pv : Bool
  flags : Nat
  nan : Bool
  mag : Nat
  deriving DecidableEq, Repr

def NumStat.zero : NumStat := ⟨false, 0, false, 0⟩

/-- A follow-on that the CE holds while the MXA FIFO is full (13_streams.md R248). -/
structure FollowOn where
  word : Nat
  pc : Word
  ops : List Word
  deriving DecidableEq, Repr

/-! ## Traps -/

/-- A fault that a unit has detected (07_traps.md R138, R140). -/
structure TrapInfo where
  cause : Nat
  unit : Nat
  syl : Nat
  /-- TSTATUS.STRM. -/
  strm : Bool
  epc : Word
  addr : Word
  deriving DecidableEq, Repr

/-- Why a trap is with firmware (07_traps.md R147). -/
inductive EscReason where
  | noHandler
  | nested
  | overrun
  | pinning
  | escal (arg : Word)
  deriving DecidableEq, Repr

/-- An escalation in progress: the trap's first cause and how firmware came to hold it. -/
structure Escal where
  reason : EscReason
  info : TrapInfo
  /-- The swap that suspends the logical core has been made (ESCALATION). -/
  passed : Bool
  deriving DecidableEq, Repr

/-! ## Logical cores -/

/-- Where a logical core is (07_traps.md R150 to R152, 18_context_image.md R326). -/
inductive Loc where
  /-- In a bank of physical core `c` (active or shadow). -/
  | banked (c : Nat)
  /-- In its save area, resident on physical core `c`. -/
  | spilled (c : Nat)
  /-- Swapped out by FREEZE. -/
  | frozen
  deriving DecidableEq, Repr

/-- What a node's kernel declares and where it is mapped (02_encoding.md R56, R57). -/
structure Kern where
  slot : Nat
  number : Nat
  apBase : Nat
  apSize : Nat
  epBase : Nat
  epSize : Nat
  banks : Nat
  units : Nat
  flags : Nat
  timed : Bool
  deriving DecidableEq, Repr

/-- A logical core: its register state, its queues and its engines' state (03_registers.md Table 1, 13_streams.md Table 1). -/
structure LCore where
  ctx : Nat
  node : Nat
  lcid : Nat
  kern : Kern
  loc : Loc
  ap : Strm
  ep : Strm
  /-- d0 to d15. -/
  descs : SMap (BitVec 128)
  /-- SHAPE, rel, LVL, LIDX, LCOREID, TEAMSIZE and DATABASE by special register number (02_encoding.md Table 13). -/
  launch : SMap Word
  fpmode : Word
  amax : Word
  vprog : Word
  mxrow : Word
  /-- RTGAIN.SEL. -/
  rtsel : Nat
  tcause : Word
  tepc : Word
  taddr : Word
  tstatus : Word
  tvec : Word
  tscratch : Word
  /-- a0 to a3: word (i, j) of bank n at 1024·n + 32·i + j. -/
  acc : SMap (BitVec 32)
  mxmask : Word
  tri : SMap (BitVec 32)
  rtcnt : SMap Nat
  pendV : NumStat
  pendM : NumStat
  /-- q0 to q7, oldest entry first. -/
  qs : SMap (List Word)
  cq : List Bool
  /-- The ten token counts in the order of the fault record (07_traps.md Table 2). -/
  rill : SMap Nat
  dlcnt : Nat
  mxFifo : List MxCmd
  mxProg : Progress
  rtFifo : List RtCmd
  rtProg : Progress
  ceFifo : List CgCmd
  ceProg : Progress
  geFifo : List CgCmd
  geProg : Progress
  /-- Held statuses of the CE and the GE: register and status word. -/
  ceHeld : Option (Nat × Word)
  geHeld : Option (Nat × Word)
  followOn : Option FollowOn
  /-- The next issue number of a copy or gather command. -/
  cgSeq : Nat
  rings : SMap (BitVec 128)
  flags : SMap Word
  pcsel : Word
  pcs : SMap Word
  /-- The local-store map (08_memory.md Table 3). -/
  lsmap : SMap (BitVec 16)
  /-- Pages that have been assigned since dispatch (18_context_image.md R329). -/
  lsused : SMap Bool
  /-- Saved copies of assigned pages that are not present, by window offset. -/
  saved : SMap Byte
  /-- Beats of the current vector syllable that are committed while its bundle has not retired, and its elements. -/
  vdone : Nat
  /-- The running position of `vcompact` and `vexpand`, until the syllable stops (R228). -/
  vpos : Option Nat
  /-- Core cycles that the head `mx.tw` has waited (05_matrix.md R107, R371). -/
  twWait : Nat
  /-- A retirement, an issue or a vector beat of the EP since the last core cycle (19_counters.md Table 3). -/
  epBusy : Bool
  /-- A follow-on has entered the MXA FIFO since the last core cycle (05_matrix.md R111). -/
  foCycle : Bool
  /-- A unit has detected the first fault and the handler is not yet entered (R140); CYCLE at that detection (R141). -/
  trapReq : Option TrapInfo
  trapAt : Word
  /-- Faults recorded during the freeze: unit and cause (R140, PEND). -/
  pend : SMap Nat
  /-- Recorded resume addresses of the AP and the EP while a trap lasts (R141). -/
  apResume : Word
  epResume : Word
  /-- The unit whose command or stream stopped at the trap in progress. -/
  trapUnit : Nat
  /-- Cycles in trap mode. -/
  trapCycles : Nat
  esc : Option Escal
  /-- The fate of the step that an assist stopped: unit, and flush (R149). -/
  assist : Option (Nat × Bool)
  /-- The logical core has raised its halt line (R148). -/
  ended : Bool
  /-- Words that `bank.wr` has written at unused slots of the record, by offset (03_registers.md R73). -/
  spare : SMap Word
  deriving DecidableEq, Repr

def Kern.zero : Kern := ⟨0, 0, 0, 0, 0, 0, 0, 0, 0, false⟩

/-- A logical core as the distributor creates it, before its launch values are written (03_registers.md Table 1). -/
def LCore.fresh : LCore where
  ctx := 0
  node := 0
  lcid := 0
  kern := Kern.zero
  loc := .frozen
  ap := Strm.fresh
  ep := Strm.fresh
  descs := []
  launch := []
  fpmode := 0
  amax := 0
  vprog := 0
  mxrow := 0
  rtsel := 0
  tcause := 0
  tepc := 0
  taddr := 0
  tstatus := 0
  tvec := 0
  tscratch := 0
  acc := []
  mxmask := BitVec.allOnes 64
  tri := []
  rtcnt := []
  pendV := NumStat.zero
  pendM := NumStat.zero
  qs := []
  cq := []
  rill := []
  dlcnt := 0
  mxFifo := []
  mxProg := Progress.zero
  rtFifo := []
  rtProg := Progress.zero
  ceFifo := []
  ceProg := Progress.zero
  geFifo := []
  geProg := Progress.zero
  ceHeld := none
  geHeld := none
  followOn := none
  cgSeq := 0
  rings := []
  flags := []
  pcsel := 0
  pcs := []
  lsmap := []
  lsused := []
  saved := []
  vdone := 0
  vpos := none
  twWait := 0
  epBusy := false
  foCycle := false
  trapReq := none
  trapAt := 0
  pend := []
  apResume := 0
  epResume := 0
  trapUnit := 0
  trapCycles := 0
  esc := none
  assist := none
  ended := false
  spare := []

/-! ## Physical cores -/

/-- Power state of a physical core (16_distributor.md R297, 01_device.md R23). -/
inductive Power where
  | awake
  | clockGated
  | powerGated
  | waking
  deriving DecidableEq, Repr

/-- Why a bank swap is requested (07_traps.md R150). -/
inductive SwapReq where
  /-- Rotation to the next entry of the rotation list (R152). -/
  | rotate
  /-- Pre-emption for logical core `k`. -/
  | preempt (k : Nat)
  /-- Suspension of the active logical core by an escalation. -/
  | escalate
  deriving DecidableEq, Repr

/-- A physical core: its two banks, its rotation list, its spill engine and its counters. -/
structure PCore where
  /-- Resident logical cores by key, in rotation order (R152). -/
  rot : List Nat
  active : Option Nat
  /-- The logical core in the inactive bank. -/
  shadow : Option Nat
  swapReq : Option SwapReq
  /-- A swap is in progress: core cycles left. -/
  swapping : Option Nat
  /-- Cycles since the active logical core was activated. -/
  quantum : Nat
  /-- SPILLPOS (03_registers.md Table 6). -/
  held : Bool
  busy : Bool
  offset : Nat
  idle : SMap Word
  power : Power
  /-- CYCLE when the core last became empty. -/
  emptied : Nat
  /-- Core cycles until the wake ends. -/
  wake : Nat
  deriving DecidableEq, Repr

/-- A physical core after device reset: no logical core, clock-gated (the power state is the model's: log entry 5). -/
def PCore.fresh : PCore where
  rot := []
  active := none
  shadow := none
  swapReq := none
  swapping := none
  quantum := 0
  held := false
  busy := false
  offset := 0
  idle := []
  power := .clockGated
  emptied := 0
  wake := 0

/-! ## Contexts -/

/-- A running or ended collective (17_collectives.md R315 to R317, R321). -/
structure Coll where
  /-- The device's copy of the 128-byte record. -/
  record : List Byte
  /-- 0 free, 1 running, 2 complete, 3 failed. -/
  state : Nat
  /-- The walker's position: the number of walk points passed, skipped ones included. -/
  walked : Nat
  emitted : Nat
  completed : Nat
  budget : Nat
  /-- A transfer of it has failed. -/
  bad : Bool
  /-- Its range-table entry. -/
  range : Option Nat
  /-- The logical core that started it, by key (2^40 when it is not known), and its node. -/
  starter : Nat
  node : Nat
  /-- Collectives of the context that `coll.start` entered before it. -/
  order : Nat
  deriving DecidableEq, Repr

/-- A chunk in flight at a reducing port (17_collectives.md R308 to R312). -/
structure Stage where
  /-- Core cycles since its first staged contribution. -/
  elapsed : Nat
  /-- Contributors that are staged. -/
  bits : List Nat
  /-- Staged nodes of the tree: the contribution of `c` at c, node `j` of level `h` at 65536·h + j (R310). -/
  leaves : SMap (List Byte)
  deriving DecidableEq, Repr

/-- A chunk that an arriving packet has claimed, its payload not yet written (15_sluice.md R273). -/
structure Claim where
  /-- The port that the packet arrived on. -/
  port : Nat
  packet : Packet
  chunk : Nat
  /-- The words of the descriptor that it was checked against (17_collectives.md R319). -/
  tns : List Word
  /-- The core cycle in which its payload is written. -/
  due : Nat
  deriving DecidableEq, Repr

/-- An entry of a trigger list (18_context_image.md R333): type, object, argument. -/
structure Trig where
  kind : Nat
  object : Nat
  arg : Nat
  deriving DecidableEq, Repr

/-- A FREEZE in progress (18_context_image.md R324, 15_sluice.md R279): its queue and entry, and the Sluice cycle in which
the wait for acknowledgements ends; `swapped` once its logical cores and Sluice cores have stopped, `drained` once PAUSE
has been sent. -/
structure Freeze where
  queue : Nat
  entry : Nat
  swapped : Bool
  until_ : Nat
  drained : Bool
  deriving DecidableEq, Repr

/-- What a context holds. -/
structure Ctx where
  ptroot : Nat
  sotab : Nat
  /-- Basin grants: base of die `d` at 2·d, size at 2·d + 1 (08_memory.md R161). -/
  grants : SMap Nat
  /-- Dirty-log state (18_context_image.md Table 5). -/
  dlPtr : Nat
  dlSettling : Bool
  dlE : Bool
  dlArmed : Bool
  /-- Range-table words: W0 to W2 of entry `n` at 3·n (17_collectives.md R314). -/
  ranges : SMap Word
  /-- Collective records by handle, and how many `coll.start` has entered. -/
  colls : SMap Coll
  collCount : Nat
  /-- Tensor descriptors: W0 to W7 of descriptor `n` at 8·n (17_collectives.md R305). -/
  tns : SMap Word
  /-- Chunks in flight, chunk `k` of descriptor `t` at 2^28·t + k. -/
  stage : SMap Stage
  /-- Chunks that a descriptor has completed since its `tns.set`, numbered likewise (15_sluice.md R273 check 5). -/
  finished : SMap Bool
  claims : List Claim
  /-- Packets that wait on a claimed chunk: port, packet, and the words of the descriptor that they were checked against. -/
  waiting : List (Nat × Packet × List Word)
  /-- The floor of `dist.hint` (16_distributor.md R301). -/
  floor : Nat
  freeze : Option Freeze
  /-- FREEZE has completed (18_context_image.md R326). -/
  frozen : Bool
  failed : Bool
  triggers : List Trig
  deriving DecidableEq, Repr

def Ctx.fresh : Ctx where
  ptroot := 0
  sotab := 0
  grants := []
  dlPtr := 0
  dlSettling := false
  dlE := false
  dlArmed := false
  ranges := []
  colls := []
  collCount := 0
  tns := []
  stage := []
  finished := []
  claims := []
  waiting := []
  floor := 0
  freeze := none
  frozen := false
  failed := false
  triggers := []

/-! ## The distributor's tables (16_distributor.md) -/

/-- A kernel image of a slot: where it lies, its header, its relocations, and where its parts are mapped (R56). -/
structure Image where
  va : Nat
  /-- Header and loop table, 160 bytes (02_encoding.md Table 16). -/
  head : List Byte
  /-- Relocation entries of 16 bytes. -/
  relocs : List (List Byte)
  apBase : Nat
  epBase : Nat
  dataBase : Nat
  deriving DecidableEq, Repr

/-- A slot entry (Table 2). -/
structure ModelSlot where
  /-- 0 EMPTY, 1 LOADING, 2 LOADED. -/
  state : Nat
  nk : Nat
  nstop : Nat
  ctx : Nat
  freering : Nat
  retring : Nat
  stepno : Nat
  /-- The step list: entry numbers, rising. -/
  steps : List Nat
  /-- Stop tokens, 32 bits each. -/
  stops : List Nat
  images : List Image
  deriving DecidableEq, Repr

def ModelSlot.fresh : ModelSlot := ⟨0, 0, 0, 0, 0, 0, 0, [], [], []⟩

/-- A node of the pool (R293). -/
structure Node where
  ctx : Nat
  slot : Nat
  kernel : Nat
  /-- The 256 bytes of its LAUNCH entries. -/
  image : List Byte
  queue : Nat
  /-- Entry number of the launching packet, and its id. -/
  entry : Nat
  id : Nat
  /-- Origin: bit 0 B, bit 1 IRQ, bit 2 child of `node.launch`. -/
  origin : Nat
  prio : Nat
  /-- CYCLE at pool entry, and the count of pool entries before it. -/
  age : Nat
  order : Nat
  held : Bool
  /-- Nodes that it waits for. -/
  preds : List Nat
  /-- The predicate value read. -/
  pred : Option Nat
  /-- The gang it belongs to, by the order of its first member, and how many members are dispatched together. -/
  gang : Option Nat
  gangSize : Nat
  /-- Evaluated extents of levels 0 to 7 (02_encoding.md R53). -/
  lvl : List Nat
  lcount : Nat
  /-- Local-store bytes of each logical core. -/
  lstore : Nat
  dispatched : Bool
  dstamp : Nat
  cores : Nat
  step : Nat
  /-- The core cycle in which it became ready. -/
  readyAt : Option Nat
  /-- It has waited 2^26 core cycles (R295). -/
  starved : Bool
  deriving DecidableEq, Repr

/-! ## Host queues (14_host_queues.md) -/

/-- A packet that has started and whose entries PROG does not cover. -/
structure Started where
  entry : Nat
  /-- Ring entries it occupies. -/
  len : Nat
  bytes : List Byte
  completed : Bool
  /-- COPY bytes done. -/
  copied : Nat
  /-- A COPY whose fault is detected; it completes once its HANDLER is appended (21_prog_queue.md R360). -/
  failing : Bool
  /-- Collectives of the context that started before it (10_consistency.md Table 3). -/
  bound : Nat
  deriving DecidableEq, Repr

/-- A queue and its descriptor (Table 2). -/
structure HostQ where
  w0 : Word
  w1 : Word
  w2 : Word
  prog : Nat
  latch : Nat
  errcnt : Nat
  err : Bool
  frozen : Bool
  res : Bool
  stopped : Bool
  /-- The next entry to read. -/
  next : Nat
  started : List Started
  /-- HANDLERs owed to this handler queue: failing queue (256 for none), its context, and the packet. -/
  owed : List (Nat × Nat × List Byte)
  /-- The gang whose members are being read: its first member's order, members left to read, and members that completed
  without a dispatch (16_distributor.md R294, R295). -/
  gang : Option (Nat × Nat × Nat)
  deriving DecidableEq, Repr

def HostQ.fresh : HostQ where
  w0 := 0
  w1 := 0
  w2 := 0
  prog := 0
  latch := 0
  errcnt := 0
  err := false
  frozen := false
  res := false
  stopped := false
  next := 0
  started := []
  owed := []
  gang := none

/-! ## Sluice cores -/

/-- A chunk of a transfer: the Sluice cycle of its last transmission or TIMEOUT, the RTO of its last transmission (15_sluice.md
R276), whether it is acknowledged, whether it waits at its gate. -/
structure Chunk where
  sent : Option Nat
  rto : Nat
  acked : Bool
  gated : Bool
  deriving DecidableEq, Repr

def Chunk.fresh : Chunk := ⟨none, 0, false, false⟩

/-- A transfer of a Sluice core's transfer table (15_sluice.md R286, R287). -/
structure Transfer where
  /-- Bytes 0x00 to 0x2F of Table 9 of 15_sluice.md. -/
  desc : List Byte
  flow : Nat
  /-- 0 free, 1 sending, 2 done, 3 failed. -/
  state : Nat
  chunks : SMap Chunk
  /-- The collective that it belongs to (context's handle), its gate descriptor and gate chunk, and the first bit it sets
  at its acknowledgement bitmap. -/
  coll : Option Nat
  gate : Option (Nat × Int)
  ackBit : Nat
  /-- Transfers of the Sluice core that started before it. -/
  order : Nat
  deriving DecidableEq, Repr

/-- A security association (15_sluice.md R271): its context, key, next transmit counter, and the receive window. -/
structure Assoc where
  ctx : Nat
  key : List Byte
  counter : Nat
  /-- Counter values seen, highest first, at most 2,048. -/
  seen : List Nat
  deriving DecidableEq, Repr

/-- A packet queued on a flow: chunk `chunk` of transfer `handle`, or a control header. -/
inductive OutPkt where
  | chunk (handle chunk : Nat) (rtx : Bool)
  | control (hdr : List Byte)
  deriving DecidableEq, Repr

/-- What a flow holds beside its table entry (15_sluice.md R276). -/
structure FlowSt where
  /-- The pacing bucket, in 176ths of a byte: it fills by RATE in each Sluice cycle. -/
  bucket : Nat
  /-- The path last used. -/
  last : Nat
  queue : List OutPkt
  /-- HOLD was set because the flow's SA is exhausted. -/
  exhausted : Bool
  deriving DecidableEq, Repr

def FlowSt.fresh : FlowSt := ⟨0, 63, [], false⟩

/-- A Sluice core (15_sluice.md R281, R282). -/
structure Sluice where
  pc : Word
  /-- g1 to g31. -/
  regs : SMap Word
  svec : Word
  sepc : Word
  scause : Word
  staddr : Word
  sstatus : Word
  sscratch : Word
  /-- Private SRAM by offset. -/
  sram : SMap Byte
  /-- Flow table: W0 to W7 of flow `f` at 8·f (R275). -/
  flows : SMap Word
  flowSt : SMap FlowSt
  /-- Transfers by handle, the handle last allocated, and how many transfers have started. -/
  transfers : SMap Transfer
  lastHandle : Nat
  xferCount : Nat
  /-- Armed timers: Sluice cycles left and tag. -/
  timers : SMap (Nat × Nat)
  /-- Security associations by number. -/
  sas : SMap Assoc
  /-- The event queue, oldest first: records of four 64-bit words (R284). -/
  evq : List (List Word)
  /-- Pending own events: timers 0 to 255, ports at 256 to 258, the distributor at 259. -/
  pending : SMap (List Word)
  /-- SCTX and whether the core is bound (R281). -/
  ctx : Nat
  bound : Bool
  running : Bool
  /-- Sluice cycles spent in trap mode (R282). -/
  trapCycles : Nat
  stall : Option StallOn
  deriving DecidableEq, Repr

def Sluice.fresh : Sluice where
  pc := 0
  regs := []
  svec := 0
  sepc := 0
  scause := 0
  staddr := 0
  sstatus := 0
  sscratch := 0
  sram := []
  flows := []
  flowSt := []
  transfers := []
  lastHandle := 4095
  xferCount := 0
  timers := []
  sas := []
  evq := []
  pending := []
  ctx := 0
  bound := false
  running := false
  trapCycles := 0
  stall := none

/-! ## Ports (15_sluice.md R269, R277, R285) -/

/-- A transport connection: its peer's address, UDP port and context, its SA, and the Sluice cycle of its last packet. -/
structure Conn where
  addr : Nat
  udp : Nat
  ctx : Nat
  sa : Nat
  last : Nat
  deriving DecidableEq, Repr

/-- A ticket of a Weir block: its holder, as the connection that its WEIR-REQ came on, and whether it is done. -/
structure Ticket where
  holder : Conn
  isDone : Bool
  deriving DecidableEq, Repr

structure Port where
  up : Bool
  /-- Configured at 400 Gb/s. -/
  slow : Bool
  /-- Firmware has enabled reduction, with 8 MiB of staging in the die's basin carve-out (17_collectives.md R308). -/
  reduces : Bool
  addr : Nat
  udp : Nat
  next : Nat
  called : Nat
  base : Nat
  /-- Tickets from BASE to NEXT − 1. -/
  holders : List Ticket
  /-- Open connections by index. -/
  conns : SMap Conn
  /-- The flow that used the port last: flows that are ready take turns (R276). -/
  turn : Nat
  sent : Nat
  received : Nat
  drop : Word
  reject : Word
  dup : Word
  late : Word
  deriving DecidableEq, Repr

/-- A port after device reset (up, endpoint, speed and Weir values are the model's: log entry 9). -/
def Port.fresh : Port where
  up := true
  slow := false
  reduces := false
  addr := 0
  udp := 0
  next := 0
  called := 0
  base := 0
  holders := []
  conns := []
  turn := 511
  sent := 0
  received := 0
  drop := 0
  reject := 0
  dup := 0
  late := 0

/-- What a port has sent. -/
inductive Sent where
  /-- A packet: port, peer address and UDP port, UDP source port, peer context's SA and counter, header, payload. -/
  | packet (port addr udp entropy sa counter : Nat) (hdr payload : List Byte)
  /-- A control packet to a peer that no flow names: port, peer address and UDP port, SA and counter, header (log entry
  46). -/
  | reply (port addr udp sa counter : Nat) (hdr : List Byte)
  /-- An acknowledgement that port `port` sends on connection `conn` of port `via`, which the packet arrived on: the
  SA and counter, the sender's handle and chunk. -/
  | ack (port via conn sa counter handle chunk : Nat)
  deriving DecidableEq, Repr

/-- The algorithms that the SPDM responder selects (19_counters.md R354). -/
inductive SpdmAlg where
  | sha512
  | ed25519
  deriving DecidableEq, Repr

/-- An SPDM answer (19_counters.md R354). -/
inductive Spdm where
  | version (major minor : Nat)
  | capabilities (flags : BitVec 32)
  /-- Base hash, base asymmetric and measurement hash algorithms. -/
  | algorithms (hash asym meas : SpdmAlg)
  | digests (slot0 : BitVec 512)
  /-- A part of the certificate chain, and the bytes left after it. -/
  | certificate (part : List Byte) (left : Nat)
  | challengeAuth (nonce : Nat) (signature : BitVec 512)
  /-- Indices and digests of the measurement blocks. -/
  | measurements (blocks : List (Nat × BitVec 512)) (nonce : Nat) (signature : BitVec 512)
  /-- ERROR of UnsupportedRequest for request code `code`. -/
  | unsupported (code : Nat)
  deriving DecidableEq, Repr

/-! ## The device -/

/-- How the instruction that runs has ended. -/
inductive Verdict where
  /-- It retired, or its event happened. -/
  | done
  /-- It stalls and has changed nothing. -/
  | stalled
  /-- It trapped. -/
  | trapped
  /-- Its agent has nothing to run, or the event's condition does not hold. -/
  | idle
  deriving DecidableEq, Repr

/-- The instruction that runs: whose it is, its address (its bundle's in the EP), the address after it, its word
index in the bundle, how many syllables of the bundle follow it in the order of execution, and how it ended. -/
structure Cursor where
  agent : Option Agent
  pc : Word
  next : Word
  syl : Nat
  left : Nat
  /-- A descriptor that the bundle writes at its retirement (R61). -/
  descWrite : Option (Nat × BitVec 128)
  /-- A register or queue entry that the bundle's vector syllable writes at its retirement (R33). -/
  regWrite : Option (Nat × Word)
  /-- The bundle holds a vector syllable (its progress is cleared at retirement). -/
  vector : Bool
  /-- The bundle as a whole is at fault (02_encoding.md R32). -/
  bundle : Bool
  /-- Rill bits of the bundle's vector syllable, which act at the bundle's retirement. -/
  rill : Rill
  verdict : Verdict
  deriving DecidableEq, Repr

def Cursor.none : Cursor := ⟨.none, 0, 0, 0, 0, .none, .none, false, false, Rill.none, .idle⟩

/-- A terrace multicast store in flight (08_memory.md R159). -/
structure Multicast where
  /-- The core cycle in which it lands. -/
  at_ : Nat
  /-- The logical core that wrote it, and whether its copy engine did. -/
  writer : Nat
  ce : Bool
  /-- Logical cores, by key. -/
  targets : List Nat
  off : Nat
  bytes : List Byte
  deriving DecidableEq, Repr

/-- A report to firmware. -/
inductive Report where
  /-- A translation names a region that no page may map (08_memory.md R154). -/
  | pageTable (ctx : Nat) (va : Word)
  /-- A trap is passed to firmware (07_traps.md R147). -/
  | escalation (lc : Nat) (why : EscReason) (cause : Nat)
  /-- A save store, a record store or another access to pinned memory faulted (07_traps.md R141, R151). -/
  | pinning (ctx : Nat) (va : Word)
  /-- A Sluice core stopped on a trap (15_sluice.md R282). -/
  | sluice (n cause : Nat)
  /-- A context failed (16_distributor.md R298). -/
  | contextFailure (ctx cause : Nat)
  /-- A remote fault of a context (15_sluice.md R278, 17_collectives.md R312). -/
  | remoteFault (ctx cause : Nat) (va : Word)
  deriving DecidableEq, Repr

/-- The whole device. -/
structure State where
  /-- Physical memory by address; an unlisted byte reads 0 (log entry 3). -/
  mem : SMap Byte
  cycle : Word
  /-- Core cycles since reset, as a count (drives the Sluice clock). -/
  ticks : Nat
  cores : SMap PCore
  /-- Logical cores by key: node number · 65536 + LCOREID. -/
  lcores : SMap LCore
  ctxs : SMap Ctx
  sluices : SMap Sluice
  /-- Multicast stores in flight, in the order in which they land. -/
  multicasts : List Multicast
  /-- Multicast stores of this core cycle to targets whose page is not in the writer's terrace, by LCOREID. -/
  mcWeak : List Multicast
  /-- Decoded lines of storage-format ranges that the L2 has filled, by line number (08_memory.md R164, R165). -/
  l2 : SMap (List Byte)
  /-- Storage-format ranges: W0 to W3 of range `n` at 4·n (08_memory.md Table 4). -/
  formats : SMap Word
  /-- Basin carve-out of each die, in bytes (08_memory.md R161). -/
  carveouts : SMap Nat
  /-- Device error counters (19_counters.md Table 5). -/
  errs : SMap Word
  slots : SMap ModelSlot
  /-- The node pool by node number, and the count of pool entries made. -/
  nodes : SMap Node
  nodeOrder : Nat
  /-- Logical cores of completed nodes as they ended, until their key is used again (22_prog_fabric.md R370). -/
  retired : SMap LCore
  /-- Sequence table: W0 to W11 of entry `e` at 12·e (16_distributor.md R299). -/
  seqs : SMap Word
  queues : SMap HostQ
  /-- The queue that each wake core served last (14_host_queues.md R261). -/
  wakeTurn : SMap Nat
  /-- HANDLERs that the device has appended, by physical address (14_host_queues.md R262). -/
  handlers : SMap (List Byte)
  /-- Mailboxes by offset within each (14_host_queues.md Table 6, 16_distributor.md Table 1). -/
  control : SMap Byte
  slotbox : SMap Byte
  /-- Base of the HW2 aperture (14_host_queues.md Table 1). -/
  hw2base : Nat
  /-- MSI-X vectors sent, oldest first. -/
  msix : List Nat
  ports : SMap Port
  /-- What the ports have sent, oldest first. -/
  sent : List Sent
  /-- HSTATE (19_counters.md Table 6), fenced cores and ports, and fenced channels: stack and channel. -/
  hstate : Nat
  fencedCores : List Nat
  fencedPorts : List Nat
  fencedChannels : List (Nat × Nat)
  /-- Corrected soft errors of the last 2^32 core cycles: the unit and the core cycle of each. -/
  softErrors : List (HwUnit × Nat)
  /-- Device resets so far: the measurement log is that of this boot (19_counters.md R353). -/
  boots : Nat
  spdm : List Spdm
  /-- 4 KiB frames of HBM that firmware has taken, by number, with their owner: a context, or 65,536 plus a slot
  (log entry 12). -/
  frames : SMap Nat
  /-- What the device has reported to firmware, oldest first. -/
  reports : List Report
  cur : Cursor
  agenda : List Turn
  /-- Turns taken from the schedule. -/
  turn : Nat
  /-- Free values used so far. -/
  free : Nat
  deriving DecidableEq, Repr

/-- The machine right after device reset (03_registers.md R58: no logical core exists). -/
def State.reset : State where
  mem := []
  cycle := 0
  ticks := 0
  cores := []
  lcores := []
  ctxs := []
  sluices := []
  multicasts := []
  mcWeak := []
  l2 := []
  formats := []
  carveouts := []
  errs := []
  slots := []
  nodes := []
  nodeOrder := 0
  retired := []
  seqs := []
  queues := []
  wakeTurn := []
  handlers := []
  control := []
  slotbox := []
  hw2base := 0
  msix := []
  ports := []
  sent := []
  hstate := 0
  fencedCores := []
  fencedPorts := []
  fencedChannels := []
  softErrors := []
  boots := 0
  spdm := []
  frames := []
  reports := []
  cur := Cursor.none
  agenda := []
  turn := 0
  free := 0

/-- Why a step stops the machine. -/
inductive Fault where
  /-- Raised by `exec` when an instruction word is to run and no stream is selected for it; `step` always selects one. Safe. -/
  | noStream
  deriving DecidableEq, Repr

/-- Why an instruction is refused. -/
inductive Refusal where
  /-- Raised by the dispatcher for an instruction without a meaning. Safe. -/
  | notModelled (mnemonic : String)
  deriving DecidableEq, Repr

end Sys2Proof.Machine
end

