-- ==== Sys2Proof/Machine/Flags.lean ====
section
/-! DEFINITION. The numeric status: the flags NV, DZ, OF, UF and NX and the largest magnitude, pending while a command or a
vector syllable runs, and merged into FPMODE and AMAX when it completes. The flags of one operation are computed with its
result in Num.lean and Elem.lean. -/

namespace Sys2Proof.Machine

/-! ## Numeric status (09_numbers.md R183, R184) -/

/-- Merge a pending status into FPMODE's flags and AMAX. -/
def LCore.mergeStat (l : LCore) (n : NumStat) : LCore :=
  if n.pv then
    let f := l.fpmode ||| toW (n.flags * 16)
    let mag := max (wf l.amax 30 0) n.mag
    let a := setFld l.amax 30 0 mag
    { l with fpmode := f, amax := if n.nan then setFld a 32 32 1 else a }
  else l

/-- Add a step's flags to a pending status. -/
def NumStat.commit (n : NumStat) (flags : Nat) (nan : Bool) (mag : Nat) : NumStat :=
  ⟨true, n.flags ||| flags, n.nan || nan, max n.mag mag⟩

end Sys2Proof.Machine
end

