-- ==== Sys2Proof/Machine/Num.lean ====
section
/-! DEFINITION. Number formats, exact values and rounding (09_numbers.md R172 to R181). A finite value is a sign and a
dyadic number m · 2^e; every rounding of the device is one call of `roundTo`. Where an exact value is no dyadic number
(a quotient, a root), a lowest sticky bit stands for the rest. -/

namespace Sys2Proof.Machine

/-- A floating-point format (09_numbers.md Table 1): fraction bits, exponent bits, bias; `e4m3` has no Inf and one NaN. -/
structure Fmt where
  frac : Nat
  expo : Nat
  bias : Nat
  e4m3 : Bool
  deriving DecidableEq, Repr

def fp64 : Fmt := ⟨52, 11, 1023, false⟩
def fp32 : Fmt := ⟨23, 8, 127, false⟩
def fp24 : Fmt := ⟨15, 8, 127, false⟩
def bf16 : Fmt := ⟨7, 8, 127, false⟩
def fp16 : Fmt := ⟨10, 5, 15, false⟩
def e5m2 : Fmt := ⟨2, 5, 15, false⟩
def e4m3 : Fmt := ⟨3, 4, 7, true⟩

/-- The width of a format. -/
def Fmt.width (f : Fmt) : Nat := 1 + f.expo + f.frac

/-- Rounding modes (R176), by code: 0 RNE, 1 RTZ, 2 RDN, 3 RUP. -/
inductive RMode where
  | rne
  | rtz
  | rdn
  | rup
  deriving DecidableEq, Repr

def RMode.ofCode (n : Nat) : RMode :=
  match n with
  | 0 => .rne
  | 1 => .rtz
  | 2 => .rdn
  | _ => .rup

/-- A value: a NaN (signalling or quiet), an infinity, or (−1)^neg · m · 2^e. -/
inductive FV where
  | nan (sig : Bool)
  | inf (neg : Bool)
  | fin (neg : Bool) (m : Nat) (e : Int)
  deriving DecidableEq, Repr

/-- The fate of a tiny FP32 or FP64 result (R178, R149). -/
inductive Sub where
  | gradual
  | flush
  | assist
  deriving DecidableEq, Repr

/-- What a rounding delivers: the pattern, the flags (NV 16, DZ 8, OF 4, UF 2, NX 1), and whether it calls for an assist. -/
structure RRes where
  bits : Nat
  flags : Nat
  assist : Bool
  deriving DecidableEq, Repr

def nv : Nat := 16
def dz : Nat := 8
def fof : Nat := 4
def uf : Nat := 2
def nx : Nat := 1

/-- The value of a pattern (R172, R173). -/
def Fmt.value (f : Fmt) (b : Nat) : FV :=
  let neg := fld b (f.expo + f.frac) (f.expo + f.frac) == 1
  let x := b / 2 ^ f.frac % 2 ^ f.expo
  let m := b % 2 ^ f.frac
  if x = 2 ^ f.expo - 1 ∧ f.e4m3 = false then
    if m = 0 then .inf neg else .nan (decide (m < 2 ^ (f.frac - 1)))
  else if f.e4m3 ∧ x = 15 ∧ m = 7 then .nan false
  else if x = 0 then .fin neg m (1 - (f.bias : Int) - f.frac)
  else .fin neg (2 ^ f.frac + m) ((x : Int) - f.bias - f.frac)

def Fmt.signBit (f : Fmt) (neg : Bool) : Nat := if neg then 2 ^ (f.expo + f.frac) else 0

/-- The pattern of infinity; the NaN pattern of that sign in E4M3 (R176). -/
def Fmt.infBits (f : Fmt) (neg : Bool) : Nat :=
  f.signBit neg + (if f.e4m3 then 127 else (2 ^ f.expo - 1) * 2 ^ f.frac)

/-- The largest finite pattern. -/
def Fmt.maxBits (f : Fmt) (neg : Bool) : Nat :=
  f.signBit neg + (if f.e4m3 then 126 else (2 ^ f.expo - 1) * 2 ^ f.frac - 1)

/-- The canonical quiet NaN (R173, Table 2). -/
def Fmt.nanBits (f : Fmt) : Nat :=
  if f.e4m3 then 127 else (2 ^ f.expo - 1) * 2 ^ f.frac + 2 ^ (f.frac - 1)

/-- Whether a discarded remainder `r` of `2^s` rounds the magnitude `q` up. -/
def roundsUp (rm : RMode) (neg : Bool) (q r s : Nat) : Bool :=
  match rm with
  | .rne => decide (2 * r > 2 ^ s ∨ (2 * r = 2 ^ s ∧ q % 2 = 1))
  | .rtz => false
  | .rdn => neg && decide (r ≠ 0)
  | .rup => !neg && decide (r ≠ 0)

/-- The magnitude m · 2^e rounded to a multiple of 2^u: the multiple, and whether it is inexact. -/
def roundAt (rm : RMode) (neg : Bool) (m : Nat) (e u : Int) : Nat × Bool :=
  if u ≤ e then (m * 2 ^ (e - u).toNat, false)
  else
    let s := (u - e).toNat
    let q := m / 2 ^ s
    let r := m % 2 ^ s
    (if roundsUp rm neg q r s then q + 1 else q, decide (r ≠ 0))

/-- The exponent of the lowest bit of the value m · 2^e (m ≠ 0) when it keeps `p` + 1 bits. -/
def ulpOf (m : Nat) (e : Int) (p : Nat) : Int := (m.log2 : Int) + e - p

/-- Round the value ±m · 2^e to `f` (R176 to R178): overflow is decided with an unbounded exponent, `sat` gives the largest
finite value there, `sub` is the fate of a tiny result. -/
def roundTo (f : Fmt) (rm : RMode) (sub : Sub) (sat neg : Bool) (m : Nat) (e : Int) : RRes :=
  if m = 0 then ⟨f.signBit neg, 0, false⟩
  else
    let u := ulpOf m e f.frac
    let (q, ix) := roundAt rm neg m e u
    -- q has frac + 1 bits, or is 2^(frac+1)
    let (q, u) := if q = 2 ^ (f.frac + 1) then (2 ^ f.frac, u + 1) else (q, u)
    let x : Int := u + f.frac + f.bias
    let top : Int := if f.e4m3 then 15 else 2 ^ f.expo - 2
    if x > top ∨ (f.e4m3 ∧ x = 15 ∧ q = 15) then
      let toInf := match rm with
        | .rne => true
        | .rtz => false
        | .rdn => neg
        | .rup => !neg
      ⟨if sat then f.maxBits neg else if toInf then f.infBits neg else f.maxBits neg, fof + nx, false⟩
    else if x < 1 then
      match sub with
      | .assist => ⟨f.signBit neg, 0, true⟩
      | .flush => ⟨f.signBit neg, uf + nx, false⟩
      | .gradual =>
        let (g, gx) := roundAt rm neg m e (1 - (f.bias : Int) - f.frac)
        ⟨f.signBit neg + g, if gx then uf + nx else 0, false⟩
    else ⟨f.signBit neg + x.toNat * 2 ^ f.frac + (q - 2 ^ f.frac), if ix then nx else 0, false⟩

/-- The fate of a tiny result in format `f`: only FP32 and FP64 trap or flush (R178). -/
def subFor (f : Fmt) (sub : Sub) : Sub := if f = fp32 ∨ f = fp64 then sub else .gradual

/-- Deliver an exact value in format `f` (no saturation). -/
def FV.round (v : FV) (f : Fmt) (rm : RMode) (sub : Sub) : RRes :=
  match v with
  | .nan _ => ⟨f.nanBits, 0, false⟩
  | .inf neg => ⟨f.infBits neg, 0, false⟩
  | .fin neg m e => roundTo f rm (subFor f sub) false neg m e

def FV.isNan : FV → Bool
  | .nan _ => true
  | _ => false

def FV.isSig : FV → Bool
  | .nan s => s
  | _ => false

def FV.isInf : FV → Bool
  | .inf _ => true
  | _ => false

def FV.isZero : FV → Bool
  | .fin _ m _ => m == 0
  | _ => false

/-- The sign of a value (a NaN counts as positive). -/
def FV.neg : FV → Bool
  | .nan _ => false
  | .inf n => n
  | .fin n _ _ => n

def FV.negate : FV → FV
  | .nan s => .nan s
  | .inf n => .inf (!n)
  | .fin n m e => .fin (!n) m e

def FV.abs : FV → FV
  | .nan s => .nan s
  | .inf _ => .inf false
  | .fin _ m e => .fin false m e

/-- The signed integer m of a finite value scaled to exponent `u` ≤ e. -/
def scaled (neg : Bool) (m : Nat) (e u : Int) : Int :=
  let n : Int := ((m * 2 ^ (e - u).toNat : Nat) : Int)
  if neg then -n else n

/-- A value and whether the operation was invalid (NV). -/
abbrev FVx := FV × Bool

/-- The exact product. -/
def FV.mul (x y : FV) : FVx :=
  match x, y with
  | .nan a, .nan b => (.nan false, a || b)
  | .nan a, _ => (.nan false, a)
  | _, .nan b => (.nan false, b)
  | .inf a, .inf b => (.inf (a != b), false)
  | .inf a, .fin b m _ => if m = 0 then (.nan false, true) else (.inf (a != b), false)
  | .fin a m _, .inf b => if m = 0 then (.nan false, true) else (.inf (a != b), false)
  | .fin a m e, .fin b n g => (.fin (a != b) (m * n) (e + g), false)

/-- The exact sum of two values: a zero sum of opposite signs is +0, and −0 under RDN (R176, R101). -/
def FV.add (rm : RMode) (x y : FV) : FVx :=
  match x, y with
  | .nan a, .nan b => (.nan false, a || b)
  | .nan a, _ => (.nan false, a)
  | _, .nan b => (.nan false, b)
  | .inf a, .inf b => if a = b then (.inf a, false) else (.nan false, true)
  | .inf a, .fin _ _ _ => (.inf a, false)
  | .fin _ _ _, .inf b => (.inf b, false)
  | .fin a m e, .fin b n g =>
    let u := min e g
    let t := scaled a m e u + scaled b n g u
    if t = 0 then (.fin (if a = b then a else rm == .rdn) 0 u, false)
    else (.fin (decide (t < 0)) t.natAbs u, false)

/-- The exact sum of a list of values, from the first. -/
def FV.sum (rm : RMode) : List FV → FVx
  | [] => (.fin false 0 0, false)
  | x :: xs => xs.foldl (fun (a : FVx) y => let r := FV.add rm a.1 y; (r.1, r.2 || a.2)) (x, x.isSig)

/-- Compare two values that are no NaN: x < y (zeros of either sign are equal). -/
def FV.lt (x y : FV) : Bool :=
  match x, y with
  | .nan _, _ => false
  | _, .nan _ => false
  | .inf a, .inf b => a && !b
  | .inf a, .fin _ _ _ => a
  | .fin _ _ _, .inf b => !b
  | .fin a m e, .fin b n g =>
    let u := min e g
    decide (scaled a m e u < scaled b n g u)

/-- Equality of values that are no NaN. -/
def FV.eq (x y : FV) : Bool := !x.isNan && !y.isNan && !FV.lt x y && !FV.lt y x

/-- The integer value of an exact integer. -/
def FV.ofInt (n : Int) : FV := .fin (decide (n < 0)) n.natAbs 0

/-- The quotient to `k` bits with a sticky bit below them, of magnitudes m · 2^e and n · 2^g, n ≠ 0. -/
def divSticky (k m : Nat) (e : Int) (n : Nat) (g : Int) : Nat × Int :=
  let s := k + n.log2 + 1 - m.log2
  let q := m * 2 ^ s / n
  let r := m * 2 ^ s % n
  (2 * q + (if r = 0 then 0 else 1), e - g - s - 1)

/-- The correctly rounded quotient, before rounding (06_rotator.md R132): flags DZ or NV with it. A zero divisor gives an
infinity and sets DZ, or a NaN with NV for 0/0. -/
def FV.div (x y : FV) : FV × Nat :=
  match x, y with
  | .nan a, .nan b => (.nan false, if a || b then nv else 0)
  | .nan a, _ => (.nan false, if a then nv else 0)
  | _, .nan b => (.nan false, if b then nv else 0)
  | .inf _, .inf _ => (.nan false, nv)
  | .inf a, .fin b n _ => (.inf (a != b), if n = 0 then dz else 0)
  | .fin a _ _, .inf b => (.fin (a != b) 0 0, 0)
  | .fin a m e, .fin b n g =>
    if n = 0 then if m = 0 then (.nan false, nv) else (.inf (a != b), dz)
    else if m = 0 then (.fin (a != b) 0 0, 0)
    else
      let (q, u) := divSticky 70 m e n g
      (.fin (a != b) q u, 0)

/-- floor(√n), by `k` bits from the top. -/
def isqrtAux : Nat → Nat → Nat → Nat
  | 0, _, r => r
  | k + 1, n, r =>
    let t := r + 2 ^ k
    if t * t ≤ n then isqrtAux k n t else isqrtAux k n r

def isqrt (n : Nat) : Nat := isqrtAux (n.log2 / 2 + 1) n 0

/-- A finite value rounded to an integer (R180). -/
def roundInteger (rm : RMode) (neg : Bool) (m : Nat) (e : Int) : Int × Bool :=
  let (q, ix) := roundAt rm neg m e 0
  (if neg then -(q : Int) else q, ix)

end Sys2Proof.Machine
end

