-- ==== Sys2Proof/Machine/Mem.lean ====
section
/-! DEFINITION. Memory: physical bytes, storage-format ranges, the windows of the virtual address space, the page walk,
the range table and the dirty log (08_memory.md). -/

namespace Sys2Proof.Machine

/-! ## Trap causes (07_traps.md Table 1) -/

def cIllegal : Nat := 1
def cMisaligned : Nat := 2
def cProtection : Nat := 3
def cPageFault : Nat := 4
def cCollectiveRange : Nat := 5
def cSubnormalAssist : Nat := 6
def cMatrixOperand : Nat := 7
def cRotatorOperand : Nat := 8
def cCopyOperand : Nat := 9
def cVectorOperand : Nat := 10
def cQueueDeadlock : Nat := 11
def cStaleGeneration : Nat := 12
def cBreak : Nat := 48

/-! ## Physical memory -/

/-- The canonical form of memory: addresses strictly rising, no byte listed that an unlisted address reads as. -/
abbrev Memory.wf (m : SMap Byte) : Bool := m.canon 0

/-- The byte held at a physical address. -/
def State.rawByte (s : State) (pa : Nat) : Byte := s.mem.atD pa 0

/-- Store a byte at a physical address. -/
def State.setRaw (s : State) (pa : Nat) (b : Byte) : State := { s with mem := s.mem.put pa b 0 }

/-- Bytes from a physical address, as held. -/
def State.rawBytes (s : State) (pa : Nat) : Nat → List Byte
  | 0 => []
  | n + 1 => s.rawByte pa :: s.rawBytes (pa + 1) n

/-- Store bytes from a physical address, as they are. -/
def State.setRaws (s : State) (pa : Nat) : List Byte → State
  | [] => s
  | b :: bs => (s.setRaw pa b).setRaws (pa + 1) bs

/-! ### Storage-format ranges (R163 to R165) -/

/-- Word `w` of storage-format range `n`. -/
def State.fmtWord (s : State) (n w : Nat) : Word := s.formats.atD (4 * n + w) 0

/-- The range is enabled: V set and FMT 1, 2 or 3. -/
def State.fmtOn (s : State) (n : Nat) : Bool :=
  let w := s.fmtWord n 0
  wbit w 63 && decide (1 ≤ wf w 59 56) && decide (wf w 59 56 ≤ 3)

/-- The lowest-numbered enabled range, from `n` on, whose view holds physical address `pa`. -/
def State.fmtFind (s : State) (pa : Nat) : Nat → Nat → Option Nat
  | 0, _ => none
  | k + 1, n =>
    if s.fmtOn n ∧ wf (s.fmtWord n 0) 39 0 ≤ pa / 4096 ∧ pa / 4096 ≤ wf (s.fmtWord n 1) 39 0 then some n
    else s.fmtFind pa k (n + 1)

/-- The storage-format range that decodes `pa`; only HBM is decoded (R163). -/
def State.fmtAt (s : State) (pa : Nat) : Option Nat :=
  if s.formats = [] then none else if pa < 2 ^ 39 then s.fmtFind pa 64 0 else none

/-- The 2-bit code of a trit (R164, R96). -/
def tritCode (t : Nat) : Nat :=
  match t with
  | 0 => 0
  | 1 => 1
  | _ => 3

/-- The 2-bit code of element `n` of a T5 range packed at `pack`. -/
def State.t5Code (s : State) (pack n : Nat) : Nat :=
  let v := (s.rawByte (pack + n / 5)).toNat
  if 243 ≤ v then 0 else tritCode (v / 3 ^ (n % 5) % 3)

/-- The BF16 pattern of a packed value times its scale (R164): one rounding of the exact product. -/
def scaledBf16 (v scale : FV) : Nat := ((FV.mul v scale).1.round bf16 .rne .gradual).bits

/-- The BF16 element `n` of a Q4S or F8S range. -/
def State.bf16Elem (s : State) (fmt pack scale n : Nat) : Nat :=
  let sc := bf16.value (ofBytes (s.rawBytes (scale + 2 * (n / 32)) 2))
  if fmt = 2 then
    let b := (s.rawByte (pack + n / 2)).toNat
    scaledBf16 (FV.ofInt (sextZ 4 (if n % 2 = 0 then b % 16 else b / 16))) sc
  else scaledBf16 (e4m3.value (s.rawByte (pack + n)).toNat) sc

/-- The byte that range `r` decodes at `pa` (R164, Table 5). -/
def State.decoded (s : State) (r pa : Nat) : Byte :=
  let o := pa - 4096 * wf (s.fmtWord r 0) 39 0
  let pack := 4096 * wf (s.fmtWord r 2) 39 0
  let scale := 4096 * wf (s.fmtWord r 3) 39 0
  let fmt := wf (s.fmtWord r 0) 59 56
  if fmt = 1 then
    BitVec.ofNat 8 (s.t5Code pack (4 * o) + 4 * s.t5Code pack (4 * o + 1) + 16 * s.t5Code pack (4 * o + 2)
      + 64 * s.t5Code pack (4 * o + 3))
  else BitVec.ofNat 8 (s.bf16Elem fmt pack scale (o / 2) / 256 ^ (o % 2))

/-- The decoded line `ln` as the L2 holds it, unless it has been evicted since it was filled: which lines the L2 still
holds is a free value (log entry 43). -/
def State.heldLine (s : State) (ln : Nat) : Option (List Byte) :=
  match s.l2.at? ln with
  | some bs => if Config.l2Holds s.free ln then some bs else none
  | none => none

/-- The byte a reader of physical address `pa` sees: in a storage-format range, that of the decoded line in the L2, or of the
line that the home slice decodes now (R164, R165). -/
def State.physByte (s : State) (pa : Nat) : Byte :=
  match s.fmtAt pa with
  | none => s.rawByte pa
  | some r =>
    match s.heldLine (pa / 128) with
    | some bs => bs.getD (pa % 128) 0
    | none => s.decoded r pa

def State.physBytes (s : State) (pa : Nat) : Nat → List Byte
  | 0 => []
  | n + 1 => s.physByte pa :: s.physBytes (pa + 1) n

/-- Add `n` to device error counter `i`, saturating (19_counters.md R349). -/
def State.countErrs (s : State) (i n : Nat) : State :=
  let v := (s.errs.atD i 0).toNat + n
  { s with errs := s.errs.put i (if 2 ^ 64 ≤ v then BitVec.allOnes 64 else toW v) 0 }

/-- Add 1 to device error counter `i`, saturating. -/
def State.countErr (s : State) (i : Nat) : State := s.countErrs i 1

/-- Store a byte where the write is not discarded. -/
def State.setPhys (s : State) (pa : Nat) (b : Byte) : State :=
  match s.fmtAt pa with
  | none => s.setRaw pa b
  | some _ => s

/-- The write of `n` bytes from `pa` touches lines within an enabled range: how many of them, at most `fuel` (R165). -/
def State.lostLines (s : State) : Nat → Nat → Nat → Nat
  | 0, _, _ => 0
  | fuel + 1, pa, n =>
    if n = 0 then 0
    else
      let m := 128 - pa % 128
      (if (s.fmtAt pa).isSome then 1 else 0) + s.lostLines fuel (pa + m) (n - m)

/-- Store bytes that are not discarded. -/
def State.setEach (s : State) (pa : Nat) : List Byte → State
  | [] => s
  | b :: bs => (s.setPhys pa b).setEach (pa + 1) bs

/-- A write at the home: what falls in a line within an enabled range is discarded, and counted once for each such line
(R165). -/
def State.setPhyss (s : State) (pa : Nat) (bs : List Byte) : State :=
  if s.formats = [] then s.setRaws pa bs
  else
    let n := s.lostLines (bs.length + 1) pa bs.length
    let t := s.setEach pa bs
    if n = 0 then t else t.countErrs 2 n

/-- How many packed bytes of 243 to 255 the elements of the line at `pa` come from, in T5 range `r` (R164). -/
def State.badT5 (s : State) (r pa : Nat) : Nat :=
  if wf (s.fmtWord r 0) 59 56 = 1 then
    let pack := 4096 * wf (s.fmtWord r 2) 39 0
    let o := 4 * (pa - 4096 * wf (s.fmtWord r 0) 39 0)
    ((List.range ((o + 511) / 5 - o / 5 + 1)).filter
      (fun i => decide (243 ≤ (s.rawByte (pack + o / 5 + i)).toNat))).length
  else 0

/-- The home slice fills line `ln` from HBM, if it does not hold it: the line is decoded, and each bad T5 byte that it is
decoded from is counted (R164). -/
def State.fillLine (s : State) (ln : Nat) : State :=
  match s.fmtAt (128 * ln) with
  | none => s
  | some r =>
    match s.heldLine ln with
    | some _ => s
    | none =>
      let n := s.badT5 r (128 * ln)
      let s1 : State := { s with l2 := s.l2.ins ln ((List.range 128).map (fun i => s.decoded r (128 * ln + i))) }
      if n = 0 then s1 else s1.countErrs 2 n

/-- The lines of the `n` bytes from `pa` that lie in enabled ranges are in the L2 after a read of them. -/
def State.fillLines (s : State) (pa n : Nat) : State :=
  if s.formats = [] then s
  else (List.range ((pa + n - 1) / 128 - pa / 128 + 1)).foldl (fun s i => s.fillLine (pa / 128 + i)) s

/-- A storage-format register is written: the L2 lines in the old and the new range are invalidated (R163). -/
def State.dropLines (s : State) (base limit : Nat) : State :=
  { s with l2 := s.l2.filter (fun p => !(decide (base ≤ p.1 / 32) && decide (p.1 / 32 ≤ limit))) }

/-! ## The fixed windows (R153) -/

def winLocal : Nat := 0x01FFFF0000000000
def winMulticast : Nat := 0x01FFFF0020000000
def winBasin : Nat := 0x01FFFF0040000000
def winFault : Nat := 0x01FFFF0060000000
def winFaultEnd : Nat := 0x01FFFF0060010000
def vaEnd : Nat := 2 ^ 57

/-- Physical address of the local store of physical core `c` (R154). -/
def paLocal (c : Nat) : Nat := 0x2000000000000 + c * 2 ^ 21
/-- Physical address of the basin carve-out of die `d` (R154). -/
def paBasin (d : Nat) : Nat := 0x1000000000000 + d * 2 ^ 27
/-- The backing of the fault-record window of context `c`: pinned memory whose place the spec leaves to firmware; the
model keeps it outside the mapped regions (log entry 3). -/
def paFault (c : Nat) : Nat := 0x3000000000000 + c * 2 ^ 16

/-- Where the save area of logical core `k` holds its record (PRESUMED: the spec does not say where; log entry 37). -/
def paSave (k : Nat) : Nat := 0x3100000000000 + k * 2 ^ 15

/-- The kind of an access. -/
inductive Access where
  | load
  | store
  | fetch
  deriving DecidableEq, Repr

/-- The result of an access: it may proceed, it fails with a cause at an address (`table`: a page-table error that is also
reported, R154), or it waits for local-store page `p` of logical core `k` (R157). -/
inductive Acc (α : Type) where
  | ok (a : α)
  | fault (cause : Nat) (addr : Word) (table : Bool)
  | wait (k p : Nat)

def Acc.bind {α β : Type} (x : Acc α) (f : α → Acc β) : Acc β :=
  match x with
  | .ok a => f a
  | .fault c a t => .fault c a t
  | .wait k p => .wait k p

def Acc.map {α β : Type} (x : Acc α) (f : α → β) : Acc β := x.bind (fun a => .ok (f a))

/-! ### Page walk (R166, R167) -/

/-- The 8-byte entry at `pa`, as the L2 gives it. -/
def State.entry (s : State) (pa : Nat) : Word := toW (ofBytes (s.physBytes pa 8))

/-- What a walk ends in. -/
inductive Walk where
  /-- The leaf's address, its value, and the size of its page as a power of two. -/
  | leaf (at_ : Nat) (e : Word) (size : Nat)
  | fault (cause : Nat)
  deriving DecidableEq, Repr

/-- Reserved bits of an entry: 63:60, 55:52, 11:9 and 1. -/
def pteReserved (e : Word) : Bool :=
  wf e 63 60 != 0 || wf e 55 52 != 0 || wf e 11 9 != 0 || wbit e 1

/-- Fields that a non-leaf entry must hold as zero: LE, PN, ATTR, S64, D, A, X, W, Ra. -/
def pteNonLeafBad (e : Word) : Bool := wf e 59 56 != 0 || wbit e 8 || wf e 6 2 != 0

/-- A leaf's own rules at page size 2^`size`. -/
def pteLeafBad (e : Word) (size : Nat) : Bool :=
  (wbit e 8 && size != 12) || wf e 57 56 ≥ 2
    || (if wbit e 8 then wf e 15 12 != 0 else wf e 51 12 * 4096 % 2 ^ size != 0)

/-- The walk from the table at `base`; `lv` levels remain below the first one looked up. The spec gives both PAGE-FAULT
for V = 0 and PROTECTION for a nonzero reserved bit, and no order for an entry that has both: here V = 0 comes first (log
entry 44). -/
def State.walkFrom (s : State) (va : Nat) : Nat → Nat → Walk
  | lv, base =>
    let (hi, lo) := match lv with
      | 3 => (56, 44)
      | 2 => (43, 30)
      | 1 => (29, 21)
      | _ => (20, 12)
    let at_ := base + 8 * fld va hi lo
    let e := s.entry at_
    if !wbit e 0 then .fault cPageFault
    else if pteReserved e then .fault cProtection
    else if wbit e 7 then
      if lv = 3 ∨ pteLeafBad e lo then .fault cProtection else .leaf at_ e lo
    else
      match lv with
      | 0 => .fault cProtection
      | lv' + 1 => if pteNonLeafBad e then .fault cProtection else s.walkFrom va lv' (wf e 51 12 * 4096)

/-- The context's walk for `va`. -/
def State.walk (s : State) (ctx : Nat) (va : Nat) : Walk :=
  match s.ctxs.at? ctx with
  | none => .fault cPageFault
  | some c => s.walkFrom va 3 c.ptroot

/-- The physical address of `va` under a leaf. -/
def leafPa (e : Word) (size va : Nat) : Nat :=
  if wbit e 8 then wf e 51 12 * 4096 + va % 65536 else wf e 51 12 * 4096 + va % 2 ^ size

/-- A page may map HBM and host memory only (R154). -/
def mappable (pa : Nat) : Bool := decide (pa < 2 ^ 39) || decide (0x4000000000000 ≤ pa ∧ pa < 0x8000000000000)

/-! ### Local store (R157) -/

def LCore.lsEntry (l : LCore) (v : Nat) : BitVec 16 := l.lsmap.atD v 0
def LCore.lsAllotted (l : LCore) (v : Nat) : Bool := (l.lsEntry v).getLsbD 15
def LCore.lsPresent (l : LCore) (v : Nat) : Bool := (l.lsEntry v).getLsbD 14
def LCore.lsPage (l : LCore) (v : Nat) : Nat := (l.lsEntry v).toNat % 128

/-- The physical core that holds a logical core's present pages. -/
def LCore.core (l : LCore) : Nat :=
  match l.loc with
  | .banked c => c
  | .spilled c => c
  | .frozen => 0

/-! ### Basin (R161) -/

def Ctx.grantBase (c : Ctx) (d : Nat) : Nat := c.grants.atD (2 * d) 0
def Ctx.grantSize (c : Ctx) (d : Nat) : Nat := c.grants.atD (2 * d + 1) 0

/-- Where a byte of the virtual address space is. -/
inductive Place where
  /-- A physical address; through the leaf at `leaf` when one was walked. -/
  | phys (pa : Nat) (leaf : Option Nat)
  /-- The terrace multicast window, at offset `w`. -/
  | multicast (w : Nat)
  deriving DecidableEq, Repr

/-- Where an access of logical core `k` (context `ctx`) to the byte at `va` goes: the checks 2 to 4 of the tables of R82,
R112, R210 and R251. -/
def State.place (s : State) (ctx k : Nat) (how : Access) (va : Nat) : Acc Place :=
  if va ≥ vaEnd then .fault cProtection (toW va) false
  else if va < winLocal then
    match s.walk ctx va with
    | .fault c => .fault c (toW va) false
    | .leaf at_ e size =>
      let pa := leafPa e size va
      if !mappable pa then .fault cProtection (toW va) true
      else if (match how with
        | .load => wbit e 2
        | .store => wbit e 3
        | .fetch => wbit e 4) then .ok (.phys pa (some at_))
      else .fault cProtection (toW va) false
  else if how = .fetch then .fault cProtection (toW va) false
  else if va < winLocal + 2 ^ 21 then
    match s.lcores.at? k with
    | none => .fault cPageFault (toW va) false
    | some l =>
      let o := va - winLocal
      let v := o / 16384
      if !l.lsAllotted v then .fault cPageFault (toW va) false
      else if !l.lsPresent v then .wait k v
      else .ok (.phys (paLocal l.core + l.lsPage v * 16384 + o % 16384) none)
  else if va < winMulticast then .fault cProtection (toW va) false
  else if va < winBasin then
    match how with
    | .store => .ok (.multicast (va - winMulticast))
    | _ => .fault cProtection (toW va) false
  else if va < winFault then
    match s.ctxs.at? ctx with
    | none => .fault cProtection (toW va) false
    | some c =>
      let o := va - winBasin
      let d := o / 2 ^ 27
      if o % 2 ^ 27 < c.grantSize d then .ok (.phys (paBasin d + c.grantBase d + o % 2 ^ 27) none)
      else .fault cProtection (toW va) false
  else if va < winFaultEnd then
    match how with
    | .load => .ok (.phys (paFault ctx + (va - winFault)) none)
    | _ => .fault cProtection (toW va) false
  else .fault cProtection (toW va) false

/-! ### The range table (10_consistency.md R201, 17_collectives.md R314) -/

/-- Entry `r` of the context's range table overlaps the `n` bytes from `va`. -/
def Ctx.rangeHits (c : Ctx) (va n r : Nat) : Bool :=
  let base := wf (c.ranges.atD (3 * r + 1) 0) 56 0
  let len := wf (c.ranges.atD (3 * r + 2) 0) 40 0
  wbit (c.ranges.atD (3 * r) 0) 63 && decide (0 < len ∧ va < base + len ∧ base < va + n)

/-- The accessed bytes overlap a range listed in the context's range table. -/
def State.inRange (s : State) (ctx va n : Nat) : Bool :=
  match s.ctxs.at? ctx with
  | none => false
  | some c => if c.ranges = [] then false else (List.range 64).any (c.rangeHits va n)

/-! ### Accessed, dirty and the dirty log (R167, R170, R171) -/

/-- Set bits of a page-table entry in memory. -/
def State.orEntry (s : State) (at_ : Nat) (v : Nat) : State :=
  s.setRaws at_ (bytesOf 8 ((s.entry at_).toNat ||| v))

/-- Append the log entry for the page of `va`, or set OVF when the ring is full (R170, R171). The control block and the
ring are reached through the context's translation; a part that cannot be reached is left alone. -/
def State.logWrite (s : State) (ctx va size : Nat) (s64 : Bool) : State :=
  match s.ctxs.at? ctx with
  | none => s
  | some c =>
    match s.place ctx 0 .load c.dlPtr with
    | .ok (.phys cb _) =>
      let base := ofBytes (s.physBytes cb 8)
      let head := ofBytes (s.physBytes (cb + 8) 4)
      let tail := ofBytes (s.physBytes (cb + 12) 4)
      let log2n := (s.physByte (cb + 16)).toNat
      let flags := (s.physByte (cb + 17)).toNat
      if flags % 2 = 1 then s
      else if (head + 2 ^ 32 - tail) % 2 ^ 32 = 2 ^ log2n then s.setPhys (cb + 17) (BitVec.ofNat 8 (flags + 1))
      else
        match s.place ctx 0 .load (base + 8 * (head % 2 ^ log2n)) with
        | .ok (.phys slot _) =>
          let sz := if size = 30 then 2 else if size = 21 then 1 else 0
          let vpn := if s64 then va / 4096 else va / 2 ^ size * 2 ^ size / 4096
          let s := s.setPhyss slot (bytesOf 8 (sz * 2 ^ 62 + vpn))
          s.setPhyss (cb + 8) (bytesOf 4 (head + 1))
        | _ => s
    | _ => s

/-- The sync-object table of the context, whose contents are not logged (18_context_image.md R332). -/
def Ctx.inSotab (c : Ctx) (va : Nat) : Bool := decide (c.sotab ≤ va ∧ va < c.sotab + 131072)

/-- The marks that an access through a leaf leaves: A, and on a write D and, while the dirty log is armed and the leaf's
epoch differs, LE and a log entry (R167, R170). -/
def State.markLeaf (s : State) (ctx : Nat) (how : Access) (va at_ : Nat) : State :=
  let e := s.entry at_
  match how with
  | .store =>
    match s.ctxs.at? ctx with
    | none => s
    | some c =>
      let s1 := s.orEntry at_ 96
      if c.dlArmed && (wbit e 59 != c.dlE) && !c.inSotab va then
        let e1 := s1.entry at_
        let s2 := s1.setRaws at_ (bytesOf 8 (setFld e1 59 59 (if c.dlE then 1 else 0)).toNat)
        match s.walk ctx va with
        | .leaf _ l size => s2.logWrite ctx va size (wbit l 8)
        | .fault _ => s2
      else s1
  | _ => s.orEntry at_ 32

/-! ### Ranges of bytes -/

/-- A byte run inside one 4 KiB block: its virtual address, its place, and its length. -/
structure Run where
  va : Nat
  place : Place
  len : Nat
  deriving DecidableEq, Repr

/-- The run lies in memory, not in the terrace multicast window. -/
def Run.isPhys (r : Run) : Bool :=
  match r.place with
  | .phys _ _ => true
  | .multicast _ => false

/-- Some byte of a basin run lies beyond the grant (the grant ends inside the block): the run's first such address. -/
def State.basinEnd (s : State) (ctx : Nat) (r : Run) : Option Nat :=
  if winBasin ≤ r.va ∧ r.va < winFault then
    match s.ctxs.at? ctx with
    | none => none
    | some c =>
      let o := r.va - winBasin
      let x := o % 2 ^ 27
      let size := c.grantSize (o / 2 ^ 27)
      if x + r.len ≤ size then none else some (r.va + (size - x))
  else none

/-- The places of the `n` bytes from `va`, split at 4 KiB blocks, in ascending order; the first failing address decides, and
an access with none waits for its first page that is not present. -/
def State.runs (s : State) (ctx k : Nat) (how : Access) : Nat → Nat → Nat → Acc (List Run)
  | 0, _, _ => .ok []
  | fuel + 1, va, n =>
    if n = 0 then .ok []
    else
      let m := min n (4096 - va % 4096)
      match s.place ctx k how va with
      | .fault c a t => .fault c a t
      | .wait j p =>
        match s.runs ctx k how fuel (va + m) (n - m) with
        | .fault c a t => .fault c a t
        | _ => .wait j p
      | .ok p =>
        match s.basinEnd ctx ⟨va, p, m⟩ with
        | some a => .fault cProtection (toW a) false
        | none => (s.runs ctx k how fuel (va + m) (n - m)).bind (fun rs => .ok (⟨va, p, m⟩ :: rs))

/-- Check 5, after the checks that gave `x`: the `n` bytes from `va` overlap a listed range (R82). A wait for a page is no
fault, and comes after it. -/
def State.ranged {α : Type} (s : State) (ctx va n : Nat) (x : Acc α) : Acc α :=
  match x with
  | .fault c a t => .fault c a t
  | _ => if s.inRange ctx va n then .fault cCollectiveRange (toW va) false else x

/-- The runs of an access, all checks 2 to 5 made: virtual range, translation, permission, range table. -/
def State.access (s : State) (ctx k : Nat) (how : Access) (va n : Nat) : Acc (List Run) :=
  s.ranged ctx va n (s.runs ctx k how (n / 4096 + 2) va n)

/-- The bytes of a run. -/
def State.runBytes (s : State) (r : Run) : List Byte :=
  match r.place with
  | .phys pa _ => s.physBytes pa r.len
  | .multicast _ => List.replicate r.len 0

def State.runsBytes (s : State) (rs : List Run) : List Byte := rs.flatMap s.runBytes

/-- The lines that a read of these runs decodes are filled; the next read finds other lines evicted. -/
def State.fillRuns (s : State) (rs : List Run) : State :=
  if s.formats = [] then s
  else
    let t := rs.foldl (fun s r =>
      match r.place with
      | .phys pa _ => s.fillLines pa r.len
      | .multicast _ => s) s
    { t with free := t.free + 1 }

/-- The marks a read leaves: A in the leaves it walked, and the decoded lines in the L2. The spec does not say whether a walk
that ends in a fault of the page's permission sets A: here A is set only when the access proceeds (log entry 44). -/
def State.readMarks (s : State) (ctx : Nat) (rs : List Run) : State :=
  rs.foldl (fun s r =>
    match r.place with
    | .phys _ (some at_) => s.markLeaf ctx .load r.va at_
    | _ => s) (s.fillRuns rs)

/-- The marks a write leaves, before its bytes are visible. -/
def State.writeMarks (s : State) (ctx : Nat) (rs : List Run) : State :=
  rs.foldl (fun s r =>
    match r.place with
    | .phys _ (some at_) => s.markLeaf ctx .store r.va at_
    | _ => s) s

/-- Put bytes into runs, in order. -/
def State.putRuns (s : State) : List Run → List Byte → State
  | [], _ => s
  | r :: rs, bs =>
    let s1 := match r.place with
      | .phys pa _ => s.setPhyss pa (bs.take r.len)
      | .multicast _ => s
    s1.putRuns rs (bs.drop r.len)

/-- Read `n` bytes from `va`: the bytes and the state with the marks of the read. -/
def State.readVa (s : State) (ctx k va n : Nat) : Acc (List Byte × State) :=
  (s.access ctx k .load va n).map (fun rs => (s.runsBytes rs, s.readMarks ctx rs))

/-- Write bytes from `va` (no multicast). -/
def State.writeVa (s : State) (ctx k va : Nat) (bs : List Byte) : Acc State :=
  s.ranged ctx va bs.length <| (s.runs ctx k .store (bs.length / 4096 + 2) va bs.length).bind (fun rs =>
    match rs.find? (fun r => match r.place with
      | .multicast _ => true
      | .phys _ _ => false) with
    | some r => .fault cProtection (toW r.va) false
    | none => .ok ((s.writeMarks ctx rs).putRuns rs bs))

/-! ### Terrace multicast (R158, R159) -/

/-- The key of a logical core. -/
def lcKey (node lcid : Nat) : Nat := node * 65536 + lcid

/-- The targets of a store of `n` bytes of logical core `k` whose window offset has the mask of `w` and the window offset
`off`: their keys, or the cause of the fault and where in the store its first failing byte is. The spec does not say which of
PROTECTION (a target at or beyond L) and PAGE-FAULT (another target whose page is not allotted) is reported when a store has
both: here PROTECTION (log entry 44). -/
def State.mcTargets (s : State) (k w off n : Nat) : Except (Nat × Nat) (List Nat) :=
  match s.lcores.at? k with
  | none => .error (cPageFault, 0)
  | some l =>
    let mask := fld w 28 21
    let ts := ((List.range 8).filter (fun b => mask.testBit b)).map (fun b => 8 * (l.lcid / 8) + b)
    let team := (l.launch.atD 2 0).toNat
    let keys := ts.map (lcKey l.node)
    let all (v : Nat) : Bool := keys.all (fun t => match s.lcores.at? t with
      | some lt => lt.lsAllotted v
      | none => false)
    if ts.any (fun t => decide (team ≤ t)) then .error (cProtection, 0)
    else if !all (off / 16384) then .error (cPageFault, 0)
    else if !all ((off + n - 1) / 16384) then .error (cPageFault, 16384 - off % 16384)
    else .ok keys

/-- The contents of a local-store page before its first assignment, at `pa`: undefined (18_context_image.md R329). -/
def freshPage (n pa : Nat) : SMap Byte :=
  (List.range 16384).filterMap (fun o => if Config.pageByte n o = 0 then none else some (pa + o, Config.pageByte n o))

/-- Land one byte of a multicast in a target: in its present page, or in its saved copy. -/
def State.mcByte (s : State) (k off : Nat) (b : Byte) : State :=
  match s.lcores.at? k with
  | none => s
  | some l =>
    let v := off / 16384
    if l.lsPresent v then s.setRaw (paLocal l.core + l.lsPage v * 16384 + off % 16384) b
    else if l.lsused.atD v false then { s with lcores := s.lcores.ins k { l with saved := l.saved.put off b 0 } }
    else
      let page := SMap.splice l.saved (16384 * v) (16384 * v + 16384) (freshPage s.free (16384 * v)) 0
      { s with
        lcores := s.lcores.ins k { l with saved := page.put off b 0, lsused := l.lsused.put v true false }
        free := s.free + 1 }

def State.mcBytes (s : State) (k off : Nat) : List Byte → State
  | [] => s
  | b :: bs => (s.mcByte k off b).mcBytes k (off + 1) bs

/-- Land a multicast in the targets `ks`. -/
def State.mcLandIn (s : State) (m : Multicast) (ks : List Nat) : State :=
  ks.foldl (fun s k => s.mcBytes k m.off m.bytes) s

/-- Land a multicast in every target, in one core cycle. -/
def State.mcLand (s : State) (m : Multicast) : State := s.mcLandIn m m.targets

/-- The order of landing: by cycle, and in one cycle by the writer's LCOREID, the highest last (10_consistency.md R199). -/
def Multicast.before (e m : Multicast) : Bool :=
  decide (e.at_ < m.at_) || (e.at_ == m.at_ && decide (e.writer % 65536 ≤ m.writer % 65536))

def mcInsert (m : Multicast) : List Multicast → List Multicast
  | [] => [m]
  | e :: r => if e.before m then e :: mcInsert m r else m :: e :: r

/-- Target `t` holds the page of offset `off` in the local store of terrace `x`. -/
def State.mcHolds (s : State) (x off t : Nat) : Bool :=
  match s.lcores.at? t with
  | none => false
  | some l => l.lsPresent (off / 16384) && l.core / 8 == x && l.loc != .frozen

/-- A multicast store reaches targets whose page is not in the writer's terrace, `m.targets`: at once, so that each observes
it before its next instruction (R159, R336). What is in flight to that page lands in them first, and the bytes of a higher
LCOREID's store of the same cycle stay on top (10_consistency.md R199). -/
def State.mcSaved (s : State) (m : Multicast) : State :=
  let same (e : Multicast) : Bool := e.off / 16384 == m.off / 16384
  let s1 := s.multicasts.foldl (fun s e => if same e then s.mcLandIn e (e.targets.filter m.targets.contains) else s) s
  let s2 := { s1 with
    multicasts := s1.multicasts.map (fun e =>
      if same e then { e with targets := e.targets.filter (fun t => !m.targets.contains t) } else e) }
  let s3 := (mcInsert m (s2.mcWeak.filter (fun e => m.before e && !(e.before m)))).foldl
    (fun s e => s.mcLandIn e (e.targets.filter m.targets.contains)) s2
  { s3 with mcWeak := mcInsert m s3.mcWeak }

/-- Issue the part of a multicast store that lies in one page: it lands 12 core cycles later in the targets that hold the
page in the writer's terrace, and reaches the others before their next instruction (R159). -/
def State.mcIssuePage (s : State) (k : Nat) (ce : Bool) (targets : List Nat) (off : Nat) (bs : List Byte) : State :=
  let x := match s.lcores.at? k with
    | some l => l.core / 8
    | none => 0
  let weak := targets.filter (fun t => !s.mcHolds x off t)
  let s1 := if weak = [] then s else s.mcSaved ⟨s.ticks, k, ce, weak, off, bs⟩
  { s1 with
    multicasts := mcInsert ⟨s.ticks + 12, k, ce, targets.filter (s.mcHolds x off), off, bs⟩ s1.multicasts }

/-- Issue a multicast store of logical core `k`, by its streams or by its copy engine (`ce`). -/
def State.mcIssue (s : State) (k : Nat) (ce : Bool) (targets : List Nat) (off : Nat) (bs : List Byte) : State :=
  let m := 16384 - off % 16384
  let s1 := s.mcIssuePage k ce targets off (bs.take m)
  if bs.length ≤ m then s1 else s1.mcIssuePage k ce targets (off + m) (bs.drop m)

end Sys2Proof.Machine
end

