-- ==== Sys2Proof/Machine/Ops.lean ====
section
/-! DEFINITION. The operations that instructions share: which stream runs, registers and queues, the rill, issue and
retirement, and taking a trap and returning from it (04_scalar.md R74 to R76, 13_streams.md R241, 07_traps.md). -/

namespace Sys2Proof.Machine

/-- The outcome of a step. -/
abbrev Out := Host.Outcome State Fault Refusal

/-! ## Parts of the state -/

def State.lcAt (s : State) (k : Nat) : LCore := (s.lcores.at? k).getD LCore.fresh
def State.setLc (s : State) (k : Nat) (l : LCore) : State := { s with lcores := s.lcores.ins k l }
def State.coreAt (s : State) (c : Nat) : PCore := (s.cores.at? c).getD PCore.fresh
def State.setCore (s : State) (c : Nat) (p : PCore) : State := { s with cores := s.cores.ins c p }
def State.slAt (s : State) (n : Nat) : Sluice := (s.sluices.at? n).getD Sluice.fresh
def State.setSl (s : State) (n : Nat) (x : Sluice) : State := { s with sluices := s.sluices.ins n x }
def State.ctxAt (s : State) (c : Nat) : Ctx := (s.ctxs.at? c).getD Ctx.fresh
def State.setCtx (s : State) (c : Nat) (x : Ctx) : State := { s with ctxs := s.ctxs.ins c x }
def State.report (s : State) (r : Report) : State := { s with reports := s.reports ++ [r] }
def State.verdict (s : State) (v : Verdict) : State := { s with cur := { s.cur with verdict := v } }

/-- A stream of a logical core. -/
def LCore.strm (l : LCore) (ep : Bool) : Strm := if ep then l.ep else l.ap
def LCore.setStrm (l : LCore) (ep : Bool) (x : Strm) : LCore := if ep then { l with ep := x } else { l with ap := x }

/-! ## Whose instruction runs -/

/-- The stream whose instruction runs: a stream of logical core `k` on physical core `c`, or Sluice core `n`. -/
inductive Who where
  | core (ep : Bool) (c k : Nat)
  | sluice (n : Nat)
  deriving DecidableEq, Repr

def State.who (s : State) : Option Who :=
  match s.cur.agent with
  | some (.ap c) => (s.coreAt c).active.map (Who.core false c)
  | some (.ep c) => (s.coreAt c).active.map (Who.core true c)
  | some (.sluice n) => some (.sluice n)
  | none => none

/-- Run a meaning on the stream the cursor selects. -/
def State.onStream (s : State) (f : Who → State) : Out :=
  match s.who with
  | some w => .next (f w)
  | none => .fault .noStream

/-- TSTATUS.TM or SSTATUS.TM. -/
def LCore.trapMode (l : LCore) : Bool := wbit l.tstatus 0
def Sluice.trapMode (x : Sluice) : Bool := wbit x.sstatus 0

/-- The AP of the stream's logical core runs its handler, or the Sluice core does. -/
def State.inTrap (s : State) (w : Who) : Bool :=
  match w with
  | .core false _ k => (s.lcAt k).trapMode
  | .core true _ _ => false
  | .sluice n => (s.slAt n).trapMode

/-! ## Registers and queues (R59, R239) -/

def LCore.queue (l : LCore) (n : Nat) : List Word := l.qs.atD n []
def LCore.setQueue (l : LCore) (n : Nat) (q : List Word) : LCore := { l with qs := l.qs.put n q [] }

/-- Register `n` of a stream, as an operand: g0 is zero, 24 to 31 show the head of their queue. -/
def LCore.reg (l : LCore) (ep : Bool) (n : Nat) : Word :=
  if n = 0 then 0
  else if n < 24 then (l.strm ep).regs.atD n 0
  else (l.queue (n - 24)).headD 0

/-- Write register `n` of a stream: g0 discards, 24 to 31 push. -/
def LCore.setReg (l : LCore) (ep : Bool) (n : Nat) (v : Word) : LCore :=
  if n = 0 then l
  else if n < 24 then l.setStrm ep { l.strm ep with regs := (l.strm ep).regs.put n v 0 }
  else l.setQueue (n - 24) (l.queue (n - 24) ++ [v])

/-- Pop the queues that the source registers name. -/
def LCore.pops (l : LCore) (srcs : List Nat) : LCore :=
  { l with qs := srcs.foldl (fun qs n => if n < 24 then qs else qs.put (n - 24) (qs.atD (n - 24) []).tail []) l.qs }

def Sluice.reg (x : Sluice) (n : Nat) : Word := if n = 0 then 0 else x.regs.atD n 0
def Sluice.setReg (x : Sluice) (n : Nat) (v : Word) : Sluice := if n = 0 then x else { x with regs := x.regs.put n v 0 }

/-- The value of a source register of the running stream. -/
def State.src (s : State) (w : Who) (n : Nat) : Word :=
  match w with
  | .core ep _ k => (s.lcAt k).reg ep n
  | .sluice i => (s.slAt i).reg n

/-- Write a destination register of the running stream. -/
def State.dst (s : State) (w : Who) (n : Nat) (v : Word) : State :=
  match w with
  | .core ep _ k => s.setLc k ((s.lcAt k).setReg ep n v)
  | .sluice i => s.setSl i ((s.slAt i).setReg n v)

/-- Pop the queues among the source registers of the running stream. -/
def State.pops (s : State) (w : Who) (srcs : List Nat) : State :=
  match w with
  | .core _ _ k => s.setLc k ((s.lcAt k).pops srcs)
  | .sluice _ => s

/-- A copy or gather command owes register `n` its status (R60). -/
def LCore.tokenPending (l : LCore) (n : Nat) : Bool :=
  n != 0 &&
  ((match l.ceFifo with
    | [] => false
    | h :: t => (h.token == n && !l.ceProg.done) || t.any (fun c => c.token == n)) ||
   (match l.geFifo with
    | [] => false
    | h :: t => (h.token == n && !l.geProg.done) || t.any (fun c => c.token == n)) ||
   (match l.ceHeld with
    | some (r, _) => r == n
    | none => false) ||
   (match l.geHeld with
    | some (r, _) => r == n
    | none => false))

/-! ## The rill (R15, R241): positions A 0, C 1, M 2, R 3, V 4; queues in the order of the fault record -/

def posA : Nat := 0
def posC : Nat := 1
def posM : Nat := 2
def posR : Nat := 3
def posV : Nat := 4

/-- The queue that WP takes from at position `p`. -/
def qWp (p : Nat) : Nat := (p + 4) % 5
/-- The queue that WN takes from. -/
def qWn (p : Nat) : Nat := 5 + p
/-- The queue that SP gives to. -/
def qSp (p : Nat) : Nat := 5 + (p + 4) % 5
/-- The queue that SN gives to. -/
def qSn (p : Nat) : Nat := p

def LCore.tokens (l : LCore) (n : Nat) : Nat := l.rill.atD n 0
/-- Add a token to queue `n`, and take one from it. -/
def addToken (m : SMap Nat) (n : Nat) : SMap Nat := m.put n (m.atD n 0 + 1) 0
def subToken (m : SMap Nat) (n : Nat) : SMap Nat := m.put n (m.atD n 0 - 1) 0

/-- What keeps the waits of `q` at position `p` from being taken. -/
def LCore.rillWait (l : LCore) (p : Nat) (q : Rill) : Option StallOn :=
  if q.wp ∧ l.tokens (qWp p) = 0 then some .rillPrev
  else if q.wn ∧ l.tokens (qWn p) = 0 then some .rillNext
  else none

/-- A signal of `q` at position `p` finds its queue full. -/
def LCore.rillFull (l : LCore) (p : Nat) (q : Rill) : Bool :=
  (q.sp && decide (8 ≤ l.tokens (qSp p))) || (q.sn && decide (8 ≤ l.tokens (qSn p)))

def LCore.rillTake (l : LCore) (p : Nat) (q : Rill) : LCore :=
  { l with rill :=
      let m := if q.wp then subToken l.rill (qWp p) else l.rill
      if q.wn then subToken m (qWn p) else m }

def LCore.rillGive (l : LCore) (p : Nat) (q : Rill) : LCore :=
  { l with rill :=
      let m := if q.sp then addToken l.rill (qSp p) else l.rill
      if q.sn then addToken m (qSn p) else m }

/-- The position at which a stream's own words act. -/
def posOf (ep : Bool) : Nat := if ep then posV else posA

/-! ## Counters of the logical core (19_counters.md R348) -/

/-- Count `n` events of code `code` in the counters that select it. -/
def LCore.count (l : LCore) (code n : Nat) : LCore :=
  { l with pcs :=
      if l.pcsel = 0 then l.pcs
      else (List.range 8).foldl (fun m i =>
        if wf l.pcsel (8 * i + 7) (8 * i) = code then m.put i (m.atD i 0 + toW n) 0 else m) l.pcs }

/-! ## The fault record (07_traps.md R141, R142) -/

/-- A status word of Table 3 of 07_traps.md. -/
def statusWord (pend : Option Nat) (stop waited : Bool) (occ prog : Nat) : Nat :=
  (match pend with
    | some c => c * 2 ^ 56 + 2 ^ 55
    | none => 0)
  + (if stop then 2 ^ 54 else 0) + (if waited then 2 ^ 53 else 0) + occ % 32 * 2 ^ 48 + prog % 2 ^ 48

/-- The status word of an engine: zero in every field but OCC when it is idle. -/
def engineWord (pend : Option Nat) (first : Bool) (occ : Nat) (p : Progress) : Nat :=
  statusWord pend (decide (occ ≠ 0) && (first || p.waited || p.started)) p.waited occ p.count

def PCore.spillpos (p : PCore) : Nat :=
  (if p.held then 2 ^ 63 else 0) + (if p.busy then 2 ^ 62 else 0) + p.offset % 2 ^ 32

/-- The first 64 bytes of the record: version to LCOREID. The fault was detected in cycle `at_`, and the units have stopped now. -/
def State.recordHead (s : State) (c k : Nat) (t : TrapInfo) (at_ : Word) (flags : Nat) : List Byte :=
  let l := s.lcAt k
  bytesOf 2 0x0100 ++ (bytesOf 1 t.cause ++ (bytesOf 1 t.unit ++ (bytesOf 1 t.syl ++ (bytesOf 1 flags ++ (bytesOf 2 c
  ++ (bytesOf 8 at_.toNat ++ (bytesOf 8 s.cycle.toNat
  ++ (bytesOf 8 l.apResume.toNat ++ (bytesOf 8 l.epResume.toNat
  ++ (bytesOf 8 t.epc.toNat ++ (bytesOf 8 t.addr.toNat ++ (bytesOf 4 l.lcid ++ bytesOf 4 0))))))))))))

/-- The status words of the record, and its reserved word after them. The EP has stopped inside its bundle also when a part of
its vector syllable is done. -/
def State.recordStatus (s : State) (k : Nat) (t : TrapInfo) : List Byte :=
  let l := s.lcAt k
  let pd (u : Nat) : Option Nat := l.pend.at? u
  let streamWord (ep : Bool) (u : Nat) : Nat :=
    statusWord none ((l.strm ep).stall.isSome || t.unit == u || (ep && (l.vdone != 0 || t.strm && (t.unit == 2 || t.cause == cIllegal))))
      false 0 0
  let own (u : Nat) : Bool := t.unit == u && !(t.cause == cIllegal && t.strm)
  let vword := statusWord (pd 2) (t.unit == 2 || wbit l.vprog 63) false 0 (wf l.vprog 31 0)
  bytesOf 8 (streamWord false 0) ++ bytesOf 8 (streamWord true 1) ++ bytesOf 8 vword
  ++ bytesOf 8 (engineWord (pd 3) (own 3) l.mxFifo.length l.mxProg)
  ++ bytesOf 8 (engineWord (pd 4) (own 4) l.rtFifo.length l.rtProg)
  ++ bytesOf 8 (engineWord (pd 5) (own 5) l.ceFifo.length l.ceProg)
  ++ bytesOf 8 (engineWord (pd 6) (own 6) l.geFifo.length l.geProg)
  ++ bytesOf 8 0

/-- The record from offset 0x80 on: occupancies, rings, tokens and the progress registers. -/
def State.recordRest (s : State) (c k : Nat) : List Byte :=
  let l := s.lcAt k
  (List.range 8).flatMap (fun n => bytesOf 1 (l.queue n).length) ++ bytesOf 1 l.cq.length ++ bytesOf 7 0
  ++ (List.range 16).flatMap (fun n =>
      let r := (l.rings.atD n 0).toNat
      bytesOf 2 (fld r 47 32) ++ bytesOf 2 (fld r 79 64))
  ++ (List.range 5).flatMap (fun n => bytesOf 1 (l.tokens (2 * n) + 16 * l.tokens (2 * n + 1))) ++ bytesOf 3 0
  ++ bytesOf 8 l.vprog.toNat ++ bytesOf 8 l.mxrow.toNat ++ bytesOf 8 (s.coreAt c).spillpos ++ bytesOf 8 l.fpmode.toNat
  ++ bytesOf 8 0

/-- The composite fault record (Table 2 of 07_traps.md). -/
def State.faultRecord (s : State) (c k : Nat) (t : TrapInfo) (at_ : Word) (nested pinning : Bool) : List Byte :=
  let flags := (if nested then 1 else 0) + (if (s.lcAt k).pend = [] then 0 else 4) + (if pinning then 8 else 0)
  s.recordHead c k t at_ flags ++ (s.recordStatus k t ++ s.recordRest c k)

/-- Write the record of physical core `c` into the fault-record window of the logical core's context. -/
def State.writeRecord (s : State) (c k : Nat) (t : TrapInfo) (at_ : Word) (nested pinning : Bool) : State :=
  s.setRaws (paFault (s.lcAt k).ctx + 256 * c) (s.faultRecord c k t at_ nested pinning)

/-- CYCLE when the trap that is taken was detected: kept since, or now. -/
def State.detectedAt (s : State) (k : Nat) : Word :=
  if (s.lcAt k).trapReq.isSome then (s.lcAt k).trapAt else s.cycle

/-! ## Taking a trap (R138 to R147) and returning from it (R146, R149) -/

/-- TCAUSE (03_registers.md Table 7). -/
def tcauseOf (t : TrapInfo) : Word := toW (t.cause % 256 + t.unit % 256 * 256 + t.syl % 16 * 65536)

/-- The trap registers at a trap: TSTATUS.STRM and ESC, TM as before. -/
def LCore.trapRegs (l : LCore) (t : TrapInfo) : LCore :=
  { l with
    tcause := tcauseOf t
    tepc := t.epc
    taddr := t.addr
    tstatus := toW ((if t.strm then 2 else 0) + (if l.trapMode then 1 else 0)) }

/-- A vector syllable stops: its progress goes into VPROG (03_registers.md Table 6). -/
def LCore.stopVector (l : LCore) (always : Bool) : LCore :=
  if always ∨ l.vdone ≠ 0 then { l with vprog := toW (2 ^ 63 + l.vdone % 2 ^ 32), vpos := none } else l

/-- Engines that stop check their head command again when they resume. -/
def LCore.stopEngines (l : LCore) : LCore :=
  { l with
    mxProg := { l.mxProg with started := false }
    rtProg := { l.rtProg with started := false }
    ceProg := { l.ceProg with started := false }
    geProg := { l.geProg with started := false } }

/-- Pass a trap to firmware: the record is written, the logical core waits for firmware (R147). -/
def State.escalate (s : State) (k : Nat) (why : EscReason) (t : TrapInfo) : State :=
  let l := s.lcAt k
  s.setLc k { l with esc := some ⟨why, t, false⟩, trapReq := none }

/-- A logical core that stops for trap `t`: the trap registers, and outside trap mode where both streams resume. -/
def LCore.trapped (l : LCore) (t : TrapInfo) : LCore :=
  -- an ILLEGAL or VECTOR-OPERAND syllable has not begun (R210)
  let l1 := ((l.stopVector (t.unit == 2 && t.cause != cIllegal && t.cause != cVectorOperand)).trapRegs t).count 12 1
  if l.trapMode then l1 else { l1 with apResume := l1.ap.pc, epResume := l1.ep.pc, trapUnit := t.unit }

/-- Where its trap `t` leads once the record is written: to the handler when TVEC is set and no handler runs; otherwise it
escalates (R143, R147). -/
def LCore.toHandler (l : LCore) (t : TrapInfo) : LCore :=
  let m := { l.stopEngines with pend := [], trapReq := none }
  if l.trapMode then { m with esc := some ⟨.nested, t, false⟩ }
  else if l.tvec = 0 then { m with esc := some ⟨.noHandler, t, false⟩ }
  else { m with
    tstatus := m.tstatus ||| 1
    trapCycles := 0
    ap := { m.ap with pc := toW (m.tvec.toNat / 4 * 4), stall := none, stallCycles := 0 } }

/-- Take a trap of logical core `k`, active on physical core `c`: the trap registers and the fault record are written, and
the AP enters the handler or the trap escalates. -/
def State.takeTrap (s : State) (c k : Nat) (t : TrapInfo) : State :=
  let l := (s.lcAt k).trapped t
  (((s.setLc k l).writeRecord c k t (s.detectedAt k) l.trapMode false).setLc k (l.toHandler t)).verdict .trapped

/-- The trap of a Sluice core (15_sluice.md R282). -/
def State.sluiceTrap (s : State) (n cause : Nat) (epc addr : Word) : State :=
  let x := s.slAt n
  if x.trapMode ∨ x.svec.toNat / 4 = 0 then
    ((s.setSl n { x with running := false }).report (.sluice n cause)).verdict .trapped
  else
    (s.setSl n { x with
      scause := toW (cause % 256)
      sepc := epc
      staddr := addr
      sstatus := 1
      trapCycles := 0
      stall := none
      pc := toW (x.svec.toNat / 4 * 4) }).verdict .trapped

/-- The running instruction raises `cause` with TADDR `addr`; `unit` is used in the EP. -/
def State.raise (s : State) (w : Who) (unit cause : Nat) (addr : Word) : State :=
  match w with
  | .core ep c k =>
    s.takeTrap c k ⟨cause, if ep then unit else 0, if ep then s.cur.syl else 0, ep, s.cur.pc, addr⟩
  | .sluice n => s.sluiceTrap n cause s.cur.pc addr

/-- The context that a stream runs for. -/
def State.ctxOf (s : State) (w : Who) : Nat :=
  match w with
  | .core _ _ k => (s.lcAt k).ctx
  | .sluice n => (s.slAt n).ctx

/-- Report a page-table error of context `ctx`, if `table` says that it is one (08_memory.md R154). -/
def State.tableError (s : State) (table : Bool) (ctx : Nat) (addr : Word) : State :=
  if table then s.report (.pageTable ctx addr) else s

/-- Raise what an access found: a page-table error is also reported (08_memory.md R154). -/
def State.raiseAcc (s : State) (w : Who) (unit cause : Nat) (addr : Word) (table : Bool) : State :=
  (s.tableError table (s.ctxOf w) addr).raise w unit cause addr

def State.illegal (s : State) (w : Who) (unit : Nat) : State := s.raise w unit cIllegal 0

/-- Resume a logical core as `rett` does (R146). -/
def LCore.resume (l : LCore) : LCore :=
  let unit := wf l.tcause 15 8
  let strm := wbit l.tstatus 1
  let apPc := if unit ≤ 1 ∧ strm = false then l.tepc else l.apResume
  let epPc := if unit ≤ 1 ∧ strm = true ∨ unit = 2 then l.tepc else l.epResume
  let moved := epPc != l.epResume
  { l with
    tstatus := toW (l.tstatus.toNat / 2 * 2)
    ap := { l.ap with pc := apPc, stall := none, stallCycles := 0 }
    ep := { l.ep with pc := epPc, stall := none, stallCycles := 0, handed := l.ep.handed && !moved }
    vprog := if moved then 0 else l.vprog
    vdone := if moved then 0 else l.vdone
    pendV := if moved then NumStat.zero else l.pendV
    trapCycles := 0
    esc := none }

/-- The starter of a collective that a THAW elsewhere has restored: the image does not name it (log entry 34). -/
def anyStarter : Nat := 2 ^ 40

/-- A collective that logical core `k` started, of the first `bound` of its context, still runs (10_consistency.md R195,
17_collectives.md R317). One whose starter is not known may be `k`'s (R204). -/
def State.collsOf (s : State) (k bound : Nat) : Bool :=
  (s.ctxAt (s.lcAt k).ctx).colls.any (fun p =>
    (p.2.starter == k || p.2.starter == anyStarter) && p.2.state == 1 && decide (p.2.order < bound))

/-- A transfer that Sluice core `n` started itself, of its first `bound`, has not raised XFER-DONE (15_sluice.md R283). -/
def State.transfersOf (s : State) (n bound : Nat) : Bool :=
  (s.slAt n).transfers.any (fun p => p.2.coll.isNone && p.2.state == 1 && decide (p.2.order < bound))

/-- The bits of either word. -/
def Rill.or (q r : Rill) : Rill := ⟨q.wp || r.wp, q.wn || r.wn, q.sp || r.sp, q.sn || r.sn⟩

def Rill.any (q : Rill) : Bool := q.wp || q.wn || q.sp || q.sn

/-! ## Issue (R34, R46, R75, R76, R144) -/

/-- What an instruction asks of its stream: its rill bits, its bit 27, where it is valid, its registers. -/
structure Use where
  q : Rill
  e : Bool
  ap : Bool
  ep : Bool
  sl : Bool
  srcs : List Nat
  dsts : List Nat
  /-- Valid while a handler runs in the AP (R144). -/
  inTrap : Bool
  /-- The unit that carries the syllable out in the EP. -/
  unit : Nat

/-- What issue answers. -/
inductive Issue where
  | go
  | illegal
  | stall (why : StallOn)
  deriving DecidableEq, Repr

/-- A queue is named twice among the registers. -/
def namedTwice : List Nat → Bool
  | [] => false
  | n :: r => (decide (24 ≤ n) && r.contains n) || namedTwice r

/-- The directions of Table 4 of 02_encoding.md, and no queue named as a source twice. -/
def badQueueUse (ep : Bool) (srcs dsts : List Nat) : Bool :=
  (if ep then srcs.any (fun n => decide (30 ≤ n)) || dsts.any (fun n => decide (24 ≤ n ∧ n < 30))
   else srcs.any (fun n => decide (24 ≤ n ∧ n < 30)) || dsts.any (fun n => decide (30 ≤ n)))
  || namedTwice srcs || namedTwice dsts

/-- What keeps a stream's register operands from being taken. -/
def LCore.operandStall (l : LCore) (ep : Bool) (srcs dsts : List Nat) : Option StallOn :=
  if !ep && (srcs ++ dsts).any l.tokenPending then some .token
  else
    match srcs.find? (fun n => decide (24 ≤ n) && (l.queue (n - 24)).isEmpty) with
    | some n => some (.queueEmpty (n - 24) 1)
    | none =>
      match dsts.find? (fun n => decide (24 ≤ n) && decide (16 ≤ (l.queue (n - 24)).length)) with
      | some n => some (.queueFull (n - 24))
      | none => none

/-- The condition under which the rill lets the word retire. -/
def LCore.rillStall (l : LCore) (p : Nat) (q : Rill) : Option StallOn :=
  match l.rillWait p q with
  | some x => some x
  | none => if l.rillFull p q then some .rillRoom else none


/-- The issue conditions of the running stream. ILLEGAL comes first; then what stalls. -/
def State.issue (s : State) (w : Who) (u : Use) : Issue :=
  match w with
  | .sluice n =>
    let _ := n
    if !u.sl || Rill.any u.q || u.e then .illegal else .go
  | .core ep _ k =>
    let l := s.lcAt k
    if (if ep then !u.ep else !u.ap || u.e) then .illegal
    else if !ep && l.trapMode && (Rill.any u.q || !u.inTrap || (u.srcs ++ u.dsts).any (fun n => decide (24 ≤ n))) then .illegal
    else if badQueueUse ep u.srcs u.dsts then .illegal
    else
      match l.operandStall ep u.srcs u.dsts with
      | some x => .stall x
      | none =>
        match l.rillStall (posOf ep) u.q with
        | some x => .stall x
        | none => .go

/-- The running stream stalls: nothing else changes. -/
def State.stallOn (s : State) (w : Who) (why : StallOn) : State :=
  match w with
  | .core ep _ k =>
    let l := s.lcAt k
    (s.setLc k (l.setStrm ep { l.strm ep with stall := some why })).verdict .stalled
  | .sluice n => (s.setSl n { s.slAt n with stall := some why }).verdict .stalled

/-- The source operands of the running stream cannot be read yet. -/
def State.srcWaits (s : State) (w : Who) (u : Use) : Bool :=
  match w with
  | .core ep _ k => ((s.lcAt k).operandStall ep u.srcs []).isSome
  | .sluice _ => false

/-- Issue of an instruction that checks its operands first: what `check` finds comes before every stall but one on a source
operand. -/
def State.issuedAfter (s : State) (w : Who) (u : Use) (check : Option State) (body : State) : State :=
  match s.issue w u, check with
  | .illegal, _ => s.illegal w u.unit
  | .stall x, some t => if s.srcWaits w u then s.stallOn w x else t
  | .stall x, none => s.stallOn w x
  | .go, some t => t
  | .go, none => body

/-- Issue, and then run the body: ILLEGAL traps and stalls end the attempt. -/
def State.issued (s : State) (w : Who) (u : Use) (body : State) : State :=
  match s.issue w u with
  | .go => body
  | .illegal => s.illegal w u.unit
  | .stall x => s.stallOn w x

/-! ## Retirement (R74, R76, R89) -/

/-- The end-of-body check of one loop: the counter and frame after it, and whether it loops back (R89). -/
def Loop.atEnd (f : Loop) : Loop × Bool :=
  if 1 < f.count.toNat then ({ f with count := f.count - 1 }, true)
  else ({ f with count := 0, active := false }, false)

def Strm.loop (t : Strm) (i : Nat) : Loop :=
  match i with
  | 0 => t.loop0
  | 1 => t.loop1
  | _ => t.loop2

def Strm.setLoop (t : Strm) (i : Nat) (f : Loop) : Strm :=
  match i with
  | 0 => { t with loop0 := f }
  | 1 => { t with loop1 := f }
  | _ => { t with loop2 := f }

/-- Frame `i` ends in the words from `lo` up to `hi`. -/
def Strm.endsIn (t : Strm) (lo hi : Word) (i : Nat) : Bool :=
  (t.loop i).active && decide (lo.toNat ≤ (t.loop i).last.toNat) && decide ((t.loop i).last.toNat < hi.toNat)

/-- The order of the check: decreasing first address, equal ones by decreasing number. -/
def Strm.laterFrame (t : Strm) (i j : Nat) : Bool :=
  decide ((t.loop j).first.toNat < (t.loop i).first.toNat)
    || (decide ((t.loop j).first.toNat = (t.loop i).first.toNat) && decide (j ≤ i))

/-- The frame to check next among `is`. -/
def Strm.pickFrame (t : Strm) : List Nat → Option Nat
  | [] => none
  | i :: is =>
    match t.pickFrame is with
    | none => some i
    | some j => if t.laterFrame i j then some i else some j

/-- The end-of-body check over the frames `is`: the stream, and the address it continues at. -/
def Strm.endOfBody (t : Strm) (lo hi next : Word) : Nat → List Nat → Strm × Word
  | 0, _ => (t, next)
  | fuel + 1, is =>
    match t.pickFrame (is.filter (t.endsIn lo hi)) with
    | none => (t, next)
    | some i =>
      let (f, back) := (t.loop i).atEnd
      let t' := t.setLoop i f
      if back then (t', f.first) else t'.endOfBody lo hi next fuel (is.filter (· ≠ i))

/-- The stream after a retirement that took no transfer, and where it continues; in trap mode no check is made (R91). -/
def Strm.after (t : Strm) (trapMode : Bool) (lo hi next : Word) : Strm :=
  if trapMode then { t with pc := next, stall := none, stallCycles := 0 }
  else
    let (t', pc) := t.endOfBody lo hi next 3 [2, 1, 0]
    { t' with pc := pc, stall := none, stallCycles := 0 }

/-- The stream after a taken transfer: no end-of-body check (R89, R90). -/
def Strm.jumped (t : Strm) (target : Word) : Strm := { t with pc := target, stall := none, stallCycles := 0 }

/-- What an EP bundle's retirement does beside its syllables' results: the pending numeric status merges, the vector
progress clears, a descriptor written by the bundle takes effect (R183, R66, R61). -/
def LCore.closeBundle (l : LCore) (vector : Bool) (dw : Option (Nat × BitVec 128)) : LCore :=
  let l := if vector then { (l.mergeStat l.pendV) with pendV := NumStat.zero, vdone := 0, vpos := none, vprog := 0 } else l
  match dw with
  | some (d, v) => { l with descs := l.descs.put d v 0 }
  | none => l

/-- Where a retirement leads: on, on from a given address with the end-of-body check, or to the target of a transfer. -/
inductive Flow where
  | next
  | goto (a : Word)
  | jump (a : Word)
  deriving DecidableEq, Repr

/-- The stream `t` after its instruction, or bundle, in [lo, hi) retires. -/
def Strm.retire (t : Strm) (trapMode : Bool) (lo hi : Word) (f : Flow) : Strm :=
  match f with
  | .next => t.after trapMode lo hi hi
  | .goto a => t.after trapMode lo hi a
  | .jump a => t.jumped a

/-- Rill bits `q` act at position `p`. -/
def LCore.rillAct (l : LCore) (p : Nat) (q : Rill) : LCore := (l.rillTake p q).rillGive p q

/-- A logical core after an AP instruction in [`lo`, `hi`) with rill bits `q` has retired. -/
def LCore.retireAp (l : LCore) (q : Rill) (lo hi : Word) (f : Flow) : LCore :=
  { l with
    ap := l.ap.retire l.trapMode lo hi f
    rill := (l.rillAct posA q).rill
    dlcnt := 0
    pcs := (l.count 2 1).pcs }

/-- The register or queue write of the bundle's vector syllable. -/
def LCore.lateWrite (l : LCore) (x : Option (Nat × Word)) : LCore :=
  match x with
  | some (d, v) => l.setReg true d v
  | none => l

/-- A logical core after the EP bundle at the cursor has retired, its last syllable with rill bits `q`. -/
def LCore.retireEp (l : LCore) (cur : Cursor) (q : Rill) (f : Flow) : LCore :=
  let m := (l.closeBundle cur.vector cur.descWrite).lateWrite cur.regWrite
  { m with
    ep := { m.ep.retire false cur.pc cur.next f with handed := false }
    rill := ((l.rillAct posV q).rillAct posV cur.rill).rill
    dlcnt := 0
    epBusy := true
    pcs := (l.count 3 1).pcs }

/-- The running instruction retires: its rill bits act, its stream moves on; in the EP the bundle closes when no syllable
is left. -/
def State.retire (s : State) (w : Who) (q : Rill) (f : Flow) : State :=
  match w with
  | .sluice n =>
    let x := s.slAt n
    let pc := match f with
      | .next => s.cur.next
      | .goto a => a
      | .jump a => a
    (s.setSl n { x with pc := pc, stall := none }).verdict .done
  | .core false _ k => (s.setLc k ((s.lcAt k).retireAp q s.cur.pc s.cur.next f)).verdict .done
  | .core true _ k =>
    if s.cur.left = 0 then (s.setLc k ((s.lcAt k).retireEp s.cur q f)).verdict .done
    else { s with cur := { s.cur with rill := Rill.or s.cur.rill q, verdict := .done } }

/-- Pop the sources, write one destination and retire. -/
def State.commit (s : State) (w : Who) (u : Use) (d : Nat) (v : Word) (f : Flow) : State :=
  (((s.pops w u.srcs).dst w d v).retire w u.q f)

/-- Pop the sources and retire, writing no register. -/
def State.commit0 (s : State) (w : Who) (u : Use) (f : Flow) : State :=
  (s.pops w u.srcs).retire w u.q f

end Sys2Proof.Machine
end

