-- ==== Sys2Proof/Machine/Fetch.lean ====
section
/-! DEFINITION. Instruction fetch of the AP, the EP and the Sluice cores (04_scalar.md R86, 08_memory.md R153, 15_sluice.md
R280), and the bundles of the EP (02_encoding.md R32). -/

namespace Sys2Proof.Machine

/-- The word of logical core `k` at `va`, and the state with the marks of the fetch. -/
def State.fetchCore (s : State) (k : Nat) (va : Word) : Acc (Nat × State) :=
  let ctx := (s.lcAt k).ctx
  (s.runs ctx k .fetch 2 va.toNat 4).map (fun rs => (ofBytes (s.runsBytes rs), s.readMarks ctx rs))

/-- The private SRAM of a Sluice core, 256 KiB. -/
def sramSize : Nat := 262144

def Sluice.sramBytes (x : Sluice) (o : Nat) : Nat → List Byte
  | 0 => []
  | n + 1 => x.sram.atD o 0 :: x.sramBytes (o + 1) n

def Sluice.setSram (x : Sluice) (o : Nat) : List Byte → Sluice
  | [] => x
  | b :: bs => ({ x with sram := x.sram.put o b 0 } : Sluice).setSram (o + 1) bs

/-- The word of a Sluice core at `va`: fetched from the private SRAM only. -/
def State.fetchSluice (s : State) (n : Nat) (va : Word) : Acc (Nat × State) :=
  if va.toNat + 4 ≤ sramSize then .ok (ofBytes ((s.slAt n).sramBytes va.toNat 4), s)
  else .fault cProtection va false

/-- The word at `va` as stream `w` fetches it. -/
def State.fetchWord (s : State) (w : Who) (va : Word) : Acc (Nat × State) :=
  match w with
  | .core _ _ k => s.fetchCore k va
  | .sluice n => s.fetchSluice n va

/-- The words of the bundle at `va`: up to the first word with E = 1, at most `n`. -/
def State.fetchBundle (s : State) (k : Nat) (va : Word) : Nat → Acc (List Nat × State)
  | 0 => .ok ([], s)
  | n + 1 =>
    match s.fetchCore k va with
    | .fault c a t => .fault c a t
    | .wait k p => .wait k p
    | .ok (w, s1) =>
      if bit27 w then .ok ([w], s1)
      else (s1.fetchBundle k (va + 4) n).map (fun r => (w :: r.1, r.2))

/-- The slot class of a syllable, by its major (R32, R36). -/
inductive Slot where
  | s
  | v
  | m
  | g
  deriving DecidableEq, Repr

def slotOf (w : Nat) : Slot :=
  let m := fld w 26 21
  if m < 0x20 then .s else if m < 0x30 then .v else if m < 0x34 then .m else if m < 0x38 then .g else .s

/-- The UNIT code of a slot class (R138). -/
def Slot.unit : Slot → Nat
  | .s => 1
  | .v => 2
  | .m => 3
  | .g => 4

end Sys2Proof.Machine
end

