-- ==== Sys2Proof/Machine/SluiceMem.lean ====
section
/-! DEFINITION. The address space of a Sluice core: private SRAM, flow table and basin window (15_sluice.md R275, R280). -/

namespace Sys2Proof.Machine

def flowBase : Nat := 0x100000000

/-- Word `w` of flow `f`. -/
def Sluice.flow (x : Sluice) (f w : Nat) : Word := x.flows.atD (8 * f + w) 0

/-- The flow sends: V = 1, HOLD = 0, PATHS and RATE nonzero (R276). -/
def Sluice.flowAble (x : Sluice) (f : Nat) : Bool :=
  wbit (x.flow f 0) 63 && !wbit (x.flow f 0) 62 && x.flow f 1 != 0 && wf (x.flow f 3) 12 0 != 0

/-- What a full pacing bucket holds, in 176ths of a byte (R276). -/
def bucketFull : Nat := 64 * 4372 * 176

def Sluice.fst (x : Sluice) (f : Nat) : FlowSt := x.flowSt.atD f FlowSt.fresh
def Sluice.setFst (x : Sluice) (f : Nat) (v : FlowSt) : Sluice := { x with flowSt := x.flowSt.put f v FlowSt.fresh }

/-- Write word `w` of flow `f`; the pacing bucket is full when the flow becomes able to send (R276). -/
def Sluice.setFlow (x : Sluice) (f w : Nat) (v : Word) : Sluice :=
  let y := { x with flows := x.flows.put (8 * f + w) v 0 }
  if y.flowAble f && !x.flowAble f then y.setFst f { y.fst f with bucket := bucketFull } else y

/-- Bits that a store may change in word `w` of an entry (Table 4, RW fields). -/
def flowMask (w : Nat) : Word :=
  match w with
  | 0 => 0xBFFFFFFFFFFF0000
  | 4 => BitVec.allOnes 64
  | 5 => BitVec.allOnes 64
  | 6 => 0xFFFF
  | _ => 0

/-- The bytes `bs` laid over the word `v` from byte `o`. -/
def overlay (v : Word) (o : Nat) (bs : List Byte) : Word :=
  let old := bytesOf 8 v.toNat
  toW (ofBytes (old.take o ++ bs ++ old.drop (o + bs.length)))

/-- A store to the flow table at byte offset `o` (R275): while V is 0 the RW fields change, and V is set only with PORT
below 3; in a valid entry a store that writes V as 0 clears V and nothing else. -/
def Sluice.storeFlow (x : Sluice) (o : Nat) (bs : List Byte) : Sluice :=
  let f := o / 64
  let w := o % 64 / 8
  let old := x.flow f w
  let new := overlay old (o % 8) bs
  let valid := wbit (x.flow f 0) 63
  if valid then
    if w = 0 ∧ wbit new 63 = false then x.setFlow f 0 (setFld old 63 63 0) else x
  else
    let merged := (old &&& ~~~ flowMask w) ||| (new &&& flowMask w)
    if w = 0 ∧ wbit merged 63 = true ∧ 3 ≤ wf merged 61 60 then x else x.setFlow f w merged

/-- The bytes of the flow table from byte offset `o`. -/
def Sluice.flowBytes (x : Sluice) (o : Nat) : Nat → List Byte
  | 0 => []
  | n + 1 => BitVec.ofNat 8 ((x.flow (o / 64) (o % 64 / 8)).toNat / 256 ^ (o % 8)) :: x.flowBytes (o + 1) n

/-- Where a Sluice address is. -/
inductive SlPlace where
  | sram (o : Nat)
  | flow (o : Nat)
  | basin (pa : Nat)
  deriving DecidableEq, Repr

/-- The place of the `n` bytes at `va` of Sluice core `i`, after the checks of R280. -/
def State.slPlace (s : State) (i va n : Nat) : Acc SlPlace :=
  if va % n ≠ 0 then .fault cMisaligned (toW va) false
  else if va + n ≤ sramSize then .ok (.sram va)
  else if flowBase ≤ va ∧ va + n ≤ flowBase + 32768 then .ok (.flow (va - flowBase))
  else if winBasin ≤ va ∧ va + n ≤ winFault then
    let x := s.slAt i
    let o := va - winBasin
    let d := o / 2 ^ 27
    let c := s.ctxAt x.ctx
    if x.bound ∧ o % 2 ^ 27 + n ≤ c.grantSize d then .ok (.basin (paBasin d + c.grantBase d + o % 2 ^ 27))
    else .fault cProtection (toW va) false
  else .fault cProtection (toW va) false

/-- A load of a Sluice core. -/
def State.slRead (s : State) (i va n : Nat) : Acc (List Byte) :=
  (s.slPlace i va n).map (fun p =>
    match p with
    | .sram o => (s.slAt i).sramBytes o n
    | .flow o => (s.slAt i).flowBytes o n
    | .basin pa => s.physBytes pa n)

/-- A store of a Sluice core. -/
def State.slWrite (s : State) (i va : Nat) (bs : List Byte) : Acc State :=
  (s.slPlace i va bs.length).map (fun p =>
    match p with
    | .sram o => s.setSl i ((s.slAt i).setSram o bs)
    | .flow o => s.setSl i ((s.slAt i).storeFlow o bs)
    | .basin pa => s.setPhyss pa bs)

end Sys2Proof.Machine
end

