-- ==== Sys2Proof/Machine/Scalar.lean ====
section
/-! DEFINITION. Register arithmetic and immediates: majors 0x01 to 0x06, 0x08, 0x09 (04_scalar.md R77 to R80). -/

namespace Sys2Proof.Machine

/-- A scalar instruction valid in the AP, the S slot and the Sluice cores. -/
def useAsl (q : Rill) (e : Bool) (srcs dsts : List Nat) : Use := ⟨q, e, true, true, true, srcs, dsts, true, 1⟩

/-- The literal form: AP and Sluice cores only (R30). -/
def useLit (q : Rill) (srcs dsts : List Nat) : Use := ⟨q, false, true, false, true, srcs, dsts, true, 1⟩

/-- gd ← f(ga, gb). -/
def execRrr (f : Word → Word → Word) (q : Rill) (e : Bool) (d a b : Nat) (s : State) : Out :=
  s.onStream fun w =>
    let u := useAsl q e [a, b] [d]
    s.issued w u (s.commit w u d (f (s.src w a) (s.src w b)) .next)

/-- gd ← f(ga). -/
def execRi (f : Word → Word) (u : Use) (d a : Nat) (s : State) : Out :=
  s.onStream fun w => s.issued w u (s.commit w u d (f (s.src w a)) .next)

/-- gd ← v. -/
def execConst (v : Word) (u : Use) (d : Nat) (s : State) : Out :=
  s.onStream fun w => s.issued w u (s.commit w u d v .next)

/-- 1 for true, 0 for false. -/
def ofBool (b : Bool) : Word := if b then 1 else 0

/-! ### Table 1 -/

def fSll (a b : Word) : Word := a <<< (b.toNat % 64)
def fSrl (a b : Word) : Word := a >>> (b.toNat % 64)
def fSra (a b : Word) : Word := a.sshiftRight (b.toNat % 64)
def fSlt (a b : Word) : Word := ofBool (decide (a.toInt < b.toInt))
def fSltu (a b : Word) : Word := ofBool (decide (a.toNat < b.toNat))
def fMin (a b : Word) : Word := if a.toInt ≤ b.toInt then a else b
def fMax (a b : Word) : Word := if b.toInt ≤ a.toInt then a else b
def fMinu (a b : Word) : Word := if a.toNat ≤ b.toNat then a else b
def fMaxu (a b : Word) : Word := if b.toNat ≤ a.toNat then a else b
/-- sext64: bit 31 extended to 64 bits. -/
def sext64 (x : Word) : Word := sext 32 (x.toNat % 2 ^ 32)
def fAddw (a b : Word) : Word := sext64 (a + b)
def fSubw (a b : Word) : Word := sext64 (a - b)
def fMulh (a b : Word) : Word := ofZ (a.toInt * b.toInt / 2 ^ 64)
def fMulhu (a b : Word) : Word := toW (a.toNat * b.toNat / 2 ^ 64)

/-! ### Division (R79): rounded toward zero, no trap -/

def fDiv (a b : Word) : Word :=
  if b = 0 then BitVec.allOnes 64
  else if a.toInt = -2 ^ 63 ∧ b.toInt = -1 then a
  else ofZ (Int.tdiv a.toInt b.toInt)

def fRem (a b : Word) : Word :=
  if b = 0 then a
  else if a.toInt = -2 ^ 63 ∧ b.toInt = -1 then 0
  else ofZ (a.toInt - b.toInt * Int.tdiv a.toInt b.toInt)

def fDivu (a b : Word) : Word := if b = 0 then BitVec.allOnes 64 else toW (a.toNat / b.toNat)
def fRemu (a b : Word) : Word := if b = 0 then a else toW (a.toNat - b.toNat * (a.toNat / b.toNat))

def execAdd (q : Rill) (e : Bool) (d a b : Nat) (s : State) : Out := execRrr (· + ·) q e d a b s
def execSub (q : Rill) (e : Bool) (d a b : Nat) (s : State) : Out := execRrr (· - ·) q e d a b s
def execAnd (q : Rill) (e : Bool) (d a b : Nat) (s : State) : Out := execRrr (· &&& ·) q e d a b s
def execOr (q : Rill) (e : Bool) (d a b : Nat) (s : State) : Out := execRrr (· ||| ·) q e d a b s
def execXor (q : Rill) (e : Bool) (d a b : Nat) (s : State) : Out := execRrr (· ^^^ ·) q e d a b s
def execSll (q : Rill) (e : Bool) (d a b : Nat) (s : State) : Out := execRrr fSll q e d a b s
def execSrl (q : Rill) (e : Bool) (d a b : Nat) (s : State) : Out := execRrr fSrl q e d a b s
def execSra (q : Rill) (e : Bool) (d a b : Nat) (s : State) : Out := execRrr fSra q e d a b s
def execSlt (q : Rill) (e : Bool) (d a b : Nat) (s : State) : Out := execRrr fSlt q e d a b s
def execSltu (q : Rill) (e : Bool) (d a b : Nat) (s : State) : Out := execRrr fSltu q e d a b s
def execMin (q : Rill) (e : Bool) (d a b : Nat) (s : State) : Out := execRrr fMin q e d a b s
def execMax (q : Rill) (e : Bool) (d a b : Nat) (s : State) : Out := execRrr fMax q e d a b s
def execMinu (q : Rill) (e : Bool) (d a b : Nat) (s : State) : Out := execRrr fMinu q e d a b s
def execMaxu (q : Rill) (e : Bool) (d a b : Nat) (s : State) : Out := execRrr fMaxu q e d a b s
def execAddw (q : Rill) (e : Bool) (d a b : Nat) (s : State) : Out := execRrr fAddw q e d a b s
def execSubw (q : Rill) (e : Bool) (d a b : Nat) (s : State) : Out := execRrr fSubw q e d a b s
def execMul (q : Rill) (e : Bool) (d a b : Nat) (s : State) : Out := execRrr (· * ·) q e d a b s
def execMulh (q : Rill) (e : Bool) (d a b : Nat) (s : State) : Out := execRrr fMulh q e d a b s
def execMulhu (q : Rill) (e : Bool) (d a b : Nat) (s : State) : Out := execRrr fMulhu q e d a b s
def execDiv (q : Rill) (e : Bool) (d a b : Nat) (s : State) : Out := execRrr fDiv q e d a b s
def execDivu (q : Rill) (e : Bool) (d a b : Nat) (s : State) : Out := execRrr fDivu q e d a b s
def execRem (q : Rill) (e : Bool) (d a b : Nat) (s : State) : Out := execRrr fRem q e d a b s
def execRemu (q : Rill) (e : Bool) (d a b : Nat) (s : State) : Out := execRrr fRemu q e d a b s

/-! ### Table 2 -/

def execAddi (q : Rill) (e : Bool) (d a imm : Nat) (s : State) : Out :=
  execRi (· + sext 11 imm) (useAsl q e [a] [d]) d a s
def execAndi (q : Rill) (e : Bool) (d a imm : Nat) (s : State) : Out :=
  execRi (· &&& sext 11 imm) (useAsl q e [a] [d]) d a s
def execOri (q : Rill) (e : Bool) (d a imm : Nat) (s : State) : Out :=
  execRi (· ||| sext 11 imm) (useAsl q e [a] [d]) d a s
def execXori (q : Rill) (e : Bool) (d a imm : Nat) (s : State) : Out :=
  execRi (· ^^^ sext 11 imm) (useAsl q e [a] [d]) d a s

def execAddiLiteral (q : Rill) (d a lit : Nat) (s : State) : Out := execRi (· + sext 32 lit) (useLit q [a] [d]) d a s
def execAndiLiteral (q : Rill) (d a lit : Nat) (s : State) : Out := execRi (· &&& sext 32 lit) (useLit q [a] [d]) d a s
def execOriLiteral (q : Rill) (d a lit : Nat) (s : State) : Out := execRi (· ||| sext 32 lit) (useLit q [a] [d]) d a s
def execXoriLiteral (q : Rill) (d a lit : Nat) (s : State) : Out := execRi (· ^^^ sext 32 lit) (useLit q [a] [d]) d a s

def execSlli (q : Rill) (e : Bool) (d a n : Nat) (s : State) : Out := execRi (· <<< n) (useAsl q e [a] [d]) d a s
def execSrli (q : Rill) (e : Bool) (d a n : Nat) (s : State) : Out := execRi (· >>> n) (useAsl q e [a] [d]) d a s
def execSrai (q : Rill) (e : Bool) (d a n : Nat) (s : State) : Out :=
  execRi (·.sshiftRight n) (useAsl q e [a] [d]) d a s
def execSlti (q : Rill) (e : Bool) (d a imm : Nat) (s : State) : Out :=
  execRi (fSlt · (sext 8 imm)) (useAsl q e [a] [d]) d a s
def execSltiu (q : Rill) (e : Bool) (d a imm : Nat) (s : State) : Out :=
  execRi (fSltu · (sext 8 imm)) (useAsl q e [a] [d]) d a s

def execLi (q : Rill) (e : Bool) (d imm : Nat) (s : State) : Out := execConst (sext 16 imm) (useAsl q e [] [d]) d s
def execLiLiteral (q : Rill) (d lit : Nat) (s : State) : Out := execConst (sext 32 lit) (useLit q [] [d]) d s

/-- gd ← (gd << 16) | imm; gd is a source and a destination (R80). -/
def execLsh (q : Rill) (e : Bool) (d imm : Nat) (s : State) : Out :=
  execRi (fun x => (x <<< 16) ||| toW (imm % 65536)) (useAsl q e [d] [d]) d d s

end Sys2Proof.Machine
end

