-- ==== Sys2Proof/Machine/LoadStore.lean ====
section
/-! DEFINITION. Scalar loads and stores, major 0x0A (04_scalar.md R81 to R83; 08_memory.md R153 to R159). -/

namespace Sys2Proof.Machine

/-- Load `n` bytes at `va` as stream `w`. -/
def State.loadAt (s : State) (w : Who) (va : Word) (n : Nat) : Acc (List Byte × State) :=
  match w with
  | .core _ _ k => s.readVa (s.lcAt k).ctx k va.toNat n
  | .sluice i => (s.slRead i va.toNat n).map (fun bs => (bs, s))

/-- A store of logical core `k`, the terrace multicast window included (R158). -/
def State.storeCore (s : State) (k va : Nat) (bs : List Byte) : Acc State :=
  let ctx := (s.lcAt k).ctx
  s.ranged ctx va bs.length <| (s.runs ctx k .store (bs.length / 4096 + 2) va bs.length).bind (fun rs =>
    match rs with
    | ⟨_, .multicast m, _⟩ :: _ =>
      match s.mcTargets k m (m % 2 ^ 21) bs.length with
      | .error (c, d) => .fault c (toW (va + d)) false
      | .ok ts => .ok (s.mcIssue k false ts (m % 2 ^ 21) bs)
    | _ => .ok ((s.writeMarks ctx rs).putRuns rs bs))

/-- Store bytes at `va` as stream `w`. -/
def State.storeAt (s : State) (w : Who) (va : Word) (bs : List Byte) : Acc State :=
  match w with
  | .core _ _ k => s.storeCore k va.toNat bs
  | .sluice i => s.slWrite i va.toNat bs

/-- Go on with what an access gave, or trap, or stall on the page. -/
def State.afterAcc {α : Type} (s : State) (w : Who) (unit : Nat) (x : Acc α) (f : α → State) : State :=
  match x with
  | .ok a => f a
  | .fault c addr t => s.raiseAcc w unit c addr t
  | .wait k p => s.stallOn w (.page k p)

/-- A load or store: AP and Sluice cores. -/
def useMem (q : Rill) (srcs dsts : List Nat) : Use := ⟨q, false, true, false, true, srcs, dsts, true, 1⟩

/-- The loaded value: sign- or zero-extended to 64 bits. -/
def extend (signed : Bool) (n v : Nat) : Word := if signed then sext (8 * n) v else toW v

/-- `ld`: gd ← the `n` bytes at ga + disp. -/
def execLoad (n : Nat) (signed : Bool) (disp : Word) (q : Rill) (d a : Nat) (s : State) : Out :=
  s.onStream fun w =>
    let u := useMem q [a] [d]
    s.issued w u (
      let va := s.src w a + disp
      if va.toNat % n ≠ 0 then s.raise w 1 cMisaligned va
      else s.afterAcc w 1 (s.loadAt w va n) (fun r => r.2.commit w u d (extend signed n (ofBytes r.1)) .next))

/-- `st`: the low `n` bytes of gs (in field d) to ga + disp. -/
def execStore (n : Nat) (disp : Word) (q : Rill) (d a : Nat) (s : State) : Out :=
  s.onStream fun w =>
    let u := useMem q [d, a] []
    s.issued w u (
      let va := s.src w a + disp
      if va.toNat % n ≠ 0 then s.raise w 1 cMisaligned va
      else s.afterAcc w 1 (s.storeAt w va (bytesOf n (s.src w d).toNat)) (fun s1 => s1.commit0 w u .next))

/-- The displacement of the short form: off scaled by the access size (R81). -/
def disp7 (n off : Nat) : Word := ofZ (sextZ 7 off * n)

def execLdB (q : Rill) (d a off : Nat) (s : State) : Out := execLoad 1 true (disp7 1 off) q d a s
def execLdBLiteral (q : Rill) (d a lit : Nat) (s : State) : Out := execLoad 1 true (sext 32 lit) q d a s
def execLdBu (q : Rill) (d a off : Nat) (s : State) : Out := execLoad 1 false (disp7 1 off) q d a s
def execLdBuLiteral (q : Rill) (d a lit : Nat) (s : State) : Out := execLoad 1 false (sext 32 lit) q d a s
def execLdH (q : Rill) (d a off : Nat) (s : State) : Out := execLoad 2 true (disp7 2 off) q d a s
def execLdHLiteral (q : Rill) (d a lit : Nat) (s : State) : Out := execLoad 2 true (sext 32 lit) q d a s
def execLdHu (q : Rill) (d a off : Nat) (s : State) : Out := execLoad 2 false (disp7 2 off) q d a s
def execLdHuLiteral (q : Rill) (d a lit : Nat) (s : State) : Out := execLoad 2 false (sext 32 lit) q d a s
def execLdW (q : Rill) (d a off : Nat) (s : State) : Out := execLoad 4 true (disp7 4 off) q d a s
def execLdWLiteral (q : Rill) (d a lit : Nat) (s : State) : Out := execLoad 4 true (sext 32 lit) q d a s
def execLdWu (q : Rill) (d a off : Nat) (s : State) : Out := execLoad 4 false (disp7 4 off) q d a s
def execLdWuLiteral (q : Rill) (d a lit : Nat) (s : State) : Out := execLoad 4 false (sext 32 lit) q d a s
def execLdD (q : Rill) (d a off : Nat) (s : State) : Out := execLoad 8 false (disp7 8 off) q d a s
def execLdDLiteral (q : Rill) (d a lit : Nat) (s : State) : Out := execLoad 8 false (sext 32 lit) q d a s
def execStB (q : Rill) (d a off : Nat) (s : State) : Out := execStore 1 (disp7 1 off) q d a s
def execStBLiteral (q : Rill) (d a lit : Nat) (s : State) : Out := execStore 1 (sext 32 lit) q d a s
def execStH (q : Rill) (d a off : Nat) (s : State) : Out := execStore 2 (disp7 2 off) q d a s
def execStHLiteral (q : Rill) (d a lit : Nat) (s : State) : Out := execStore 2 (sext 32 lit) q d a s
def execStW (q : Rill) (d a off : Nat) (s : State) : Out := execStore 4 (disp7 4 off) q d a s
def execStWLiteral (q : Rill) (d a lit : Nat) (s : State) : Out := execStore 4 (sext 32 lit) q d a s
def execStD (q : Rill) (d a off : Nat) (s : State) : Out := execStore 8 (disp7 8 off) q d a s
def execStDLiteral (q : Rill) (d a lit : Nat) (s : State) : Out := execStore 8 (sext 32 lit) q d a s

end Sys2Proof.Machine
end

