-- ==== Sys2Proof/Machine/Branch.lean ====
section
/-! DEFINITION. Branches, jumps, calls and hardware loops: majors 0x0B to 0x0E and `jr` (04_scalar.md R84 to R92). -/

namespace Sys2Proof.Machine

/-- The address of the running word itself (in the EP, of the syllable in its bundle). -/
def State.wordPc (s : State) : Word := s.cur.pc + toW (4 * s.cur.syl)

/-- PC + 4 · sext(off) (R29). -/
def State.target (s : State) (n off : Nat) : Word := s.wordPc + ofZ (4 * sextZ n off)

/-- A conditional branch on ga (R84). -/
def execBranch (c : Word → Bool) (q : Rill) (e : Bool) (a off : Nat) (s : State) : Out :=
  s.onStream fun w =>
    let u := useAsl q e [a] []
    s.issued w u (s.commit0 w u (if c (s.src w a) then .jump (s.target 11 off) else .next))

def execBeqz (q : Rill) (e : Bool) (a off : Nat) (s : State) : Out := execBranch (fun x => x == 0) q e a off s
def execBnez (q : Rill) (e : Bool) (a off : Nat) (s : State) : Out := execBranch (fun x => x != 0) q e a off s
def execBltz (q : Rill) (e : Bool) (a off : Nat) (s : State) : Out := execBranch (fun x => decide (x.toInt < 0)) q e a off s
def execBgez (q : Rill) (e : Bool) (a off : Nat) (s : State) : Out := execBranch (fun x => decide (0 ≤ x.toInt)) q e a off s
def execBgtz (q : Rill) (e : Bool) (a off : Nat) (s : State) : Out := execBranch (fun x => decide (0 < x.toInt)) q e a off s
def execBlez (q : Rill) (e : Bool) (a off : Nat) (s : State) : Out := execBranch (fun x => decide (x.toInt ≤ 0)) q e a off s

/-- Valid in the S slot only. -/
def useS (q : Rill) (e : Bool) (srcs dsts : List Nat) : Use := ⟨q, e, false, true, false, srcs, dsts, false, 1⟩

/-- A branch on the popped CQ outcome (R85). -/
def execCqBranch (taken : Bool) (q : Rill) (e : Bool) (off : Nat) (s : State) : Out :=
  s.onStream fun w =>
    let u := useS q e [] []
    s.issued w u (
      match w with
      | .sluice _ => s
      | .core _ _ k =>
        let l := s.lcAt k
        match l.cq with
        | [] => s.stallOn w .cqEmpty
        | b :: r => (s.setLc k { l with cq := r }).commit0 w u (if b = taken then .jump (s.target 11 off) else .next))

def execBcq (q : Rill) (e : Bool) (off : Nat) (s : State) : Out := execCqBranch true q e off s
def execBncq (q : Rill) (e : Bool) (off : Nat) (s : State) : Out := execCqBranch false q e off s

def execJ (q : Rill) (e : Bool) (off : Nat) (s : State) : Out :=
  s.onStream fun w =>
    let u := useAsl q e [] []
    s.issued w u (s.commit0 w u (.jump (s.target 21 off)))

/-- `call`: the return address goes into g1 (R38). -/
def execCall (q : Rill) (e : Bool) (off : Nat) (s : State) : Out :=
  s.onStream fun w =>
    let u := useAsl q e [] [1]
    s.issued w u (s.commit w u 1 s.cur.next (.jump (s.target 21 off)))

/-- `jr`: ga is read before gd is written; a target with bits 1:0 set is ILLEGAL (R38, R86). -/
def execJr (q : Rill) (e : Bool) (d a : Nat) (s : State) : Out :=
  s.onStream fun w =>
    let u := useAsl q e [a] [d]
    s.issued w u (
      let t := s.src w a
      if t.toNat % 4 ≠ 0 then s.illegal w 1 else s.commit w u d s.cur.next (.jump t))

/-! ### Hardware loops (R88) -/

/-- Set up loop `c` of the stream with count `n` and body of `len` words from `first`. -/
def Strm.setUp (t : Strm) (c : Nat) (n first last : Word) : Strm :=
  if n = 0 then t.setLoop c { t.loop c with count := 0, active := false }
  else t.setLoop c ⟨n, first, last, true⟩

/-- The loop instruction's effect on stream `w`, its count known. -/
def State.loopBody (s : State) (w : Who) (u : Use) (c len : Nat) (n : Word) : State :=
  match w with
  | .sluice _ => s
  | .core ep _ k =>
    let first := s.cur.next
    let last := first + toW (4 * (len - 1))
    let go (s : State) : State :=
      let s1 := s.pops w u.srcs
      let l := s1.lcAt k
      let s2 := s1.setLc k (l.setStrm ep ((l.strm ep).setUp c n first last))
      s2.retire w u.q (if n = 0 then .goto (last + 4) else .next)
    if ep then
      -- the EP reads its last body word before it retires
      match s.fetchCore k last with
      | .fault cause addr t => s.raiseAcc w 1 cause addr t
      | .wait j p => s.stallOn w (.page j p)
      | .ok (x, s1) => if bit27 x then go s1 else s.illegal w 1
    else go s

/-- `loop` and `loopi` are valid in the AP and the S slot, outside trap mode (R91); lc = 3 and len = 0 are ILLEGAL (R38). -/
def execLoopWith (n : State → Who → Word) (q : Rill) (e : Bool) (srcs : List Nat) (c len : Nat) (s : State) : Out :=
  s.onStream fun w =>
    let u : Use := ⟨q, e, true, true, false, srcs, [], false, 1⟩
    if c = 3 ∨ len = 0 then s.illegal w 1
    else s.issued w u (s.loopBody w u c len (n s w))

def execLoop (q : Rill) (e : Bool) (c a len : Nat) (s : State) : Out :=
  execLoopWith (fun s w => s.src w a) q e [a] c len s

def execLoopi (q : Rill) (e : Bool) (c n len : Nat) (s : State) : Out :=
  execLoopWith (fun _ _ => toW n) q e [] c len s

def execLoopiLiteral (q : Rill) (c len lit : Nat) (s : State) : Out :=
  s.onStream fun w =>
    let u : Use := ⟨q, false, true, false, false, [], [], false, 1⟩
    if c = 3 ∨ len = 0 then s.illegal w 1
    else s.issued w u (s.loopBody w u c len (toW lit))

end Sys2Proof.Machine
end

