-- ==== Sys2Proof/Machine/Special.lean ====
section
/-! DEFINITION. Special registers: `mfsr` and `mtsr` (02_encoding.md R45, Table 13; 03_registers.md R62 to R70;
04_scalar.md R93; 15_sluice.md Table 6). -/

namespace Sys2Proof.Machine

/-- Launch and identity registers that the logical core holds (0x000, COREID, belongs to the physical core). -/
def selLaunch (sel : Nat) : Bool :=
  sel == 1 || sel == 2 || sel == 4 || (8 ≤ sel && sel ≤ 0x2F)

/-- The numbers assigned in the AP and the S slot at any time. -/
def selCore (sel : Nat) : Bool :=
  sel == 0 || selLaunch sel || (0x30 ≤ sel && sel ≤ 0x32) || (0x38 ≤ sel && sel ≤ 0x3D) || sel == 0x46

/-- Trap registers. -/
def selTrap (sel : Nat) : Bool := 0x40 ≤ sel && sel ≤ 0x45

/-- The number names a register in the running stream (R45). -/
def State.selValid (s : State) (w : Who) (sel : Nat) : Bool :=
  match w with
  | .core ep _ k => selCore sel || (selTrap sel && !ep && (s.lcAt k).trapMode)
  | .sluice _ => sel == 0x46 || (0x100 ≤ sel && sel ≤ 0x108)

def LCore.rtgain (l : LCore) : Word := toW (l.rtsel * 65536 + l.rtcnt.atD l.rtsel 0)

/-- The value of a special register of a logical core. -/
def State.readSel (s : State) (ep : Bool) (c k sel : Nat) : Word :=
  let l := s.lcAt k
  let t := l.strm ep
  match sel with
  | 0x00 => toW c
  | 0x30 => t.loop0.count
  | 0x31 => t.loop1.count
  | 0x32 => t.loop2.count
  | 0x38 => l.fpmode
  | 0x39 => l.amax
  | 0x3A => l.mxrow
  | 0x3B => l.rtgain
  | 0x3C => toW (s.coreAt c).spillpos
  | 0x3D => l.vprog
  | 0x40 => l.tcause
  | 0x41 => l.tepc
  | 0x42 => l.taddr
  | 0x43 => l.tstatus
  | 0x44 => l.tvec
  | 0x45 => l.tscratch
  | 0x46 => s.cycle
  | n => l.launch.atD n 0

/-- The value of a special register of a Sluice core. -/
def State.readSlSel (s : State) (i sel : Nat) : Word :=
  let x := s.slAt i
  match sel with
  | 0x46 => s.cycle
  | 0x100 => toW i
  | 0x101 => toW x.ctx
  | 0x102 => toW x.evq.length
  | 0x103 => x.svec
  | 0x104 => x.sepc
  | 0x105 => x.scause
  | 0x106 => x.staddr
  | 0x107 => x.sstatus
  | 0x108 => x.sscratch
  | _ => 0

def State.readSpecial (s : State) (w : Who) (sel : Nat) : Word :=
  match w with
  | .core ep c k => s.readSel ep c k sel
  | .sluice i => s.readSlSel i sel

/-- FPMODE written by the EP: bit 0, and each flag written as 1 clears (R65). -/
def fpmodeW1c (old v : Word) : Word := (old &&& ~~~ v &&& 0x1F0) ||| (v &&& 1)

/-- FPMODE written by the AP in trap mode: bit 0 and the flags as given. -/
def fpmodeSet (v : Word) : Word := v &&& 0x1F1

/-- RTGAIN: CLR zeroes the counts, SEL is written (R66). -/
def LCore.writeRtgain (l : LCore) (v : Word) : LCore :=
  { l with rtsel := wf v 19 16, rtcnt := if wbit v 63 then [] else l.rtcnt }

/-- The effect of `mtsr` on a logical core: RO and HW registers, and registers of another stream, ignore it (R45, R70). -/
def LCore.writeSel (l : LCore) (ep : Bool) (sel : Nat) (v : Word) : LCore :=
  let t := l.strm ep
  match sel with
  | 0x30 => l.setStrm ep { t with loop0 := { t.loop0 with count := v } }
  | 0x31 => l.setStrm ep { t with loop1 := { t.loop1 with count := v } }
  | 0x32 => l.setStrm ep { t with loop2 := { t.loop2 with count := v } }
  | 0x38 =>
    if ep then { l with fpmode := fpmodeW1c l.fpmode v }
    else if l.trapMode then { l with fpmode := fpmodeSet v }
    else l
  | 0x39 => if ep then { l with amax := v &&& 0x17FFFFFFF } else l
  | 0x3B => if ep then l.writeRtgain v else l
  | 0x40 => { l with tcause := v &&& 0xFFFFF }
  | 0x41 => { l with tepc := v }
  | 0x42 => { l with taddr := v }
  | 0x43 => { l with tstatus := (v &&& 6) ||| (l.tstatus &&& 1) }
  | 0x44 => { l with tvec := v &&& ~~~ 3 }
  | 0x45 => { l with tscratch := v }
  | _ => l

/-- The effect of `mtsr` on a Sluice core. -/
def Sluice.writeSel (x : Sluice) (sel : Nat) (v : Word) : Sluice :=
  match sel with
  | 0x103 => { x with svec := v &&& ~~~ 3 }
  | 0x104 => { x with sepc := v }
  | 0x105 => { x with scause := v &&& 0xFF }
  | 0x106 => { x with staddr := v }
  | 0x108 => { x with sscratch := v }
  | _ => x

def State.writeSpecial (s : State) (w : Who) (sel : Nat) (v : Word) : State :=
  match w with
  | .core ep _ k => s.setLc k ((s.lcAt k).writeSel ep sel v)
  | .sluice i => s.setSl i ((s.slAt i).writeSel sel v)

def execMfsr (q : Rill) (e : Bool) (d sel : Nat) (s : State) : Out :=
  s.onStream fun w =>
    let u := useAsl q e [] [d]
    if !s.selValid w sel then s.illegal w 1
    else s.issued w u (s.commit w u d (s.readSpecial w sel) .next)

def execMtsr (q : Rill) (e : Bool) (a sel : Nat) (s : State) : Out :=
  s.onStream fun w =>
    let u := useAsl q e [a] []
    if !s.selValid w sel then s.illegal w 1
    else s.issued w u (
      let v := s.src w a
      (((s.pops w u.srcs).writeSpecial w sel v).retire w q .next))

end Sys2Proof.Machine
end

