-- ==== Sys2Proof/Machine/Record.lean ====
section
/-! DEFINITION. The logical-core record: the word of a logical core's state at each byte offset (18_context_image.md R330,
Table 3), read by `bank.rd`, spills and images, written by `bank.wr` and THAW. -/

namespace Sys2Proof.Machine

/-- The size of a record in bytes. -/
def recSize : Nat := 32768

def NumStat.word (n : NumStat) : Nat :=
  (if n.pv then 2 ^ 38 else 0) + n.flags % 32 * 2 ^ 33 + (if n.nan then 2 ^ 32 else 0) + n.mag % 2 ^ 31

def NumStat.ofWord (v : Word) : NumStat := ⟨wbit v 38, wf v 37 33, wbit v 32, wf v 30 0⟩

def Progress.word (p : Progress) : Nat :=
  p.count % 2 ^ 48 + (if p.done then 2 ^ 62 else 0) + (if p.waited then 2 ^ 63 else 0)

def Progress.ofWord (v : Word) : Progress := ⟨wf v 47 0, wbit v 63, wbit v 62, false⟩

def bit (b : Bool) (n : Nat) : Nat := if b then 2 ^ n else 0

/-- Word `w` of loop frame `i`. -/
def Strm.loopWord (t : Strm) (i w : Nat) : Word :=
  let f := t.loop i
  match w with
  | 0 => f.count
  | 1 => f.first
  | _ => toW (f.last.toNat / 2 * 2 + bit f.active 0)

def Strm.setLoopWord (t : Strm) (i w : Nat) (v : Word) : Strm :=
  let f := t.loop i
  t.setLoop i (match w with
    | 0 => { f with count := v }
    | 1 => { f with first := v }
    | _ => { f with last := toW (v.toNat / 2 * 2), active := wbit v 0 })

/-- The special register number of launch word `n` of the record. -/
def launchSel (n : Nat) : Nat :=
  if n < 8 then 0x08 + n else if n < 24 then 0x10 + (n - 8) else if n < 32 then 0x20 + (n - 24)
  else if n < 40 then 0x28 + (n - 32) else if n = 40 then 1 else if n = 41 then 2 else 4

/-- Words 0x0488 on: FPMODE to TSCRATCH. -/
def LCore.specialWord (l : LCore) (n : Nat) : Word :=
  match n with
  | 0 => l.fpmode
  | 1 => l.amax
  | 2 => l.vprog
  | 3 => l.mxrow
  | 4 => l.rtgain
  | 5 => l.tcause
  | 6 => l.tepc
  | 7 => l.taddr
  | 8 => l.tstatus
  | 9 => l.tvec
  | _ => l.tscratch

def LCore.setSpecialWord (l : LCore) (n : Nat) (v : Word) : LCore :=
  match n with
  | 0 => { l with fpmode := v &&& 0x1F1 }
  | 1 => { l with amax := v &&& 0x17FFFFFFF }
  | 2 => { l with vprog := v &&& 0x80000000FFFFFFFF, vdone := if wbit v 63 then wf v 31 0 else 0 }
  | 3 => { l with mxrow := v &&& 0x800000000003FFFF }
  | 4 => { l with rtsel := wf v 19 16 }
  | 5 => { l with tcause := v &&& 0xFFFFF }
  | 6 => { l with tepc := v }
  | 7 => { l with taddr := v }
  | 8 => { l with tstatus := v &&& 7 }
  | 9 => { l with tvec := v &&& ~~~ 3 }
  | _ => { l with tscratch := v }

def MxCmd.recWord (c : MxCmd) (n : Nat) : Word :=
  match n with
  | 0 => toW (bit true 63 + bit c.followOn 62 + bit c.ftz 61 + c.word % 2 ^ 32)
  | 1 => c.mask
  | 6 => toW (c.pc.toNat / 4 * 4 + c.syl % 4)
  | n => if 2 ≤ n ∧ n ≤ 5 then c.ops.getD (n - 2) 0 else 0

/-- Replace entry `i` of a list, extending it with zeros. -/
def setAt (l : List Word) (i : Nat) (v : Word) : List Word :=
  (l ++ List.replicate (i + 1 - l.length) 0).set i v

def MxCmd.setWord (c : MxCmd) (n : Nat) (v : Word) : MxCmd :=
  match n with
  | 0 => { c with followOn := wbit v 62, ftz := wbit v 61, word := wf v 31 0 }
  | 1 => { c with mask := v }
  | 6 => { c with pc := toW (v.toNat / 4 * 4), syl := wf v 1 0 }
  | n => if 2 ≤ n ∧ n ≤ 5 then { c with ops := setAt c.ops (n - 2) v } else c

def MxCmd.zero : MxCmd := ⟨0, false, false, 0, [], 0, 0⟩

def RtCmd.recWord (c : RtCmd) (n : Nat) : Word :=
  match n with
  | 0 => toW (bit true 63 + bit c.ftz 61 + c.word % 2 ^ 32)
  | 1 => toW c.da.toNat
  | 2 => toW (c.da.toNat / 2 ^ 64)
  | 3 => toW c.db.toNat
  | 4 => toW (c.db.toNat / 2 ^ 64)
  | 5 => toW (c.pc.toNat / 4 * 4 + c.syl % 4)
  | _ => 0

/-- A 128-bit value with its low (`n` = 0) or high half replaced. -/
def setHalf (d : BitVec 128) (n : Nat) (v : Word) : BitVec 128 :=
  if n = 0 then BitVec.ofNat 128 (d.toNat / 2 ^ 64 * 2 ^ 64 + v.toNat)
  else BitVec.ofNat 128 (d.toNat % 2 ^ 64 + v.toNat * 2 ^ 64)

/-- Half `n` of a region descriptor that a record write gives: bits 127:90 are reserved (03_registers.md Table 3, R2). -/
def setDescHalf (d : BitVec 128) (n : Nat) (v : Word) : BitVec 128 :=
  setHalf d n (if n = 0 then v else v &&& 0x3FFFFFF)

/-- Half `n` of a ring descriptor: bits 22:15 are reserved (13_streams.md Table 7, R2). -/
def setRingHalf (d : BitVec 128) (n : Nat) (v : Word) : BitVec 128 :=
  setHalf d n (if n = 0 then v &&& ~~~ 0x7F8000 else v)

def getHalf (d : BitVec 128) (n : Nat) : Word := if n = 0 then toW d.toNat else toW (d.toNat / 2 ^ 64)

def RtCmd.setWord (c : RtCmd) (n : Nat) (v : Word) : RtCmd :=
  match n with
  | 0 => { c with ftz := wbit v 61, word := wf v 31 0 }
  | 1 => { c with da := setDescHalf c.da 0 v }
  | 2 => { c with da := setDescHalf c.da 1 v }
  | 3 => { c with db := setDescHalf c.db 0 v }
  | 4 => { c with db := setDescHalf c.db 1 v }
  | 5 => { c with pc := toW (v.toNat / 4 * 4), syl := wf v 1 0 }
  | _ => c

def RtCmd.zero : RtCmd := ⟨0, false, 0, 0, 0, 0⟩

def CgCmd.recWord (c : CgCmd) (n : Nat) : Word :=
  if n = 0 then toW (bit true 63 + c.token % 32 * 2 ^ 32 + c.word % 2 ^ 32)
  else if n ≤ 10 then c.group.getD (n - 1) 0
  else if n = 11 then c.pc
  else if n = 12 then toW (c.seq % 2 ^ 32)
  else 0

def CgCmd.setWord (c : CgCmd) (n : Nat) (v : Word) : CgCmd :=
  if n = 0 then { c with token := wf v 36 32, word := wf v 31 0 }
  else if n ≤ 10 then { c with group := setAt c.group (n - 1) v }
  else if n = 11 then { c with pc := v }
  else if n = 12 then { c with seq := wf v 31 0 }
  else c

def CgCmd.zero : CgCmd := ⟨0, 0, [], 0, 0⟩

/-- Word `w` of slot `i` of a FIFO. -/
def slotWord {α : Type} (fifo : List α) (f : α → Nat → Word) (i w : Nat) : Word :=
  match fifo[i]? with
  | some c => f c w
  | none => 0

/-- Write word `w` of slot `i` of a FIFO: word 0 makes the slot valid, next after the last, or removes it. -/
def setSlotWord {α : Type} (fifo : List α) (zero : α) (f : α → Nat → Word → α) (i w : Nat) (v : Word) : List α :=
  match fifo[i]? with
  | some c => if w = 0 ∧ wbit v 63 = false then fifo.take i else fifo.set i (f c w v)
  | none => if w = 0 ∧ wbit v 63 = true ∧ i = fifo.length then fifo ++ [f zero 0 v] else fifo

/-- Local-store page `v` is recorded in PAGES (R329): allotted, and assigned since dispatch. -/
def LCore.pageRecorded (l : LCore) (v : Nat) : Bool := l.lsAllotted v && l.lsused.atD v false

/-- The 4-byte local-store map entry `v` of the record; PAGES entries are numbered from `base`. -/
def LCore.mapEntry (l : LCore) (base v : Nat) : Nat :=
  bit (l.lsAllotted v) 31 +
  (if l.pageRecorded v then 2 ^ 30 + (base + ((List.range v).filter l.pageRecorded).length) % 2 ^ 24 else 0)

/-- TRI entry or acc word pairs: the 64-bit word of two 32-bit entries. -/
def pair32 (m : SMap (BitVec 32)) (i : Nat) : Word := toW ((m.atD i 0).toNat + (m.atD (i + 1) 0).toNat * 2 ^ 32)
def setPair32 (m : SMap (BitVec 32)) (i : Nat) (v : Word) : SMap (BitVec 32) :=
  (m.put i (BitVec.ofNat 32 v.toNat) 0).put (i + 1) (BitVec.ofNat 32 (v.toNat / 2 ^ 32)) 0

/-- Four 16-bit counts. -/
def quad16 (m : SMap Nat) (i : Nat) : Word :=
  toW ((List.range 4).foldl (fun a j => a + m.atD (i + j) 0 % 65536 * 65536 ^ j) 0)
def setQuad16 (m : SMap Nat) (i : Nat) (v : Word) : SMap Nat :=
  (List.range 4).foldl (fun m j => m.put (i + j) (v.toNat / 65536 ^ j % 65536) 0) m

def LCore.flagsWord (l : LCore) : Word :=
  toW (l.lcid % 2 ^ 32 + bit l.ap.halted 32 + bit l.ep.halted 33 + bit l.esc.isSome 34 + bit l.trapMode 35)

def heldWord (h : Option (Nat × Word)) (n : Nat) : Word :=
  match h with
  | none => 0
  | some (r, v) => if n = 0 then toW (32 + r % 32) else v

def setHeldWord (h : Option (Nat × Word)) (n : Nat) (v : Word) : Option (Nat × Word) :=
  if n = 0 then if wbit v 5 then some (wf v 4 0, (h.map Prod.snd).getD 0) else none
  else h.map (fun p => (p.1, v))

def followWord (f : Option FollowOn) (n : Nat) : Word :=
  match f with
  | none => 0
  | some c => if n = 0 then toW (2 ^ 63 + c.word % 2 ^ 32) else if n = 1 then c.pc else c.ops.getD (n - 2) 0

def setFollowWord (f : Option FollowOn) (n : Nat) (v : Word) : Option FollowOn :=
  if n = 0 then
    if wbit v 63 then some { (f.getD ⟨0, 0, []⟩) with word := wf v 31 0 } else none
  else f.map (fun c => if n = 1 then { c with pc := v } else { c with ops := setAt c.ops (n - 2) v })

/-- A queue cut or extended with zeros to `n` entries. -/
def resize (q : List Word) (n : Nat) : List Word := q.take n ++ List.replicate (n - q.length) 0

/-- The address at which the AP resumes: the recorded one while a handler runs (R141). -/
def LCore.apResumeAddr (l : LCore) : Word := if l.trapMode then l.apResume else l.ap.pc

/-- The 64-bit word of the record at byte offset `o`, a multiple of 8, as the state has it: words of unused queue entries and
slots are 0. -/
def LCore.stateWord (l : LCore) (base o : Nat) : Word :=
  let n := o / 8
  if o < 0x08 then l.flagsWord
  else if o < 0x10 then l.apResumeAddr
  else if o < 0x18 then l.ep.pc
  else if o < 0x20 then 0
  else if o < 0xD8 then l.ap.regs.atD (n - 3) 0
  else if o < 0xE0 then 0
  else if o < 0x198 then l.ep.regs.atD (n - 27) 0
  else if o < 0x1A0 then 0
  else if o < 0x1E8 then l.ap.loopWord ((n - 52) / 3) ((n - 52) % 3)
  else if o < 0x230 then l.ep.loopWord ((n - 61) / 3) ((n - 61) % 3)
  else if o < 0x330 then getHalf (l.descs.atD ((n - 70) / 2) 0) ((n - 70) % 2)
  else if o < 0x488 then l.launch.atD (launchSel (n - 102)) 0
  else if o < 0x4E0 then l.specialWord (n - 145)
  else if o < 0x4E8 then toW l.pendV.word
  else if o < 0x4F0 then toW l.pendM.word
  else if o < 0x4F8 then l.mxmask
  else if o < 0x500 then toW l.mxProg.word
  else if o < 0x508 then toW l.rtProg.word
  else if o < 0x510 then toW l.ceProg.word
  else if o < 0x518 then toW l.geProg.word
  else if o < 0x520 then toW ((List.range 10).foldl (fun a i => a + l.tokens i % 16 * 16 ^ i) 0)
  else if o < 0x528 then toW l.dlcnt
  else if o < 0x530 then toW ((List.range 8).foldl (fun a i => a + (l.queue i).length % 256 * 256 ^ i) 0)
  else if o < 0x538 then
    toW (l.cq.length + (l.cq.foldr (fun b a => 2 * a + (if b then 1 else 0)) 0) % 2 ^ 32 * 2 ^ 32)
  else if o < 0x548 then heldWord l.ceHeld (n - 167)
  else if o < 0x558 then heldWord l.geHeld (n - 169)
  else if o < 0x560 then 0
  else if o < 0x590 then followWord l.followOn (n - 172)
  else if o < 0x600 then 0
  else if o < 0x700 then getHalf (l.rings.atD ((n - 192) / 2) 0) ((n - 192) % 2)
  else if o < 0x900 then toW (l.mapEntry base (2 * (n - 224)) + l.mapEntry base (2 * (n - 224) + 1) * 2 ^ 32)
  else if o < 0xD00 then (l.queue ((n - 288) / 16)).getD ((n - 288) % 16) 0
  else if o < 0x1020 then pair32 l.tri (2 * (n - 416))
  else if o < 0x1040 then quad16 l.rtcnt (4 * (n - 516))
  else if o < 0x1100 then 0
  else if o < 0x1500 then slotWord l.mxFifo MxCmd.recWord ((n - 544) / 8) ((n - 544) % 8)
  else if o < 0x1700 then slotWord l.rtFifo RtCmd.recWord ((n - 672) / 8) ((n - 672) % 8)
  else if o < 0x1800 then 0
  else if o < 0x2000 then slotWord l.ceFifo CgCmd.recWord ((n - 768) / 16) ((n - 768) % 16)
  else if o < 0x2800 then slotWord l.geFifo CgCmd.recWord ((n - 1024) / 16) ((n - 1024) % 16)
  else if o < 0x2A00 then l.flags.atD (n - 1280) 0
  else if o < 0x2A08 then l.pcsel
  else if o < 0x2A48 then l.pcs.atD (n - 1345) 0
  else if o < 0x4000 then 0
  else if o < 0x8000 then pair32 l.acc (2 * (n - 2048))
  else 0

/-- Write the word at byte offset `o` where the state has a place for it: reserved words, the identity of the logical core, its
launch registers and its local-store map keep their values. -/
def LCore.setStateWord (l : LCore) (o : Nat) (v : Word) : LCore :=
  let n := o / 8
  if o < 0x08 then
    { l with ap := { l.ap with halted := wbit v 32 }, ep := { l.ep with halted := wbit v 33 },
             tstatus := setFld l.tstatus 0 0 (wf v 35 35) }
  else if o < 0x10 then
    if l.trapMode then { l with apResume := v } else { l with ap := { l.ap with pc := v } }
  else if o < 0x18 then { l with ep := { l.ep with pc := v }, epResume := v }
  else if o < 0x20 then l
  else if o < 0xD8 then { l with ap := { l.ap with regs := l.ap.regs.put (n - 3) v 0 } }
  else if o < 0xE0 then l
  else if o < 0x198 then { l with ep := { l.ep with regs := l.ep.regs.put (n - 27) v 0 } }
  else if o < 0x1A0 then l
  else if o < 0x1E8 then { l with ap := l.ap.setLoopWord ((n - 52) / 3) ((n - 52) % 3) v }
  else if o < 0x230 then { l with ep := l.ep.setLoopWord ((n - 61) / 3) ((n - 61) % 3) v }
  else if o < 0x330 then
    { l with descs := l.descs.put ((n - 70) / 2) (setDescHalf (l.descs.atD ((n - 70) / 2) 0) ((n - 70) % 2) v) 0 }
  else if o < 0x488 then l
  else if o < 0x4E0 then l.setSpecialWord (n - 145) v
  else if o < 0x4E8 then { l with pendV := NumStat.ofWord v }
  else if o < 0x4F0 then { l with pendM := NumStat.ofWord v }
  else if o < 0x4F8 then { l with mxmask := v }
  else if o < 0x500 then { l with mxProg := Progress.ofWord v }
  else if o < 0x508 then { l with rtProg := Progress.ofWord v }
  else if o < 0x510 then { l with ceProg := Progress.ofWord v }
  else if o < 0x518 then { l with geProg := Progress.ofWord v }
  else if o < 0x520 then
    { l with rill := (List.range 10).foldl (fun m i => m.put i (v.toNat / 16 ^ i % 16) 0) l.rill }
  else if o < 0x528 then { l with dlcnt := min (2 ^ 20) (wf v 20 0) }
  else if o < 0x530 then
    (List.range 8).foldl (fun l i => l.setQueue i (resize (l.queue i) (min 16 (v.toNat / 256 ^ i % 256)))) l
  else if o < 0x538 then
    { l with cq := (List.range (min 32 (wf v 31 0))).map (fun i => wbit v (32 + i)) }
  else if o < 0x548 then { l with ceHeld := setHeldWord l.ceHeld (n - 167) v }
  else if o < 0x558 then { l with geHeld := setHeldWord l.geHeld (n - 169) v }
  else if o < 0x560 then l
  else if o < 0x590 then { l with followOn := setFollowWord l.followOn (n - 172) v }
  else if o < 0x600 then l
  else if o < 0x700 then
    { l with rings := l.rings.put ((n - 192) / 2) (setRingHalf (l.rings.atD ((n - 192) / 2) 0) ((n - 192) % 2) v) 0 }
  else if o < 0x900 then l
  else if o < 0xD00 then
    let i := (n - 288) / 16
    let j := (n - 288) % 16
    if j < (l.queue i).length then l.setQueue i ((l.queue i).set j v) else l
  else if o < 0x1020 then { l with tri := setPair32 l.tri (2 * (n - 416)) v }
  else if o < 0x1040 then { l with rtcnt := setQuad16 l.rtcnt (4 * (n - 516)) v }
  else if o < 0x1100 then l
  else if o < 0x1500 then { l with mxFifo := setSlotWord l.mxFifo MxCmd.zero MxCmd.setWord ((n - 544) / 8) ((n - 544) % 8) v }
  else if o < 0x1700 then { l with rtFifo := setSlotWord l.rtFifo RtCmd.zero RtCmd.setWord ((n - 672) / 8) ((n - 672) % 8) v }
  else if o < 0x1800 then l
  else if o < 0x2000 then { l with ceFifo := setSlotWord l.ceFifo CgCmd.zero CgCmd.setWord ((n - 768) / 16) ((n - 768) % 16) v }
  else if o < 0x2800 then
    { l with geFifo := setSlotWord l.geFifo CgCmd.zero CgCmd.setWord ((n - 1024) / 16) ((n - 1024) % 16) v }
  else if o < 0x2A00 then if n - 1280 < l.kern.flags then { l with flags := l.flags.put (n - 1280) v 0 } else l
  else if o < 0x2A08 then { l with pcsel := v }
  else if o < 0x2A48 then { l with pcs := l.pcs.put (n - 1345) v 0 }
  else if o < 0x4000 then l
  else if o < 0x8000 then { l with acc := setPair32 l.acc (2 * (n - 2048)) v }
  else l

/-! ### Unused slots (03_registers.md R73)

The bank holds every word that is written to it. A word of a slot that is not in use has no place in the state's lists; it is
kept by its offset until its slot is valid. -/

/-- Word `w` of slot `i` of a FIFO has a place for `v`: the slot is in use, or `v` makes it the next one. -/
def slotTakes {α : Type} (fifo : List α) (i w : Nat) (v : Word) : Bool :=
  decide (i < fifo.length) || (w == 0 && wbit v 63 && i == fifo.length)

/-- The state has a place for word `v` at byte offset `o`. -/
def LCore.takesWord (l : LCore) (o : Nat) (v : Word) : Bool :=
  let n := o / 8
  if o < 0x538 then true
  else if o < 0x548 then l.ceHeld.isSome || (n == 167 && wbit v 5)
  else if o < 0x558 then l.geHeld.isSome || (n == 169 && wbit v 5)
  else if o < 0x560 then true
  else if o < 0x590 then l.followOn.isSome || (n == 172 && wbit v 63)
  else if o < 0x900 then true
  else if o < 0xD00 then decide ((n - 288) % 16 < (l.queue ((n - 288) / 16)).length)
  else if o < 0x1100 then true
  else if o < 0x1500 then slotTakes l.mxFifo ((n - 544) / 8) ((n - 544) % 8) v
  else if o < 0x1700 then slotTakes l.rtFifo ((n - 672) / 8) ((n - 672) % 8) v
  else if o < 0x1800 then true
  else if o < 0x2000 then slotTakes l.ceFifo ((n - 768) / 16) ((n - 768) % 16) v
  else if o < 0x2800 then slotTakes l.geFifo ((n - 1024) / 16) ((n - 1024) % 16) v
  else true

/-- The offsets whose word decides which slots are in use: the occupancies, and word 0 of each slot. -/
def ruling (o : Nat) : Bool :=
  decide (o = 0x528 ∨ o = 0x538 ∨ o = 0x548 ∨ o = 0x560 ∨ 0x1100 ≤ o ∧ o < 0x1700 ∧ o % 64 = 0 ∨ 0x1800 ≤ o ∧ o < 0x2800 ∧ o % 128 = 0)

/-- The offsets of all words that belong to slots. -/
def slotOffsets : List Nat :=
  let run (b n : Nat) : List Nat := (List.range n).map (fun i => b + 8 * i)
  run 0x538 4 ++ run 0x560 6 ++ run 0x900 128 ++ run 0x1100 192 ++ run 0x1800 512

/-- Put the kept words whose slots have come into use in their places. -/
def LCore.adopt (l : LCore) : Nat → LCore
  | 0 => l
  | fuel + 1 =>
    match l.spare.find? (fun p => l.takesWord p.1 p.2) with
    | none => l
    | some p => ({ l.setStateWord p.1 p.2 with spare := l.spare.del p.1 } : LCore).adopt fuel

/-- The words of `l` whose slots are no longer in use in `r` are kept in `r`; the word at `o` is `v` now. -/
def LCore.keepWords (l r : LCore) (o : Nat) (v : Word) : LCore :=
  slotOffsets.foldl (fun r p =>
    let w := if p = o then v else l.stateWord 0 p
    if r.takesWord p w then r else { r with spare := if w = 0 then r.spare else r.spare.ins p w }) r

/-- The word at byte offset `o` of the record. -/
def LCore.recWord (l : LCore) (base o : Nat) : Word :=
  match l.spare.at? o with
  | some v => v
  | none => l.stateWord base o

/-- Write the word at byte offset `o` of the record. -/
def LCore.setRecWord (l : LCore) (o : Nat) (v : Word) : LCore :=
  if l.takesWord o v then
    let r := { l.setStateWord o v with spare := l.spare.del o }
    if ruling o then
      let r1 := l.keepWords r o v
      r1.adopt (r1.spare.length + 1)
    else r
  else { l with spare := l.spare.put o v 0 }

/-- The whole record. -/
def LCore.record (l : LCore) (base : Nat) : List Byte :=
  (List.range (recSize / 8)).flatMap (fun i => bytesOf 8 (l.recWord base (8 * i)).toNat)

/-- A record's words laid over a logical core, from word `i` on. -/
def LCore.ofRecord (l : LCore) (i : Nat) : List Word → LCore
  | [] => l
  | v :: vs => (l.setRecWord (8 * i) v).ofRecord (i + 1) vs

end Sys2Proof.Machine
end

