-- ==== Sys2Proof/Machine/System.lean ====
section
/-! DEFINITION. System and trap instructions, major 0x10 (07_traps.md R145 to R149), and the context instructions, major
0x12 (18_context_image.md R338, R339). -/

namespace Sys2Proof.Machine

/-- Retire, and then trap with `cause`: TEPC is where the stream resumes after that retirement (R145). In the EP the trap
belongs to the retirement of the whole bundle. -/
def execTrapWith (cause : Nat) (q : Rill) (e : Bool) (s : State) : Out :=
  s.onStream fun w =>
    let u : Use := ⟨q, e, true, true, true, [], [], false, 1⟩
    s.issued w u (
      let s1 := s.commit0 w u .next
      match w with
      | .core ep c k =>
        if ep && s.cur.left != 0 then s1
        else
          s1.takeTrap c k ⟨cause, if ep then 1 else 0, if ep then s.cur.syl else 0, ep, ((s1.lcAt k).strm ep).pc, 0⟩
      | .sluice n => s1.sluiceTrap n cause s.cur.next 0)

def execTrap (q : Rill) (e : Bool) (n : Nat) (s : State) : Out := execTrapWith (16 + n) q e s
def execBrk (q : Rill) (e : Bool) (s : State) : Out := execTrapWith cBreak q e s

/-- The AP instruction that ends a handler retires: it is counted, and its stream goes where `f` says. -/
def State.endHandler (s : State) (k : Nat) (f : LCore → LCore) : State :=
  (s.setLc k (f ({ (s.lcAt k) with dlcnt := 0 }.count 2 1))).verdict .done

/-- `rett`: ends the trap (R146); outside trap mode, and under SUBNORMAL-ASSIST, ILLEGAL. In a Sluice core it resumes at
SEPC (15_sluice.md R282). -/
def execRett (s : State) : Out :=
  s.onStream fun w =>
    match w with
    | .core ep _ k =>
      let l := s.lcAt k
      if ep ∨ l.trapMode = false ∨ wf l.tcause 7 0 = cSubnormalAssist then s.illegal w 1
      else s.endHandler k LCore.resume
    | .sluice n =>
      let x := s.slAt n
      if x.trapMode then (s.setSl n { x with sstatus := 0, trapCycles := 0, pc := x.sepc, stall := none }).verdict .done
      else s.illegal w 0

/-- Valid in the AP while a handler runs (R39). -/
def useHandler (srcs dsts : List Nat) : Use := ⟨Rill.none, false, true, false, false, srcs, dsts, true, 0⟩

/-- The stream is an AP in trap mode. -/
def State.inHandler (s : State) (w : Who) : Bool :=
  match w with
  | .core false _ k => (s.lcAt k).trapMode
  | _ => false

/-- The trap that the trap registers describe. -/
def LCore.trapInfo (l : LCore) : TrapInfo :=
  ⟨wf l.tcause 7 0, wf l.tcause 15 8, wf l.tcause 19 16, wbit l.tstatus 1, l.tepc, l.taddr⟩

/-- `escal`: escalates with ga as argument; the handler waits at the next word (R147). -/
def execEscal (a : Nat) (s : State) : Out :=
  s.onStream fun w =>
    let u := useHandler [a] []
    if !s.inHandler w then s.illegal w 1
    else s.issued w u (
      match w with
      | .core _ _ k =>
        let s1 := s.commit0 w u .next
        (s1.escalate k (.escal (s.src w a)) (s1.lcAt k).trapInfo).verdict .done
      | .sluice _ => s)

/-! ### halt (R148) -/

/-- Every copy and gather command of the AP has written its token. -/
def LCore.tokensWritten (l : LCore) : Bool :=
  (match l.ceFifo with
    | [] => true
    | [_] => l.ceProg.done
    | _ => false) &&
  (match l.geFifo with
    | [] => true
    | [_] => l.geProg.done
    | _ => false) && l.ceHeld.isNone && l.geHeld.isNone

/-- Every engine FIFO of the logical core has drained. -/
def LCore.drained (l : LCore) : Bool :=
  l.mxFifo.isEmpty && l.rtFifo.isEmpty && l.ceFifo.isEmpty && l.geFifo.isEmpty && l.followOn.isNone

/-- The rotation list counted forward from logical core `k`, which is left out (R152). -/
def PCore.after (p : PCore) (k : Nat) : List Nat :=
  (p.rot.dropWhile (· != k)).drop 1 ++ p.rot.takeWhile (· != k)

/-- The first of `ks` that firmware does not hold suspended. -/
def State.runnable (s : State) (ks : List Nat) : Option Nat := ks.find? (fun k => (s.lcAt k).esc.isNone)

/-- The logical core that a requested swap, or else rotation, brings in next. -/
def State.nextIn (s : State) (c : Nat) : Option Nat :=
  let p := s.coreAt c
  let turn := match p.active with
    | some a => s.runnable (p.after a)
    | none => s.runnable p.rot
  match p.swapReq with
  | some (.preempt k) => if p.rot.contains k ∧ p.active ≠ some k then some k else turn
  | _ => turn

/-- The logical core ends: it raises its halt line, its queue entries and tokens are discarded, and it leaves rotation; the
next one in the list is due. -/
def State.endLcore (s : State) (c k : Nat) : State :=
  let l := s.lcAt k
  let p := s.coreAt c
  let rot := p.rot.filter (· ≠ k)
  let s1 := s.setLc k { l with ended := true, qs := [], cq := [], rill := [], lsmap := [] }
  s1.setCore c { p with
    rot := rot
    active := none
    swapReq := match p.swapReq with
      | some (.preempt x) => some (.preempt x)
      | _ => (s.runnable (p.after k)).map SwapReq.preempt
    power := if rot = [] then .clockGated else p.power
    emptied := if rot = [] then s.cycle.toNat else p.emptied }

/-- `halt`: ends its stream once its engines have drained. -/
def execHalt (q : Rill) (e : Bool) (s : State) : Out :=
  s.onStream fun w =>
    let u : Use := ⟨q, e, true, true, false, [], [], false, 1⟩
    s.issued w u (
      match w with
      | .sluice _ => s
      | .core ep c k =>
        if !(if ep then (s.lcAt k).drained else (s.lcAt k).tokensWritten) then s.stallOn w .drain
        else
          let s1 := s.commit0 w u .next
          if ep && s.cur.left != 0 then s1
          else
            let l := s1.lcAt k
            let l := l.setStrm ep { l.strm ep with halted := true }
            let s2 := s1.setLc k l
            if l.ap.halted && l.ep.halted then s2.endLcore c k else s2)

/-- `asst.done`: ends an assist trap and rules the fate of the stopped step (R149). -/
def execAsstDone (a : Nat) (s : State) : Out :=
  s.onStream fun w =>
    let u := useHandler [a] []
    if !s.inHandler w then s.illegal w 1
    else s.issued w u (
      match w with
      | .core _ _ k =>
        let l := s.lcAt k
        let v := s.src w a
        if wf l.tcause 7 0 ≠ cSubnormalAssist ∨ 1 < v.toNat then s.illegal w 0
        else s.endHandler k (fun l =>
          -- a vector step is rerun only at its own bundle (R211)
          { l.resume with assist := if l.trapUnit = 2 ∧ l.resume.ep.pc ≠ l.epResume then none else some (l.trapUnit, v == 1) })
      | .sluice _ => s)

/-! ### The inactive bank (R73, R145) -/

/-- The offset is a multiple of 8 inside the record. -/
def recOffsetOk (o : Word) : Bool := o.toNat % 8 == 0 && decide (o.toNat < recSize)

def execBankRd (d a : Nat) (s : State) : Out :=
  s.onStream fun w =>
    let u := useHandler [a] [d]
    if !s.inHandler w then s.illegal w 1
    else s.issued w u (
      match w with
      | .core _ c _ =>
        let o := s.src w a
        if !recOffsetOk o then s.illegal w 0
        else
          let v := match (s.coreAt c).shadow with
            | some j => (s.lcAt j).recWord 0 o.toNat
            | none => 0
          s.commit w u d v .next
      | .sluice _ => s)

def execBankWr (a b : Nat) (s : State) : Out :=
  s.onStream fun w =>
    let u := useHandler [a, b] []
    if !s.inHandler w then s.illegal w 1
    else s.issued w u (
      match w with
      | .core _ c k =>
        let o := s.src w a
        let v := s.src w b
        let p := s.coreAt c
        if !recOffsetOk o then s.illegal w 0
        else if p.held || p.busy then s.stallOn w .bank
        else
          -- a write that has waited for the spill finds the bank empty and is ignored (R73)
          let waited := (s.lcAt k).ap.stall == some .bank
          let s1 := match p.shadow with
            | some j => if waited then s else s.setLc j ((s.lcAt j).setRecWord o.toNat v)
            | none => s
          s1.commit0 w u .next
      | .sluice _ => s)

def execCyc (q : Rill) (e : Bool) (d : Nat) (s : State) : Out :=
  s.onStream fun w =>
    let u := useAsl q e [] [d]
    s.issued w u (s.commit w u d s.cycle .next)

/-! ## Major 0x12 -/

/-- Ask for a rotation, when another logical core is resident (R152). -/
def State.askRotate (s : State) (c : Nat) : State :=
  let p := s.coreAt c
  if 1 < p.rot.length ∧ p.swapReq = none ∧ p.swapping = none then s.setCore c { p with swapReq := some .rotate } else s

/-- `ctx.yield`: at retirement the logical core counts as reaching a blocking wait whose condition is met. -/
def execCtxYield (q : Rill) (e : Bool) (s : State) : Out :=
  s.onStream fun w =>
    let u : Use := ⟨q, e, true, true, false, [], [], false, 1⟩
    s.issued w u (
      match w with
      | .core ep c _ =>
        let s1 := s.commit0 w u .next
        if ep && s.cur.left != 0 then s1 else s1.askRotate c
      | .sluice _ => s)

/-- AP only, outside trap mode. -/
def useAp (q : Rill) (srcs dsts : List Nat) : Use := ⟨q, false, true, false, false, srcs, dsts, false, 1⟩

/-- Stop logging (R331): ARMED ← 0, SETTLING ← 1, without effect while ARMED is clear. -/
def Ctx.dlogStop (c : Ctx) : Ctx := if c.dlArmed then { c with dlArmed := false, dlSettling := true } else c

/-- The page of `va` is pinned and writable. -/
def State.pinnedW (s : State) (ctx va : Nat) : Bool :=
  decide (va < winLocal) &&
  match s.walk ctx va with
  | .leaf _ e size => wbit e 58 && wbit e 3 && mappable (leafPa e size va)
  | .fault _ => false

/-- The control block's fields are in order (R339): alignment, log2n, base, reserved bytes, and a pinned writable ring. -/
def State.dlogBlockOk (s : State) (ctx ga : Nat) (blk : List Byte) : Bool :=
  let base := ofBytes (blk.take 8)
  let log2n := (blk.getD 16 0).toNat
  decide (ga % 64 = 0) && decide (9 ≤ log2n) && decide (log2n ≤ 24) && decide (base % 4096 = 0)
    && decide ((blk.getD 17 0).toNat < 2) && (blk.drop 18).all (· == 0)
    && (List.range (2 ^ log2n * 8 / 4096)).all (fun i => s.pinnedW ctx (base + 4096 * i))

/-- `dlog.arm ga` (R339). -/
def execDlogArm (q : Rill) (a : Nat) (s : State) : Out :=
  s.onStream fun w =>
    let u := useAp q [a] []
    s.issued w u (
      match w with
      | .sluice _ => s
      | .core _ _ k =>
        let ctx := (s.lcAt k).ctx
        let c := s.ctxAt ctx
        if c.dlArmed then (s.setCtx ctx c.dlogStop).stallOn w .sync
        else if c.dlSettling then s.stallOn w .sync
        else
          let ga := (s.src w a).toNat
          s.afterAcc w 0 (s.access ctx k .load ga 64) (fun rs =>
            let blk := s.runsBytes rs
            if !s.dlogBlockOk ctx ga blk then s.raise w 0 cProtection (toW ga)
            else
              let tail := (blk.drop 12).take 4
              let blk' := blk.take 8 ++ tail ++ (blk.drop 12).take 5 ++ [(blk.getD 17 0) &&& 0xFE] ++ blk.drop 18
              let s1 := ((s.readMarks ctx rs).writeMarks ctx rs).putRuns rs blk'
              let c1 := s1.ctxAt ctx
              (s1.setCtx ctx { c1 with dlPtr := ga, dlE := !c1.dlE, dlArmed := true }).commit0 w u .next))

def execDlogStop (q : Rill) (s : State) : Out :=
  s.onStream fun w =>
    let u := useAp q [] []
    s.issued w u (
      match w with
      | .sluice _ => s
      | .core _ _ k =>
        let ctx := (s.lcAt k).ctx
        (s.setCtx ctx (s.ctxAt ctx).dlogStop).commit0 w u .next)

/-- `dlog.pos gd`: head, OVF, ARMED, E, SETTLING; before the first arming there is no block, and head reads 0. -/
def execDlogPos (q : Rill) (d : Nat) (s : State) : Out :=
  s.onStream fun w =>
    let u := useAp q [] [d]
    s.issued w u (
      match w with
      | .sluice _ => s
      | .core _ _ k =>
        let ctx := (s.lcAt k).ctx
        let c := s.ctxAt ctx
        let st := bit c.dlArmed 33 + bit c.dlE 34 + bit c.dlSettling 35
        if c.dlPtr = 0 then s.commit w u d (toW st) .next
        else
          s.afterAcc w 0 (s.access ctx k .load c.dlPtr 64) (fun rs =>
            let blk := s.runsBytes rs
            let v := ofBytes ((blk.drop 8).take 4) + (blk.getD 17 0).toNat % 2 * 2 ^ 32 + st
            (s.readMarks ctx rs).commit w u d (toW v) .next))

end Sys2Proof.Machine
end

