-- ==== Sys2Proof/Machine/Elem.lean ====
section
/-! DEFINITION. Arithmetic on one element of a typed region: the operations of the vector unit and the bank ALUs
(09_numbers.md R173 to R182, 11_vector_arith.md R213 to R223). -/

namespace Sys2Proof.Machine

/-! ## Element types (02_encoding.md Table 5) -/

def tyF64 : Nat := 0
def tyF32 : Nat := 1
def tyBf16 : Nat := 2
def tyF16 : Nat := 3
def tyE4m3 : Nat := 4
def tyE5m2 : Nat := 5
def tyI4 : Nat := 6
def tyTer : Nat := 7
def tyI64 : Nat := 8
def tyI32 : Nat := 9
def tyI16 : Nat := 10
def tyI8 : Nat := 11
def tyU32 : Nat := 12
def tyU16 : Nat := 13
def tyU8 : Nat := 14
def tyB1 : Nat := 15

/-- Bits of an element. -/
def tyBits (ty : Nat) : Nat :=
  match ty with
  | 0 => 64
  | 1 => 32
  | 2 => 16
  | 3 => 16
  | 4 => 8
  | 5 => 8
  | 6 => 4
  | 7 => 2
  | 8 => 64
  | 9 => 32
  | 10 => 16
  | 11 => 8
  | 12 => 32
  | 13 => 16
  | 14 => 8
  | _ => 1

/-- The floating-point format of a type code. -/
def tyFmt (ty : Nat) : Option Fmt :=
  match ty with
  | 0 => some fp64
  | 1 => some fp32
  | 2 => some bf16
  | 3 => some fp16
  | 4 => some e4m3
  | 5 => some e5m2
  | _ => none

def tyFloat (ty : Nat) : Bool := decide (ty < 6)
/-- Whether an integer type is signed. -/
def tySigned (ty : Nat) : Bool := ty == 6 || (8 ≤ ty && ty ≤ 11)
/-- .i64 .i32 .i16 .i8 .u32 .u16 .u8. -/
def tyInt8up (ty : Nat) : Bool := 8 ≤ ty && ty ≤ 14
/-- The types of `vadd`: the floats and the integers of 8 bits or more. -/
def tyArith (ty : Nat) : Bool := tyFloat ty || tyInt8up ty

/-- The integer value of a pattern of an integer, ternary or bit type. -/
def tyVal (ty x : Nat) : Int :=
  if ty = 7 then (match x % 4 with
    | 1 => 1
    | 3 => -1
    | _ => 0)
  else if tySigned ty then sextZ (tyBits ty) (x % 2 ^ tyBits ty) else ((x % 2 ^ tyBits ty : Nat) : Int)

/-- The pattern of an integer in a type, modulo its width. -/
def tyPat (ty : Nat) (n : Int) : Nat := (n % (2 ^ tyBits ty : Nat)).toNat

def tyMin (ty : Nat) : Int :=
  if ty = 7 then -1 else if tySigned ty then -(2 ^ (tyBits ty - 1) : Nat) else 0
def tyMax (ty : Nat) : Int :=
  if ty = 7 then 1 else if tySigned ty then (2 ^ (tyBits ty - 1) : Nat) - 1 else (2 ^ tyBits ty : Nat) - 1

/-- The pattern of an integer that fits the type: a ternary result is one of the codes 0, 1, 3. -/
def tyEnc (ty : Nat) (n : Int) : Nat :=
  if ty = 7 then (if n = 0 then 0 else if n < 0 then 3 else 1) else tyPat ty n

def RRes.ok (b : Nat) : RRes := ⟨b, 0, false⟩
def RRes.addFlags (r : RRes) (f : Nat) : RRes := { r with flags := r.flags ||| f }
def flagIf (b : Bool) (f : Nat) : Nat := if b then f else 0

/-! ## Addition, product, fused product (R213) -/

def deliver (f : Fmt) (rm : RMode) (sub : Sub) (x : FVx) : RRes := (x.1.round f rm sub).addFlags (flagIf x.2 nv)

def addE (ty : Nat) (rm : RMode) (sub : Sub) (x y : Nat) : RRes :=
  match tyFmt ty with
  | some f => deliver f rm sub (FV.add rm (f.value x) (f.value y))
  | none => .ok ((x + y) % 2 ^ tyBits ty)

def subE (ty : Nat) (rm : RMode) (sub : Sub) (x y : Nat) : RRes :=
  match tyFmt ty with
  | some f => deliver f rm sub (FV.add rm (f.value x) (f.value y).negate)
  | none => .ok ((x + (2 ^ tyBits ty - y % 2 ^ tyBits ty)) % 2 ^ tyBits ty)

def mulE (ty : Nat) (rm : RMode) (sub : Sub) (x y : Nat) : RRes :=
  match tyFmt ty with
  | some f => deliver f rm sub (FV.mul (f.value x) (f.value y))
  | none => .ok (x * y % 2 ^ tyBits ty)

/-- The exact a · b + c; a NaN operand comes before an invalid product. -/
def FV.fma (rm : RMode) (a b c : FV) : FVx :=
  if a.isNan || b.isNan || c.isNan then (.nan false, a.isSig || b.isSig || c.isSig)
  else
    let p := FV.mul a b
    if p.2 then (.nan false, true) else FV.add rm p.1 c

def macE (ty : Nat) (rm : RMode) (sub : Sub) (x y c : Nat) : RRes :=
  match tyFmt ty with
  | some f => deliver f rm sub (FV.fma rm (f.value x) (f.value y) (f.value c))
  | none => .ok ((x * y + c) % 2 ^ tyBits ty)

/-! ## Minimum, maximum, sign, comparison (R214, R215) -/

/-- `vmin` (`big` = false) and `vmax`. -/
def minmaxE (big : Bool) (ty x y : Nat) : RRes :=
  match tyFmt ty with
  | some f =>
    let a := f.value x
    let b := f.value y
    if a.isNan || b.isNan then ⟨f.nanBits, flagIf (a.isSig || b.isSig) nv, false⟩
    else if a.isZero && b.isZero then .ok (f.signBit (if big then a.neg && b.neg else a.neg || b.neg))
    else .ok (if (if big then FV.lt a b else FV.lt b a) then y else x)
  | none =>
    let a := tyVal ty x
    let b := tyVal ty y
    .ok (if (if big then decide (a < b) else decide (b < a)) then y else x)

def absE (ty x : Nat) : RRes :=
  match tyFmt ty with
  | some f => .ok (x % 2 ^ (f.width - 1))
  | none => .ok (tyPat ty (tyVal ty x).natAbs)

def negE (ty x : Nat) : RRes :=
  match tyFmt ty with
  | some f => .ok ((x + 2 ^ (f.width - 1)) % 2 ^ f.width)
  | none => .ok (tyPat ty (-(tyVal ty x)))

/-- The four comparisons. -/
inductive Cmp where
  | eq
  | ne
  | lt
  | le
  deriving DecidableEq, Repr

def cmpE (c : Cmp) (ty x y : Nat) : RRes :=
  match tyFmt ty with
  | some f =>
    let a := f.value x
    let b := f.value y
    let unord := a.isNan || b.isNan
    let r := match c with
      | .eq => FV.eq a b
      | .ne => !FV.eq a b
      | .lt => FV.lt a b
      | .le => !unord && !FV.lt b a
    let ordered := match c with
      | .lt => true
      | .le => true
      | _ => false
    ⟨if r then 1 else 0, flagIf (a.isSig || b.isSig || (ordered && unord)) nv, false⟩
  | none =>
    let a := tyVal ty x
    let b := tyVal ty y
    let r := match c with
      | .eq => decide (a = b)
      | .ne => decide (a ≠ b)
      | .lt => decide (a < b)
      | .le => decide (a ≤ b)
    .ok (if r then 1 else 0)

/-! ## Integer and bit functions (R218) -/

def shlE (ty x k : Nat) : RRes := .ok (if k < tyBits ty then x * 2 ^ k % 2 ^ tyBits ty else 0)
def shrE (ty x k : Nat) : RRes := .ok (if k < tyBits ty then x / 2 ^ k else 0)
def sraE (ty x k : Nat) : RRes := .ok (tyPat ty (tyVal ty x / (2 ^ (min k (tyBits ty - 1)) : Nat)))
def mulhE (ty x y : Nat) : RRes := .ok (tyPat ty (tyVal ty x * tyVal ty y / (2 ^ tyBits ty : Nat)))

/-! ## Transcendental operations (R221 to R223) -/

/-- The rounding of a value whose mathematical result is irrational: NX is set, and UF when it is tiny. -/
def roundIrr (f : Fmt) (rm : RMode) (sub : Sub) (neg : Bool) (m : Nat) (e : Int) : RRes :=
  let r := roundTo f rm (subFor f sub) false neg m e
  if r.assist then r
  else r.addFlags (nx + flagIf (roundTo f rm .assist false neg m e).assist uf)

def exp2T (j : Nat) : Nat :=
  match j with
  | 0 => 0x40000000
  | 1 => 0x45CAE0F2
  | 2 => 0x4C1BF829
  | 3 => 0x52FF6B55
  | 4 => 0x5A82799A
  | 5 => 0x62B39509
  | 6 => 0x6BA27E65
  | _ => 0x75606374

/-- R222: the value m · 2^(i − 30) for the fixed-point argument F = x · 2^24. -/
def exp2Fixed (bigF : Int) : Nat × Int :=
  let i := bigF / 16777216
  let f := (bigF - i * 16777216).toNat
  let h := f % 2097152 * 256
  let p := [0x0276556E, 0x0E35846C, 0x3D7F7BFF, 0xB17217F8].foldl (fun p c => c + p * h / 2 ^ 32) 0x00576200
  let p := p * h / 2 ^ 32
  let t := exp2T (f / 2097152)
  let m := t + t * p / 2 ^ 32
  (if 2 ^ 31 ≤ m then 2 ^ 31 - 1 else m, i - 30)

/-- A finite value is an integer. -/
def isInteger (m : Nat) (e : Int) : Bool := decide (0 ≤ e) || m % 2 ^ (-e).toNat == 0

/-- `vexp2` of a value, delivered in format `f`. -/
def exp2V (f : Fmt) (rm : RMode) (sub : Sub) (v : FV) : RRes :=
  match v with
  | .nan s => ⟨f.nanBits, flagIf s nv, false⟩
  | .inf false => .ok (f.infBits false)
  | .inf true => .ok 0
  | .fin neg m e =>
    let x128 := !FV.lt v (.fin false 128 0)
    let low := FV.lt v (.fin true 150 0)
    if x128 then roundTo f rm (subFor f sub) false false 1 4096
    else if low then roundIrr f rm sub false 1 (-151)
    else
      let (q, _) := roundAt .rne neg m e (-24)
      let (bm, be) := exp2Fixed (if neg then -(q : Int) else q)
      if isInteger m e then roundTo f rm (subFor f sub) false false bm be
      else roundIrr f rm sub false bm be

/-- R223: log2 of N · 2^(e − 23), as a multiple of 2^−30. -/
def log2Fixed (n : Nat) (e : Int) : Int :=
  let big := decide (0xB504F3 ≤ n)
  let num : Int := if big then (n : Int) - 16777216 else (n : Int) - 8388608
  let den : Int := if big then (n : Int) + 16777216 else (n : Int) + 8388608
  let e := if big then e + 1 else e
  let s := Int.tdiv (num * 2 ^ 32) den
  let z := s * s / 2 ^ 32
  let p := [0x1A61762A, 0x24EED8A2, 0x3D8E13B8, 0xB8AA3B29].foldl (fun p a => a + p * z / 2 ^ 32) (0x1484B13D : Int)
  e * 2 ^ 30 + p * s / 2 ^ 32

def log2V (f : Fmt) (rm : RMode) (sub : Sub) (v : FV) : RRes :=
  match v with
  | .nan s => ⟨f.nanBits, flagIf s nv, false⟩
  | .inf false => .ok (f.infBits false)
  | .inf true => ⟨f.nanBits, nv, false⟩
  | .fin neg m e =>
    if m = 0 then ⟨f.infBits true, dz, false⟩
    else if neg then ⟨f.nanBits, nv, false⟩
    else
      -- normalise to 2^23 ≤ N < 2^24
      let n := if m.log2 ≤ 23 then m * 2 ^ (23 - m.log2) else m / 2 ^ (m.log2 - 23)
      let l := log2Fixed n ((m.log2 : Int) + e)
      if m = 2 ^ m.log2 then roundTo f rm (subFor f sub) false (decide (l < 0)) l.natAbs (-30)
      else roundIrr f rm sub (decide (l < 0)) l.natAbs (-30)

def rcpV (f : Fmt) (rm : RMode) (sub : Sub) (v : FV) : RRes :=
  match v with
  | .nan s => ⟨f.nanBits, flagIf s nv, false⟩
  | .inf neg => .ok (f.signBit neg)
  | .fin neg m e =>
    if m = 0 then ⟨f.infBits neg, dz, false⟩
    else
      let (q, u) := divSticky 70 1 0 m e
      roundTo f rm (subFor f sub) false neg q u

def rsqrtV (f : Fmt) (rm : RMode) (sub : Sub) (v : FV) : RRes :=
  match v with
  | .nan s => ⟨f.nanBits, flagIf s nv, false⟩
  | .inf false => .ok 0
  | .inf true => ⟨f.nanBits, nv, false⟩
  | .fin neg m e =>
    if m = 0 then ⟨f.infBits neg, dz, false⟩
    else if neg then ⟨f.nanBits, nv, false⟩
    else
      let odd := e % 2 ≠ 0
      let m := if odd then 2 * m else m
      let e := if odd then e - 1 else e
      let s := 71 + m.log2 / 2
      let q := isqrt (2 ^ (2 * s) / m)
      let st := if q * q * m = 2 ^ (2 * s) then 0 else 1
      roundTo f rm (subFor f sub) false false (2 * q + st) (-(s : Int) - 1 - e / 2)

/-- A transcendental operation on a pattern of `ty`. -/
def transE (op : Fmt → RMode → Sub → FV → RRes) (ty : Nat) (rm : RMode) (sub : Sub) (x : Nat) : RRes :=
  match tyFmt ty with
  | some f => op f rm sub (f.value x)
  | none => .ok 0

/-! ## Conversions (R179 to R182) -/

/-- A NaN converted between formats: the sign kept, the fraction truncated or widened, quietened. -/
def cvtNan (f t : Fmt) (x : Nat) : Nat :=
  let neg := fld x (f.width - 1) (f.width - 1) == 1
  if t.e4m3 then t.signBit neg + 127
  else
    let fr := x % 2 ^ f.frac
    let g := if f.frac ≤ t.frac then fr * 2 ^ (t.frac - f.frac) else fr / 2 ^ (f.frac - t.frac)
    t.signBit neg + (2 ^ t.expo - 1) * 2 ^ t.frac + (g ||| 2 ^ (t.frac - 1))

/-- cvt_ff on a value that is no NaN. -/
def cvtTo (t : Fmt) (rm : RMode) (sub : Sub) (sat : Bool) (v : FV) : RRes :=
  match v with
  | .nan _ => .ok t.nanBits
  | .inf neg =>
    if sat then ⟨t.maxBits neg, fof, false⟩
    else if t.e4m3 then ⟨t.infBits neg, nv, false⟩
    else .ok (t.infBits neg)
  | .fin neg m e => roundTo t rm (subFor t sub) sat neg m e

/-- cvt_fi. -/
def cvtInt (ty : Nat) (rm : RMode) (v : FV) : RRes :=
  match v with
  | .nan _ => ⟨0, nv, false⟩
  | .inf neg => ⟨tyEnc ty (if neg then tyMin ty else tyMax ty), fof, false⟩
  | .fin neg m e =>
    let (n, ix) := roundInteger rm neg m e
    if tyMax ty < n then ⟨tyEnc ty (tyMax ty), fof + nx, false⟩
    else if n < tyMin ty then ⟨tyEnc ty (tyMin ty), fof + nx, false⟩
    else ⟨tyEnc ty n, flagIf ix nx, false⟩

/-- cvt_ii. -/
def cvtIntInt (ty : Nat) (n : Int) : RRes :=
  if tyMax ty < n then ⟨tyEnc ty (tyMax ty), fof, false⟩
  else if n < tyMin ty then ⟨tyEnc ty (tyMin ty), fof, false⟩
  else .ok (tyEnc ty n)

/-- The conversion of pattern `x` of type `src` into type `dst`. -/
def convertE (src dst : Nat) (rm : RMode) (sub : Sub) (sat : Bool) (x : Nat) : RRes :=
  match tyFmt src, tyFmt dst with
  | some f, some t =>
    match f.value x with
    | .nan s => ⟨cvtNan f t x, flagIf s nv, false⟩
    | v => cvtTo t rm sub sat v
  | some f, none => cvtInt dst rm (f.value x)
  | none, some t => cvtTo t rm sub sat (FV.ofInt (tyVal src x))
  | none, none => cvtIntInt dst (tyVal src x)

/-- Conversions to these types update AMAX (R182). -/
def amaxTarget (ty : Nat) : Bool := 2 ≤ ty && ty ≤ 5

/-- What a source element contributes to AMAX: a NaN, or its magnitude rounded up to FP32. -/
def amaxOf (src x : Nat) : Bool × Nat :=
  let v := match tyFmt src with
    | some f => f.value x
    | none => FV.ofInt (tyVal src x)
  match v with
  | .nan _ => (true, 0)
  | .inf _ => (false, 0x7F800000)
  | .fin _ m e => (false, (roundTo fp32 .rup .gradual false false m e).bits)

/-! ## Immediates (R181) -/

/-- The element of `vseti`. -/
def immInt (ty imm : Nat) : Nat :=
  let n := sextZ 16 (imm % 65536)
  match tyFmt ty with
  | some f => (cvtTo f .rne .gradual true (FV.ofInt n)).bits
  | none => if ty = 7 then (if imm % 4 = 2 then 0 else imm % 4) else if ty = 15 then imm % 2 else tyPat ty n

/-- The element of `vsetf`. -/
def immFloat (ty imm : Nat) : Nat :=
  let v := bf16.value (imm % 65536)
  match tyFmt ty with
  | some f =>
    if v.isNan then f.nanBits
    else if ty = 2 then imm % 65536
    else (cvtTo f .rne .gradual (decide (3 ≤ ty)) v).bits
  | none => (cvtInt ty .rne v).bits

end Sys2Proof.Machine
end

