-- ==== Sys2Proof/Machine/Operands.lean ====
section
/-! DEFINITION. Operand forms of the vector and rotator units: region descriptors, the walk, elements and their checks
(03_registers.md R61, 11_vector_arith.md R205 to R210, 06_rotator.md R117). -/

namespace Sys2Proof.Machine

/-- A region, as a descriptor gives it (03_registers.md Table 3). -/
structure Region where
  base : Nat
  ty : Nat
  count0 : Nat
  stride0 : Int
  count1 : Nat
  stride1 : Int
  deriving DecidableEq, Repr

def Region.of (d : BitVec 128) : Region where
  base := fld d.toNat 20 0
  ty := fld d.toNat 25 21
  count0 := fld d.toNat 41 26
  stride0 := sextZ 16 (fld d.toNat 57 42)
  count1 := fld d.toNat 73 58
  stride1 := sextZ 16 (fld d.toNat 89 74)

def LCore.region (l : LCore) (n : Nat) : Region := Region.of (l.descs.atD n 0)

/-- The number of elements. -/
def Region.size (r : Region) : Nat := r.count0 * r.count1

/-- The bits of an element: their first bit position in the window, their number, and whether the region's base breaks
the alignment rule. -/
structure El where
  pos : Int
  b : Nat
  mis : Bool
  deriving DecidableEq, Repr

/-- The element at coordinates (e0, e1) (R205). -/
def Region.at2 (r : Region) (e0 e1 : Nat) : El :=
  let b := tyBits r.ty
  ⟨8 * r.base + b * (e0 * r.stride0 + e1 * r.stride1), b, decide (8 ≤ b) && r.base % (b / 8) != 0⟩

/-- Element `n` of the walk: dimension 0 runs fastest. -/
def Region.el (r : Region) (n : Nat) : El := r.at2 (n % r.count0) (n / r.count0)

/-- The window address of the element's first byte, modulo 2^64. -/
def El.va (x : El) : Word := ofZ ((winLocal : Int) + x.pos / 8)

/-- The bytes the element touches: their window offset and number. -/
def El.off (x : El) : Nat := (x.pos / 8).toNat
def El.len (x : El) : Nat := (x.b + 7) / 8

def El.outside (x : El) : Bool := decide (x.pos < 0) || decide (2 ^ 24 < x.pos + x.b)

/-- What the checks of elements answer. -/
inductive Chk where
  | ok
  | fault (cause : Nat) (addr : Word)
  | wait (p : Nat)
  deriving DecidableEq, Repr

/-- A page that the element lies on, none of whose like is allotted. -/
def LCore.elUnallotted (l : LCore) (x : El) : Bool :=
  !l.lsAllotted (x.off / 16384) || !l.lsAllotted ((x.off + x.len - 1) / 16384)

/-- The page of the element that is allotted and not present. -/
def LCore.elAbsent (l : LCore) (x : El) : Option Nat :=
  if !l.lsPresent (x.off / 16384) then some (x.off / 16384)
  else if !l.lsPresent ((x.off + x.len - 1) / 16384) then some ((x.off + x.len - 1) / 16384)
  else none

/-- Checks 2 to 5 of Table 3 of 11_vector_arith.md over the elements of one beat, check by check, then presence. A base is tested
through the elements that are accessed: where none is, no MISALIGNED is raised (DEDUCED, log entry 63). -/
def State.checkEls (s : State) (l : LCore) (els : List El) : Chk :=
  match els.find? El.mis with
  | some x => .fault cMisaligned x.va
  | none =>
    match els.find? El.outside with
    | some x => .fault cProtection x.va
    | none =>
      match els.find? l.elUnallotted with
      | some x => .fault cPageFault x.va
      | none =>
        match els.find? (fun x => s.inRange l.ctx (winLocal + x.off) x.len) with
        | some x => .fault cCollectiveRange x.va
        | none =>
          match els.findSome? l.elAbsent with
          | some p => .wait p
          | none => .ok

/-- The physical address of window offset `o` of a logical core whose page is present. -/
def LCore.lsPa (l : LCore) (o : Nat) : Nat := paLocal l.core + l.lsPage (o / 16384) * 16384 + o % 16384

/-- The bytes of the logical core's local store from window offset `o`. -/
def State.lsBytes (s : State) (l : LCore) (o : Nat) : Nat → List Byte
  | 0 => []
  | n + 1 => s.rawByte (l.lsPa o) :: s.lsBytes l (o + 1) n

def State.setLsBytes (s : State) (l : LCore) (o : Nat) : List Byte → State
  | [] => s
  | b :: bs => (s.setRaw (l.lsPa o) b).setLsBytes l (o + 1) bs

/-- The pattern of an element. -/
def State.readEl (s : State) (l : LCore) (x : El) : Nat :=
  ofBytes (s.lsBytes l x.off x.len) / 2 ^ (x.pos % 8).toNat % 2 ^ x.b

/-- Write the pattern of an element: the other bits of its bytes keep their value. -/
def State.writeEl (s : State) (l : LCore) (x : El) (v : Nat) : State :=
  let old := ofBytes (s.lsBytes l x.off x.len)
  let sh := (x.pos % 8).toNat
  let new := old - old / 2 ^ sh % 2 ^ x.b * 2 ^ sh + v % 2 ^ x.b * 2 ^ sh
  s.setLsBytes l x.off (bytesOf x.len new)

def State.writeEls (s : State) (l : LCore) (ws : List (El × Nat)) : State :=
  ws.foldl (fun s w => s.writeEl l w.1 w.2) s

/-- Registers `g`, `g` + 1, … of a register group (13_streams.md R245). -/
def groupRegs (g n : Nat) : List Nat := (List.range n).map (g + ·)

end Sys2Proof.Machine
end

