-- ==== Sys2Proof/Machine/Sync.lean ====
section
/-! DEFINITION. Sync objects and fences, major 0x11 (10_consistency.md R190 to R196, 12_vector_data.md R238). Every access
of the model is performed when its step is taken; what is left to wait for is a multicast store in flight and, for
`fence fabric`, a running collective. -/

namespace Sys2Proof.Machine

/-- A fault on pinned memory: the trap escalates at once as a pinning error (07_traps.md R147). -/
def State.pinningError (s : State) (c k : Nat) (t : TrapInfo) : State :=
  let l := (s.lcAt k).trapped t
  let s1 := ((s.setLc k l).writeRecord c k t s.cycle l.trapMode true).setLc k
    { l.stopEngines with pend := [], trapReq := none, esc := some ⟨.pinning, t, false⟩ }
  (s1.report (.pinning l.ctx t.addr)).verdict .trapped

/-- The virtual address of entry `n` of the context's sync-object table. -/
def Ctx.soVa (c : Ctx) (n : Nat) : Nat := (c.sotab + 128 * n) % 2 ^ 64

/-- Word `w` of an entry's 128 bytes. -/
def soWord (blk : List Byte) (w : Nat) : Word := toW (ofBytes ((blk.drop (8 * w)).take 8))

/-- An entry counts as invalid (R191). -/
def soInvalid (blk : List Byte) : Bool :=
  let w0 := soWord blk 0
  let nr := wf w0 34 32
  !wbit w0 63 || decide (4 < nr) || wf w0 62 35 != 0 || soWord blk 1 != 0
  || (List.range 4).any (fun k =>
      wf (soWord blk (2 + 2 * k)) 63 57 != 0 || wf (soWord blk (2 + 2 * k)) 6 0 != 0 || wf (soWord blk (3 + 2 * k)) 63 32 != 0)
  || (List.range 6).any (fun i => soWord blk (10 + i) != 0)
  || (List.range nr).any (fun k =>
      let base := wf (soWord blk (2 + 2 * k)) 56 7 * 128
      let len := wf (soWord blk (3 + 2 * k)) 31 0 * 128
      decide (len ≠ 0) && decide (winLocal < base + len))

/-- Generation of an entry. -/
def soGen (blk : List Byte) : Nat := wf (soWord blk 0) 31 0

/-- Valid in the AP and the S slot, outside trap mode. -/
def useAs (q : Rill) (e : Bool) (srcs dsts : List Nat) : Use := ⟨q, e, true, true, false, srcs, dsts, false, 1⟩

/-- Read the object that ga names and go on: a number above 1,023 raises PROTECTION, a fault on the table is a pinning
error (R238). -/
def State.withObject (s : State) (w : Who) (ga : Word) (f : Nat → List Run → List Byte → State) : State :=
  match w with
  | .sluice _ => s
  | .core ep c k =>
    let ctx := (s.lcAt k).ctx
    let va := (s.ctxAt ctx).soVa ga.toNat
    if 1024 ≤ ga.toNat then s.raise w 1 cProtection (toW va)
    else
      match s.runs ctx k .load 2 va 128 with
      | .ok rs => f va rs ((s.runsBytes rs))
      | .fault cause addr _ =>
        s.pinningError c k ⟨cause, if ep then 1 else 0, if ep then s.cur.syl else 0, ep, s.cur.pc, addr⟩
      | .wait j p => s.stallOn w (.page j p)

/-- A multicast store of logical core `k` is in flight, seen from scope `scope`: scope 0 asks for the core's own bytes only. -/
def State.mcPending (s : State) (k scope : Nat) : Bool :=
  s.multicasts.any (fun m => m.writer == k && (scope != 0 || m.targets.contains k))

/-- What has started so far of what a `fence fabric` of stream `w` covers. -/
def State.fenceCount (s : State) (w : Who) : Nat :=
  match w with
  | .core _ _ k => (s.ctxAt (s.lcAt k).ctx).collCount
  | .sluice n => (s.slAt n).xferCount

/-- What the stream `w` stalls on. -/
def State.stallOf (s : State) (w : Who) : Option StallOn :=
  match w with
  | .core ep _ k => ((s.lcAt k).strm ep).stall
  | .sluice n => (s.slAt n).stall

/-- What the fence that stream `w` runs covers: what had started when it first waited (R195, R283). -/
def State.fenceBound (s : State) (w : Who) : Nat :=
  match s.stallOf w with
  | some (.fence b) => b
  | _ => s.fenceCount w

/-- What a `fence` of scope `scope` waits for (R195, R283): of the accesses, a multicast store in flight, since every other
one is performed in its step; and for scope 4 the collectives or transfers that it covers. -/
def State.fencePending (s : State) (w : Who) (scope : Nat) : Bool :=
  match w with
  | .core _ _ k => s.mcPending k scope || (scope == 4 && s.collsOf k (s.fenceBound w))
  | .sluice n => scope == 4 && s.transfersOf n (s.fenceBound w)

/-- Go on with `f`, or wait as `fence k` does. -/
def State.fenced (s : State) (w : Who) (k : Nat) (f : State) : State :=
  if s.fencePending w k then s.stallOn w (.fence (s.fenceBound w)) else f

/-- An `acq`, `rel` or `acq.gen` on an invalid entry acts as `fence core`, and the sync-error counter counts it (R191). -/
def State.asFenceCore (s : State) (w : Who) (u : Use) (rs : List Run) : State :=
  s.fenced w 0 (((s.readMarks (s.ctxOf w) rs).countErr 1).commit0 w u .next)

def execAcq (q : Rill) (e : Bool) (a : Nat) (s : State) : Out :=
  s.onStream fun w =>
    let u := useAs q e [a] []
    s.issued w u (s.withObject w (s.src w a) (fun _ rs blk =>
      if soInvalid blk then s.asFenceCore w u rs else (s.readMarks (s.ctxOf w) rs).commit0 w u .next))

/-- `rel`: adds 1 to GEN modulo 2^32 at the entry's home; on an invalid entry it acts as `fence core` (R191, R192). -/
def execRel (q : Rill) (e : Bool) (a : Nat) (s : State) : Out :=
  s.onStream fun w =>
    let u := useAs q e [a] []
    s.issued w u (s.withObject w (s.src w a) (fun _ rs blk =>
      let ctx := s.ctxOf w
      if soInvalid blk then s.asFenceCore w u rs
      else
        let w0 := setFld (soWord blk 0) 31 0 (soGen blk + 1)
        (((s.readMarks ctx rs).writeMarks ctx rs).putRuns rs (bytesOf 8 w0.toNat ++ blk.drop 8)).commit0 w u .next))

/-- `acq.gen`: another generation raises STALE-GENERATION, before validity is asked (R191, R192). -/
def execAcqGen (q : Rill) (e : Bool) (a b : Nat) (s : State) : Out :=
  s.onStream fun w =>
    let u := useAs q e [a, b] []
    s.issued w u (s.withObject w (s.src w a) (fun va rs blk =>
      if soGen blk ≠ (s.src w b).toNat % 2 ^ 32 then s.raise w 1 cStaleGeneration (toW va)
      else if soInvalid blk then s.asFenceCore w u rs
      else (s.readMarks (s.ctxOf w) rs).commit0 w u .next))

/-- `so.gen`: gd ← GEN, zero-extended; it orders nothing. -/
def execSoGen (q : Rill) (e : Bool) (d a : Nat) (s : State) : Out :=
  s.onStream fun w =>
    let u := useAs q e [a] [d]
    s.issued w u (s.withObject w (s.src w a) (fun _ rs blk =>
      (s.readMarks (s.ctxOf w) rs).commit w u d (toW (soGen blk)) .next))

def execFence (q : Rill) (e : Bool) (k : Nat) (s : State) : Out :=
  s.onStream fun w =>
    let u := useAsl q e [] []
    if 4 < k then s.illegal w 1
    else s.issued w u (s.fenced w k (s.commit0 w u .next))

end Sys2Proof.Machine
end

