-- ==== Sys2Proof/Machine/Atomics.lean ====
section
/-! DEFINITION. Scalar bank-ALU atomics, major 0x07 (12_vector_data.md R234, R235; 08_memory.md R162). -/

namespace Sys2Proof.Machine

/-- Where a bank-ALU operation of logical core `k` on the `n` bytes at `va` is performed: basin, or a NORMAL page with Ra
and W; checks 2 to 5 of Table 3 of R235. -/
def State.amoRuns (s : State) (ctx k va n : Nat) : Acc (List Run) :=
  if va < winLocal then
    match s.walk ctx va with
    | .fault c => .fault c (toW va) false
    | .leaf at_ e size =>
      let pa := leafPa e size va
      if !mappable pa then .fault cProtection (toW va) true
      else if !(wbit e 2 && wbit e 3) || wf e 57 56 != 0 then .fault cProtection (toW va) false
      else if s.inRange ctx va n then .fault cCollectiveRange (toW va) false
      else .ok [⟨va, .phys pa (some at_), n⟩]
  else if winBasin ≤ va ∧ va < winFault then s.access ctx k .store va n
  else .fault cProtection (toW va) false

/-- Perform `f` on the `n` bytes at `va` at their home: the old value and the state after. -/
def State.bankAlu (s : State) (w : Who) (va n : Nat) (f : Nat → Nat) : Acc (Nat × State) :=
  match w with
  | .core _ _ k =>
    let ctx := (s.lcAt k).ctx
    (s.amoRuns ctx k va n).map (fun rs =>
      let old := ofBytes (s.runsBytes rs)
      (old, ((s.readMarks ctx rs).writeMarks ctx rs).putRuns rs (bytesOf n (f old))))
  | .sluice i =>
    (s.slPlace i va n).bind (fun p =>
      match p with
      | .basin pa =>
        let old := ofBytes (s.physBytes pa n)
        .ok (old, s.setPhyss pa (bytesOf n (f old)))
      | _ => .fault cProtection (toW va) false)

/-- The element type of an `amo`, by func[1:0] (R37). -/
def amoType (ty : Nat) : Nat :=
  match ty with
  | 0 => tyI32
  | 1 => tyI64
  | 2 => tyF32
  | _ => tyBf16

/-- The old value as gd receives it (R234). -/
def amoOld (ty old : Nat) : Word := if ty = tyI32 then sext 32 old else toW old

/-- The operation of a bank ALU: tiny results are delivered with gradual underflow, no flag is set. -/
inductive AmoOp where
  | add
  | min
  | max
  | swap
  | cas
  | and
  | or
  deriving DecidableEq, Repr

/-- The new value from the old value x, the operand y and, for `amo.cas`, the comparand c (Table 2). -/
def AmoOp.apply (op : AmoOp) (ty x y c : Nat) : Nat :=
  let m := 2 ^ tyBits ty
  match op with
  | .add => (addE ty .rne .gradual x (y % m)).bits
  | .min => (minmaxE false ty x (y % m)).bits
  | .max => (minmaxE true ty x (y % m)).bits
  | .swap => y % m
  | .cas => if x = c % m then y % m else x
  | .and => x &&& y % m
  | .or => x ||| y % m

/-- `amo.op.T gd, ga, gb`; `amo.cas` also reads gd. -/
def execAmo (op : AmoOp) (q : Rill) (d a b ty : Nat) (s : State) : Out :=
  s.onStream fun w =>
    let t := amoType ty
    let isCas := decide (op = .cas)
    let u : Use := ⟨q, false, true, false, true, if isCas then [a, b, d] else [a, b], [d], true, 1⟩
    if (op = .and ∨ op = .or) ∧ 2 ≤ ty then s.illegal w 1
    else s.issued w u (
      let va := s.src w a
      let n := tyBits t / 8
      if va.toNat % n ≠ 0 then s.raise w 1 cMisaligned va
      else if vaEnd ≤ va.toNat then s.raise w 1 cProtection va
      else
        let y := (s.src w b).toNat
        let c := (s.src w d).toNat
        s.afterAcc w 1 (s.bankAlu w va.toNat n (fun x => op.apply t x y c))
          (fun r => r.2.commit w u d (amoOld t r.1) .next))

def execAmoAdd (q : Rill) (d a b ty : Nat) (s : State) : Out := execAmo .add q d a b ty s
def execAmoMin (q : Rill) (d a b ty : Nat) (s : State) : Out := execAmo .min q d a b ty s
def execAmoMax (q : Rill) (d a b ty : Nat) (s : State) : Out := execAmo .max q d a b ty s
def execAmoSwap (q : Rill) (d a b ty : Nat) (s : State) : Out := execAmo .swap q d a b ty s
def execAmoCas (q : Rill) (d a b ty : Nat) (s : State) : Out := execAmo .cas q d a b ty s
def execAmoAnd (q : Rill) (d a b ty : Nat) (s : State) : Out := execAmo .and q d a b ty s
def execAmoOr (q : Rill) (d a b ty : Nat) (s : State) : Out := execAmo .or q d a b ty s

end Sys2Proof.Machine
end

