-- ==== Sys2Proof/Machine/Vector.lean ====
section
/-! DEFINITION. The vector unit: a vector syllable runs its region in steps, each checked before it writes; a stop keeps the
committed steps (11_vector_arith.md R205 to R211, 09_numbers.md R183). -/

namespace Sys2Proof.Machine

/-- What one step of a vector syllable ends in. -/
inductive VStep where
  /-- It commits: the state with its writes, the elements or records it counts, its flags and contributions to AMAX, and
  the running position after it. -/
  | ok (s : State) (steps flags : Nat) (nan : Bool) (mag : Nat) (pos : Option Nat)
  | fault (cause : Nat) (addr : Word) (table : Bool)
  | wait (k p : Nat)
  | assist

/-- A vector syllable: what it asks of its bundle, its checks, and its step. -/
structure VOp where
  q : Rill
  e : Bool
  /-- Queues it names. -/
  srcs : List Nat
  dsts : List Nat
  /-- It raises ILLEGAL. -/
  illegal : LCore → Bool
  /-- It raises VECTOR-OPERAND at issue (check 1 of Table 3). -/
  operand : LCore → Bool
  /-- It sets flags or converts (R183). -/
  num : Bool
  /-- The steps of the whole syllable. -/
  work : LCore → Nat
  /-- The step that begins at `done`, of logical core `k`, with the fate of tiny results. -/
  step : State → Nat → Nat → Sub → VStep
  /-- The entry it pushes at retirement. -/
  result : State → Nat → Option Word
  /-- The entries it needs in queue `n` beside its sources: the descriptor form of `vmov` pops two. -/
  pair : Option Nat
  /-- The descriptor it writes. -/
  dw : LCore → Option (Nat × BitVec 128)

/-- FPMODE.FTZ decides what a tiny FP32 or FP64 result does (R178). -/
def LCore.ftz (l : LCore) : Bool := wbit l.fpmode 0
def subOf (ftz : Bool) : Sub := if ftz then .flush else .assist

/-- The fate of tiny results in the next step of `unit`: the assist's ruling for the one step it stopped (R149). -/
def LCore.stepSub (l : LCore) (unit : Nat) (ftz : Bool) : Sub :=
  match l.assist with
  | some (u, fl) => if u = unit then (if fl then .flush else .gradual) else subOf ftz
  | none => subOf ftz

/-- A rerun step of `unit` commits: the assist's ruling is used up, and counted. -/
def LCore.assistUsed (l : LCore) (unit : Nat) : LCore :=
  match l.assist with
  | some (u, _) => if u = unit then ({ l with assist := none } : LCore).count 14 1 else l
  | none => l

/-- The step of syllable `v` that comes next. -/
def State.vstep (s : State) (k : Nat) (v : VOp) : VStep :=
  let l := s.lcAt k
  v.step s k l.vdone (l.stepSub 2 l.ftz)

/-- Commit a step: progress, the pending numeric status and the counters. -/
def State.vcommit (s : State) (k : Nat) (num : Bool) (steps flags : Nat) (nan : Bool) (mag : Nat) (pos : Option Nat) : State :=
  let l := (s.lcAt k).assistUsed 2
  s.setLc k ({ l with
    vdone := l.vdone + steps
    vpos := pos
    pendV := if num then l.pendV.commit flags nan mag else l.pendV
    epBusy := true
    dlcnt := 0 }.count 4 1)

/-- How a run of steps ends. -/
inductive VEnd where
  | done
  | fault (cause : Nat) (addr : Word) (table : Bool)
  | wait (k p : Nat)
  deriving DecidableEq, Repr

/-- Run the steps of `v` that are left, at most `fuel`. -/
def State.runBeats (k : Nat) (v : VOp) : Nat → State → State × VEnd
  | 0, s => (s, .done)
  | fuel + 1, s =>
    if v.work (s.lcAt k) ≤ (s.lcAt k).vdone then (s, .done)
    else
      match s.vstep k v with
      | .ok s1 steps flags nan mag pos => State.runBeats k v fuel (s1.vcommit k v.num steps flags nan mag pos)
      | .fault c a t => (s, .fault c a t)
      | .wait j p => (s, .wait j p)
      | .assist => (s, .fault cSubnormalAssist 0 false)

/-- What a vector syllable asks for before its first beat: the EP's V slot, its registers and queues, and its waits. Room for its
signals is asked for at retirement (R209). -/
def VOp.use (v : VOp) : Use := ⟨{ v.q with sp := false, sn := false }, v.e, false, true, false, v.srcs, v.dsts, false, 2⟩

/-- The descriptor form of `vmov` waits for two entries (R233). -/
def VOp.short (v : VOp) (l : LCore) : Option StallOn :=
  match v.pair with
  | some n => if (l.queue n).length < 2 then some (.queueEmpty n 2) else none
  | none => none

/-- The bundle's V syllable retires: it pops; its results wait for the bundle, whose syllables all read first (R33, R61). -/
def State.vretire (s : State) (w : Who) (k : Nat) (v : VOp) : State :=
  let l := s.lcAt k
  let dw := match v.dw l with
    | some x => some x
    | none => s.cur.descWrite
  let rw_ := match v.result s k, v.dsts with
    | some x, d :: _ => some (d, x)
    | _, _ => s.cur.regWrite
  let s1 := { (s.pops w v.srcs) with cur := { s.cur with descWrite := dw, regWrite := rw_ } }
  let s2 := match v.pair with
    | some n => s1.pops w [24 + n]
    | none => s1
  s2.retire w v.q .next

/-- The meaning of a vector syllable. -/
def vexec (v : VOp) (s : State) : Out :=
  s.onStream fun w =>
    match w with
    | .sluice _ => s.illegal w 2
    | .core ep _ k =>
      let l := s.lcAt k
      if !ep || v.illegal l then s.illegal w 2
      else s.issued w v.use (
        match v.short l with
        | some x => s.stallOn w x
        | none =>
          if v.operand l then s.raise w 2 cVectorOperand 0
          else
            match State.runBeats k v (v.work l + 1) s with
            | (s1, .done) => if (s1.lcAt k).rillFull posV v.q then s1.stallOn w .rillRoom else s1.vretire w k v
            | (s1, .fault c a t) => s1.raiseAcc w 2 c a t
            | (s1, .wait j p) => s1.stallOn w (.page j p))

/-! ## Local-store steps -/

/-- A step over the local store: elements read to find the others (`pre`), the other elements, and what it computes. -/
structure LsStep where
  pre : List El
  els : State → LCore → List El
  /-- Writes in order, flags, NaN seen, magnitude, assist. -/
  run : State → LCore → Sub → List (El × Nat) × RRes × (Bool × Nat)
  steps : Nat
  pos : State → LCore → Option Nat

/-- Carry out a local-store step: checks 2 to 5, then presence, then all reads, then all writes. -/
def LsStep.go (x : LsStep) (s : State) (k : Nat) (sub : Sub) : VStep :=
  let l := s.lcAt k
  let els := match s.checkEls l x.pre with
    | .ok => x.pre ++ x.els s l
    | _ => x.pre
  match s.checkEls l els with
  | .fault c a => .fault c a false
  | .wait p => .wait k p
  | .ok =>
    let (ws, r, am) := x.run s l sub
    if r.assist then .assist else .ok (s.writeEls l ws) x.steps r.flags am.1 am.2 (x.pos s l)

/-- Combine results: flags join, an assist of one is the step's. -/
def joinRes (rs : List RRes) : RRes :=
  rs.foldl (fun a r => ⟨0, a.flags ||| r.flags, a.assist || r.assist⟩) ⟨0, 0, false⟩

/-- Elements in a beat when the widest type has `b` bits (R208). -/
def beatLen (b : Nat) : Nat := 4096 / b

def LCore.ty (l : LCore) (n : Nat) : Nat := (l.region n).ty

/-- The beat length over the regions of `ds`. -/
def LCore.beat (l : LCore) (ds : List Nat) : Nat := beatLen (ds.foldl (fun b d => max b (tyBits (l.ty d))) 1)

/-- Some descriptor of `ds` holds a type code that no region has (R61). -/
def LCore.badType (l : LCore) (ds : List Nat) : Bool := ds.any (fun d => decide (16 ≤ l.ty d))

/-- The numbers `n` up to `n + k`, below `m`. -/
def beatRange (n k m : Nat) : List Nat := (List.range (min k (m - n))).map (n + ·)

/-! ## Element-wise syllables -/

/-- An element-wise syllable's regions and function. -/
structure EwOp where
  d : Nat
  /-- Source descriptors and their edge patterns. -/
  srcs : List (Nat × Nat)
  /-- The element's result from its sources and its old value; `none` leaves the element. -/
  f : Sub → List Nat → Nat → Option RRes
  /-- The source type that counts for AMAX (R182). -/
  amax : Option Nat

def EwOp.descs (o : EwOp) : List Nat := o.d :: o.srcs.map Prod.fst

/-- The elements of index `n`: the sources that have it, and the destination. -/
def EwOp.elsAt (o : EwOp) (l : LCore) (n : Nat) : List El :=
  (o.srcs.filter (fun p => decide (n < (l.region p.1).size))).map (fun p => (l.region p.1).el n) ++ [(l.region o.d).el n]

/-- Source element `n` of a region, or the edge pattern. -/
def State.srcEl (s : State) (l : LCore) (r : Region) (edge n : Nat) : Nat :=
  if n < r.size then s.readEl l (r.el n) else edge

/-- The result of index `n`. -/
def EwOp.at_ (o : EwOp) (s : State) (l : LCore) (sub : Sub) (n : Nat) : Option RRes :=
  o.f sub (o.srcs.map (fun p => s.srcEl l (l.region p.1) p.2 n)) (s.readEl l ((l.region o.d).el n))

/-- The contribution of the beat's source elements to AMAX. -/
def EwOp.amaxOver (o : EwOp) (s : State) (l : LCore) (ns : List Nat) : Bool × Nat :=
  match o.amax, o.srcs with
  | some src, (a, _) :: _ =>
    (ns.filter (fun n => decide (n < (l.region a).size))).foldl (fun (acc : Bool × Nat) n =>
      let c := amaxOf src (s.readEl l ((l.region a).el n))
      (acc.1 || c.1, max acc.2 c.2)) (false, 0)
  | _, _ => (false, 0)

/-- The beat of an element-wise syllable over indices `ns`. -/
def EwOp.beat (o : EwOp) (ns : List Nat) : LsStep where
  pre := []
  els := fun _ l => ns.flatMap (o.elsAt l)
  run := fun s l sub =>
    let rs := ns.map (fun n => (n, o.at_ s l sub n))
    (rs.filterMap (fun p => p.2.map (fun r => ((l.region o.d).el p.1, r.bits))),
     joinRes (rs.filterMap Prod.snd), o.amaxOver s l ns)
  steps := ns.length
  pos := fun _ _ => none

/-- The vector syllable of an element-wise operation; `types` are its region types, `bad` its own ILLEGAL conditions. -/
def EwOp.vop (o : EwOp) (q : Rill) (e : Bool) (srcs : List Nat) (bad num : Bool) (types : LCore → Bool) : VOp where
  q := q
  e := e
  srcs := srcs
  dsts := []
  illegal := fun l => bad || l.badType o.descs
  operand := fun l => !types l
  num := num
  work := fun l => (l.region o.d).size
  step := fun s k done sub =>
    let l := s.lcAt k
    (o.beat (beatRange done (l.beat o.descs) (l.region o.d).size)).go s k sub
  result := fun _ _ => none
  pair := none
  dw := fun _ => none

end Sys2Proof.Machine
end

