-- ==== Sys2Proof/Machine/VecArith.lean ====
section
/-! DEFINITION. Vector arithmetic, comparison, selection, reduction, conversion and immediates, majors 0x20 to 0x27
(11_vector_arith.md R213 to R223, 09_numbers.md R179 to R182). -/

namespace Sys2Proof.Machine

/-! ## Edge elements (Table 1 of R206) -/

def edgeLow (ty : Nat) : Nat :=
  match tyFmt ty with
  | some f => if f.e4m3 then f.maxBits true else f.infBits true
  | none => tyPat ty (tyMin ty)

def edgeHigh (ty : Nat) : Nat :=
  match tyFmt ty with
  | some f => if f.e4m3 then f.maxBits false else f.infBits false
  | none => tyPat ty (tyMax ty)

/-! ## Three shapes of element-wise operations -/

/-- Region types: every descriptor of the syllable holds `ty`. -/
def allTy (ty : Nat) (ds : List Nat) (l : LCore) : Bool := ds.all (fun d => l.ty d == ty)

/-- A directed rounding mode takes float types only (R207). -/
def badRm (rm ty : Nat) : Bool := rm != 0 && !tyFloat ty

/-- `dd[n] ← f(da[n], db[n], dd[n])` on regions of one type. -/
def vbin (q : Rill) (e : Bool) (d a b ty edge : Nat) (bad num : Bool) (f : Sub → Nat → Nat → Nat → RRes) : VOp :=
  EwOp.vop ⟨d, [(a, edge), (b, edge)], fun sub xs c => some (f sub (xs.getD 0 0) (xs.getD 1 0) c), none⟩
    q e [] bad num (allTy ty [d, a, b])

/-- `dd[n] ← f(da[n])`. -/
def vun (q : Rill) (e : Bool) (d a ty : Nat) (bad num : Bool) (f : Sub → Nat → RRes) : VOp :=
  EwOp.vop ⟨d, [(a, 0)], fun sub xs _ => some (f sub (xs.getD 0 0)), none⟩ q e [] bad num (allTy ty [d, a])

/-- A binary float or integer operation with the major's rounding mode. -/
def vArith (f : Nat → RMode → Sub → Nat → Nat → Nat → RRes) (q : Rill) (e : Bool) (rm d a b ty : Nat) : VOp :=
  vbin q e d a b ty 0 (!tyArith ty || badRm rm ty) (tyFloat ty) (f ty (RMode.ofCode rm))

def vaddOp := vArith (fun ty rm sub x y _ => addE ty rm sub x y)
def vsubOp := vArith (fun ty rm sub x y _ => subE ty rm sub x y)
def vmulOp := vArith (fun ty rm sub x y _ => mulE ty rm sub x y)
def vmacOp := vArith (fun ty rm sub x y c => macE ty rm sub x y c)

def vminOp (q : Rill) (e : Bool) (d a b ty : Nat) : VOp :=
  vbin q e d a b ty (edgeHigh ty) (!tyArith ty) (tyFloat ty) (fun _ x y _ => minmaxE false ty x y)
def vmaxOp (q : Rill) (e : Bool) (d a b ty : Nat) : VOp :=
  vbin q e d a b ty (edgeLow ty) (!tyArith ty) (tyFloat ty) (fun _ x y _ => minmaxE true ty x y)

/-- The types of `vabs`, `vneg` and `vsra`: what has a sign. -/
def tySignedInt (ty : Nat) : Bool := 8 ≤ ty && ty ≤ 11

def vabsOp (q : Rill) (e : Bool) (d a ty : Nat) : VOp :=
  vun q e d a ty (!(tyFloat ty || tySignedInt ty)) false (fun _ x => absE ty x)
def vnegOp (q : Rill) (e : Bool) (d a ty : Nat) : VOp :=
  vun q e d a ty (!(tyFloat ty || tySignedInt ty)) false (fun _ x => negE ty x)

/-- The transcendental operations take .f32, .bf16 and .f16 (R221). -/
def vtrans (f : Fmt → RMode → Sub → FV → RRes) (q : Rill) (e : Bool) (rm d a ty : Nat) : VOp :=
  vun q e d a ty (!(ty == tyF32 || ty == tyBf16 || ty == tyF16)) true
    (fun sub x => transE f ty (RMode.ofCode rm) sub x)

def vexp2Op := vtrans exp2V
def vlog2Op := vtrans log2V
def vrcpOp := vtrans rcpV
def vrsqrtOp := vtrans rsqrtV

/-- Comparisons write a bit region (R215). -/
def vcmpOp (c : Cmp) (q : Rill) (e : Bool) (d a b ty : Nat) : VOp :=
  EwOp.vop ⟨d, [(a, 0), (b, 0)], fun _ xs _ => some (cmpE c ty (xs.getD 0 0) (xs.getD 1 0)), none⟩
    q e [] (!tyArith ty) (tyFloat ty) (fun l => allTy ty [a, b] l && l.ty d == tyB1)

/-- `vsel`: bits copied where the bit of db is set (R216). -/
def vselOp (q : Rill) (e : Bool) (d a b ty : Nat) : VOp :=
  EwOp.vop ⟨d, [(a, 0), (b, 0)], fun _ xs _ => if xs.getD 1 0 = 1 then some (.ok (xs.getD 0 0)) else none, none⟩
    q e [] false false (fun l => allTy ty [d, a] l && l.ty b == tyB1)

/-! ## Conversions and immediates (R219) -/

def vcvtOp (q : Rill) (e : Bool) (d a m g h sat : Nat) : VOp :=
  EwOp.vop ⟨d, [(a, 0)], fun sub xs _ => some (convertE h g (RMode.ofCode m) sub (sat == 1) (xs.getD 0 0)),
      if amaxTarget g then some h else none⟩
    q e [] (g == tyB1 || h == tyB1 || g == h) true (fun l => l.ty d == g && l.ty a == h)

/-- `vseti` and `vsetf`: dd's own type decides; `vsetf` takes no .ter and no .b1. -/
def vsetOp (f : Nat → Nat → Nat) (noBits : Bool) (q : Rill) (e : Bool) (d imm : Nat) : VOp where
  q := q
  e := e
  srcs := []
  dsts := []
  illegal := fun l => l.badType [d] || (noBits && (l.ty d == tyTer || l.ty d == tyB1))
  operand := fun _ => false
  num := false
  work := fun l => (l.region d).size
  step := fun s k done sub =>
    let l := s.lcAt k
    let o : EwOp := ⟨d, [], fun _ _ _ => some (.ok (f (l.ty d) imm)), none⟩
    (o.beat (beatRange done (l.beat [d]) (l.region d).size)).go s k sub
  result := fun _ _ => none
  pair := none
  dw := fun _ => none

def vsetiOp := vsetOp immInt false
def vsetfOp := vsetOp immFloat true

/-! ## Vector with scalar, major 0x25 (R217) -/

/-- The scalar register or queue entry g, read when the bundle issues. -/
def LCore.vscalar (l : LCore) (g : Nat) : Nat := (l.reg true g).toNat

/-- `dd[n] ← f(da[n], s, dd[n])`. -/
def vscal (f : Nat → Sub → Nat → Nat → Nat → RRes) (edge : Nat → Nat) (q : Rill) (e : Bool) (d a g ty : Nat) : VOp :=
  { (EwOp.vop ⟨d, [(a, edge ty)], fun _ _ _ => none, none⟩ q e [g] (!tyArith ty) (tyFloat ty) (allTy ty [d, a])) with
    step := fun s k done sub =>
      let l := s.lcAt k
      let y := l.vscalar g % 2 ^ tyBits ty
      let o : EwOp := ⟨d, [(a, edge ty)], fun sub xs c => some (f ty sub (xs.getD 0 0) y c), none⟩
      (o.beat (beatRange done (l.beat o.descs) (l.region d).size)).go s k sub }

def vaddsOp := vscal (fun ty sub x y _ => addE ty .rne sub x y) (fun _ => 0)
def vmulsOp := vscal (fun ty sub x y _ => mulE ty .rne sub x y) (fun _ => 0)
def vmacsOp := vscal (fun ty sub x y c => macE ty .rne sub x y c) (fun _ => 0)
def vminsOp := vscal (fun ty _ x y _ => minmaxE false ty x y) edgeHigh
def vmaxsOp := vscal (fun ty _ x y _ => minmaxE true ty x y) edgeLow

def vfillOp (q : Rill) (e : Bool) (d g ty : Nat) : VOp :=
  { (EwOp.vop ⟨d, [], fun _ _ _ => none, none⟩ q e [g] false false (allTy ty [d])) with
    step := fun s k done sub =>
      let l := s.lcAt k
      let y := l.vscalar g % 2 ^ tyBits ty
      let o : EwOp := ⟨d, [], fun _ _ _ => some (.ok y), none⟩
      (o.beat (beatRange done (l.beat [d]) (l.region d).size)).go s k sub }

/-! ## Integers and bits, major 0x27 (R218) -/

/-- Types of the bitwise operations. -/
def tyBitwise (ty : Nat) : Bool := tyInt8up ty || ty == tyB1

def vint (good : Nat → Bool) (f : Nat → Nat → Nat → RRes) (q : Rill) (e : Bool) (d a b ty : Nat) : VOp :=
  vbin q e d a b ty 0 (!good ty) false (fun _ x y _ => f ty x y)

def vandOp := vint tyBitwise (fun _ x y => .ok (x &&& y))
def vorOp := vint tyBitwise (fun _ x y => .ok (x ||| y))
def vxorOp := vint tyBitwise (fun _ x y => .ok (x ^^^ y))
def vnotOp (q : Rill) (e : Bool) (d a ty : Nat) : VOp :=
  vun q e d a ty (!tyBitwise ty) false (fun _ x => .ok (2 ^ tyBits ty - 1 - x))
def vshlOp := vint tyInt8up shlE
def vshrOp := vint tyInt8up shrE
def vsraOp := vint tySignedInt sraE
def vmulhOp := vint tyInt8up mulhE

/-! ## Reductions (R220) -/

/-- One level of the tree. -/
def pairUp (node : Nat → Nat → RRes) : List Nat → List Nat × RRes
  | x :: y :: r =>
    let t := node x y
    let (vs, acc) := pairUp node r
    (t.bits :: vs, ⟨0, t.flags ||| acc.flags, t.assist || acc.assist⟩)
  | _ => ([], ⟨0, 0, false⟩)

/-- The levels of the tree over 2^`k` values. -/
def treeLevels (node : Nat → Nat → RRes) : Nat → List Nat → RRes → RRes
  | 0, vs, acc => ⟨vs.headD 0, acc.flags, acc.assist⟩
  | k + 1, vs, acc =>
    let (ws, r) := pairUp node vs
    treeLevels node k ws ⟨0, acc.flags ||| r.flags, acc.assist || r.assist⟩

/-- The least k with 2^k at least m. -/
def log2Up (m : Nat) : Nat := if m ≤ 1 then 0 else (m - 1).log2 + 1

/-- The reduction tree over a row. -/
def treeOf (node : Nat → Nat → RRes) (ident : Nat) (vs : List Nat) : RRes :=
  let k := log2Up vs.length
  treeLevels node k (vs ++ List.replicate (2 ^ k - vs.length) ident) ⟨0, 0, false⟩

/-- NV where a signalling NaN is among the patterns (R177). -/
def sigFlag (ty : Nat) (vs : List Nat) : Nat :=
  match tyFmt ty with
  | some f => flagIf (vs.any (fun x => (f.value x).isSig)) nv
  | none => 0

/-- The sum of a row of type `ty` into type `dty`. -/
def sumRow (ty dty : Nat) (rm : RMode) (sub : Sub) (vs : List Nat) : RRes :=
  match tyFmt ty with
  | none => .ok (tyPat dty (vs.foldl (fun t x => t + tyVal ty x) 0))
  | some f =>
    if ty = tyF64 ∨ ty = tyF32 then (treeOf (addE ty rm sub) 0 vs).addFlags (sigFlag ty vs)
    else
      let ws := vs.map (fun x => (convertE ty tyF32 .rne .gradual false x).bits)
      let r := treeOf (addE tyF32 rm sub) 0 ws
      let r := r.addFlags (sigFlag ty vs)
      if dty = tyF32 then r
      else
        let z := (fp32.value r.bits).round f rm .gradual
        ⟨z.bits, r.flags ||| z.flags, r.assist⟩

/-- The largest (or smallest) element of a row; a NaN in it gives the canonical NaN. -/
def extremeRow (big : Bool) (ty : Nat) (vs : List Nat) : RRes :=
  let r := (treeOf (minmaxE big ty) (if big then edgeLow ty else edgeHigh ty) vs).addFlags (sigFlag ty vs)
  match tyFmt ty with
  | some f => if (f.value r.bits).isNan then { r with bits := f.nanBits } else r
  | none => r

/-- A reduction: one destination element is one step. -/
def vreduce (f : Nat → Sub → List Nat → RRes) (types : Nat → Bool) (q : Rill) (e : Bool) (d a ty : Nat) (bad num : Bool) : VOp where
  q := q
  e := e
  srcs := []
  dsts := []
  illegal := fun l => bad || l.badType [d, a]
  operand := fun l => l.ty a != ty || !types (l.ty d) || (l.region d).size != (l.region a).count1
  num := num
  work := fun l => (l.region d).size
  step := fun s k n sub =>
    let l := s.lcAt k
    let row := (List.range (l.region a).count0).map (fun e0 => (l.region a).at2 e0 n)
    let x : LsStep := {
      pre := []
      els := fun _ l => row ++ [(l.region d).el n]
      run := fun s l sub =>
        let r := f (l.ty d) sub (row.map (s.readEl l))
        ([((l.region d).el n, r.bits)], r, (false, 0))
      steps := 1
      pos := fun _ _ => none }
    x.go s k sub
  result := fun _ _ => none
  pair := none
  dw := fun _ => none

/-- Destination types of `vsum` (Table 2). -/
def sumDest (ty dty : Nat) : Bool :=
  dty == ty || (dty == tyF32 && 2 ≤ ty && ty ≤ 5) || (dty == tyI32 && (ty == tyI16 || ty == tyI8 || ty == tyU16 || ty == tyU8))

def vsumOp (q : Rill) (e : Bool) (rm d a ty : Nat) : VOp :=
  vreduce (fun dty sub vs => sumRow ty dty (RMode.ofCode rm) sub vs) (sumDest ty) q e d a ty
    (!tyArith ty || badRm rm ty) (tyFloat ty)
def vrmaxOp (q : Rill) (e : Bool) (d a ty : Nat) : VOp :=
  vreduce (fun _ _ vs => extremeRow true ty vs) (· == ty) q e d a ty (!tyArith ty) (tyFloat ty)
def vrminOp (q : Rill) (e : Bool) (d a ty : Nat) : VOp :=
  vreduce (fun _ _ vs => extremeRow false ty vs) (· == ty) q e d a ty (!tyArith ty) (tyFloat ty)

/-! ## The meanings -/

def execVadd (q : Rill) (e : Bool) (rm d a b ty : Nat) (s : State) : Out := vexec (vaddOp q e rm d a b ty) s
def execVsub (q : Rill) (e : Bool) (rm d a b ty : Nat) (s : State) : Out := vexec (vsubOp q e rm d a b ty) s
def execVmul (q : Rill) (e : Bool) (rm d a b ty : Nat) (s : State) : Out := vexec (vmulOp q e rm d a b ty) s
def execVmac (q : Rill) (e : Bool) (rm d a b ty : Nat) (s : State) : Out := vexec (vmacOp q e rm d a b ty) s
def execVmin (q : Rill) (e : Bool) (d a b ty : Nat) (s : State) : Out := vexec (vminOp q e d a b ty) s
def execVmax (q : Rill) (e : Bool) (d a b ty : Nat) (s : State) : Out := vexec (vmaxOp q e d a b ty) s
def execVabs (q : Rill) (e : Bool) (d a ty : Nat) (s : State) : Out := vexec (vabsOp q e d a ty) s
def execVneg (q : Rill) (e : Bool) (d a ty : Nat) (s : State) : Out := vexec (vnegOp q e d a ty) s
def execVexp2 (q : Rill) (e : Bool) (rm d a ty : Nat) (s : State) : Out := vexec (vexp2Op q e rm d a ty) s
def execVlog2 (q : Rill) (e : Bool) (rm d a ty : Nat) (s : State) : Out := vexec (vlog2Op q e rm d a ty) s
def execVrcp (q : Rill) (e : Bool) (rm d a ty : Nat) (s : State) : Out := vexec (vrcpOp q e rm d a ty) s
def execVrsqrt (q : Rill) (e : Bool) (rm d a ty : Nat) (s : State) : Out := vexec (vrsqrtOp q e rm d a ty) s
def execVcmpEq (q : Rill) (e : Bool) (d a b ty : Nat) (s : State) : Out := vexec (vcmpOp .eq q e d a b ty) s
def execVcmpNe (q : Rill) (e : Bool) (d a b ty : Nat) (s : State) : Out := vexec (vcmpOp .ne q e d a b ty) s
def execVcmpLt (q : Rill) (e : Bool) (d a b ty : Nat) (s : State) : Out := vexec (vcmpOp .lt q e d a b ty) s
def execVcmpLe (q : Rill) (e : Bool) (d a b ty : Nat) (s : State) : Out := vexec (vcmpOp .le q e d a b ty) s
def execVsel (q : Rill) (e : Bool) (d a b ty : Nat) (s : State) : Out := vexec (vselOp q e d a b ty) s
def execVsum (q : Rill) (e : Bool) (rm d a ty : Nat) (s : State) : Out := vexec (vsumOp q e rm d a ty) s
def execVrmax (q : Rill) (e : Bool) (d a ty : Nat) (s : State) : Out := vexec (vrmaxOp q e d a ty) s
def execVrmin (q : Rill) (e : Bool) (d a ty : Nat) (s : State) : Out := vexec (vrminOp q e d a ty) s
def execVcvt (q : Rill) (e : Bool) (d a m g h sat : Nat) (s : State) : Out := vexec (vcvtOp q e d a m g h sat) s
def execVseti (q : Rill) (e : Bool) (d imm : Nat) (s : State) : Out := vexec (vsetiOp q e d imm) s
def execVsetf (q : Rill) (e : Bool) (d imm : Nat) (s : State) : Out := vexec (vsetfOp q e d imm) s
def execVadds (q : Rill) (e : Bool) (d a g ty : Nat) (s : State) : Out := vexec (vaddsOp q e d a g ty) s
def execVmuls (q : Rill) (e : Bool) (d a g ty : Nat) (s : State) : Out := vexec (vmulsOp q e d a g ty) s
def execVmacs (q : Rill) (e : Bool) (d a g ty : Nat) (s : State) : Out := vexec (vmacsOp q e d a g ty) s
def execVmins (q : Rill) (e : Bool) (d a g ty : Nat) (s : State) : Out := vexec (vminsOp q e d a g ty) s
def execVmaxs (q : Rill) (e : Bool) (d a g ty : Nat) (s : State) : Out := vexec (vmaxsOp q e d a g ty) s
def execVfill (q : Rill) (e : Bool) (d g ty : Nat) (s : State) : Out := vexec (vfillOp q e d g ty) s
def execVand (q : Rill) (e : Bool) (d a b ty : Nat) (s : State) : Out := vexec (vandOp q e d a b ty) s
def execVor (q : Rill) (e : Bool) (d a b ty : Nat) (s : State) : Out := vexec (vorOp q e d a b ty) s
def execVxor (q : Rill) (e : Bool) (d a b ty : Nat) (s : State) : Out := vexec (vxorOp q e d a b ty) s
def execVnot (q : Rill) (e : Bool) (d a ty : Nat) (s : State) : Out := vexec (vnotOp q e d a ty) s
def execVshl (q : Rill) (e : Bool) (d a b ty : Nat) (s : State) : Out := vexec (vshlOp q e d a b ty) s
def execVshr (q : Rill) (e : Bool) (d a b ty : Nat) (s : State) : Out := vexec (vshrOp q e d a b ty) s
def execVsra (q : Rill) (e : Bool) (d a b ty : Nat) (s : State) : Out := vexec (vsraOp q e d a b ty) s
def execVmulh (q : Rill) (e : Bool) (d a b ty : Nat) (s : State) : Out := vexec (vmulhOp q e d a b ty) s

end Sys2Proof.Machine
end

