-- ==== Sys2Proof/Machine/VecData.lean ====
section
/-! DEFINITION. Vector data movement, scans, selection, probes and moves, majors 0x28 and 0x29 (12_vector_data.md R224 to
R233). -/

namespace Sys2Proof.Machine

/-- A syllable whose step is a beat, or one element, over the local store. -/
def lsVop (q : Rill) (e : Bool) (srcs ds : List Nat) (bad num : Bool) (types : LCore → Bool) (work : LCore → Nat)
    (stepOf : LCore → Nat → LsStep) : VOp where
  q := q
  e := e
  srcs := srcs
  dsts := []
  illegal := fun l => bad || l.badType ds
  operand := fun l => !types l
  num := num
  work := work
  step := fun s k done sub => (stepOf (s.lcAt k) done).go s k sub
  result := fun _ _ => none
  pair := none
  dw := fun _ => none

/-- Bits copied: no flags. -/
def copied (ws : List (El × Nat)) : List (El × Nat) × RRes × (Bool × Nat) := (ws, .ok 0, (false, 0))

/-! ## Cross-lane reads (R226, R227) -/

/-- The validity region of destination `d`. -/
def validOf (d : Nat) : Nat := (d + 1) % 16

/-- A cross-lane beat: `pick` gives the source element of da for destination index `n`, with its validity; `none` is an
element beyond da, which reads +0. -/
def crossBeat (d a : Nat) (ns : List Nat) (pre : List El) (pick : State → LCore → Nat → Option El × Bool) : LsStep where
  pre := pre
  els := fun s l => ns.flatMap (fun n =>
    [(l.region d).el n, (l.region (validOf d)).el n] ++ (pick s l n).1.toList)
  run := fun s l _ =>
    let _ := a
    copied (ns.flatMap (fun n =>
      let (x, v) := pick s l n
      [((l.region d).el n, (x.map (s.readEl l)).getD 0), ((l.region (validOf d)).el n, if v then 1 else 0)]))
  steps := ns.length
  pos := fun _ _ => none

/-- Element `n` of da in its own walk, where da has it. -/
def Region.own (r : Region) (n : Nat) : Option El := if n < r.size then some (r.el n) else none

def validOk (d : Nat) (l : LCore) : Bool :=
  l.ty (validOf d) == tyB1 && decide ((l.region d).size ≤ (l.region (validOf d)).size)

/-- A signed index of region `b`, element `n`. -/
def State.index (s : State) (l : LCore) (b n : Nat) : Int := tyVal (l.ty b) (s.readEl l ((l.region b).el n))

def vpermOp (q : Rill) (e : Bool) (d a b ty : Nat) : VOp :=
  lsVop q e [] [d, a, b, validOf d] false false
    (fun l => allTy ty [d, a] l && (l.ty b == tyI32 || l.ty b == tyI16)
      && decide ((l.region d).size ≤ (l.region b).size) && validOk d l)
    (fun l => (l.region d).size)
    (fun l done =>
      let ns := beatRange done (l.beat [d, a, b, validOf d]) (l.region d).size
      crossBeat d a ns (ns.map (l.region b).el) (fun s l n =>
        let r := l.region a
        let i := s.index l b n
        if 0 ≤ i ∧ i < r.size then (some (r.el i.toNat), true) else (r.own n, false)))

/-- Element (e0, e1) of da, where da has it. -/
def Region.own2 (r : Region) (e0 e1 : Nat) : Option El :=
  if e0 < r.count0 ∧ e1 < r.count1 then some (r.at2 e0 e1) else none

/-- `vshift` and `vrotl`: lane `e0` of row `e1` reads lane `lane e0`. -/
def vlane (rotate : Bool) (q : Rill) (e : Bool) (d a g ty : Nat) : VOp :=
  lsVop q e [g] [d, a, validOf d] false false
    (fun l => allTy ty [d, a] l && (l.region d).count0 == (l.region a).count0 && validOk d l)
    (fun l => (l.region d).size)
    (fun l done =>
      let by_ := (l.reg true g).toInt
      crossBeat d a (beatRange done (l.beat [d, a, validOf d]) (l.region d).size) [] (fun _ l n =>
        let r := l.region a
        let e0 := n % (l.region d).count0
        let e1 := n / (l.region d).count0
        let i : Int := if rotate then ((e0 : Int) + by_) % (r.count0 : Int) else (e0 : Int) + by_
        if 0 ≤ i ∧ i < r.count0 ∧ e1 < r.count1 then (some (r.at2 i.toNat e1), true) else (r.own2 e0 e1, false)))

def vshiftOp := vlane false
def vrotlOp := vlane true

def vbcastOp (q : Rill) (e : Bool) (d a g ty : Nat) : VOp :=
  lsVop q e [g] [d, a, validOf d] false false
    (fun l => allTy ty [d, a] l && validOk d l)
    (fun l => (l.region d).size)
    (fun l done =>
      let i := l.vscalar g
      crossBeat d a (beatRange done (l.beat [d, a, validOf d]) (l.region d).size) [] (fun _ l n =>
        let r := l.region a
        if i < r.size then (some (r.el i), true) else (r.own n, false)))

/-! ## Compaction and expansion (R228) -/

/-- Bits set among elements `n` < `m` of region `b`. -/
def State.setBits (s : State) (l : LCore) (b m : Nat) : Nat :=
  ((List.range m).filter (fun n => s.readEl l ((l.region b).el n) == 1)).length

/-- The running position before the step at `done`. -/
def State.vposition (s : State) (l : LCore) (b done : Nat) : Nat := l.vpos.getD (s.setBits l b done)

/-- Each index of `ns` whose bit of region `b` is set, with its running position from `j`. -/
def State.selected (s : State) (l : LCore) (b : Nat) : List Nat → Nat → List (Nat × Nat)
  | [], _ => []
  | n :: ns, j =>
    if s.readEl l ((l.region b).el n) = 1 then (n, j) :: s.selected l b ns (j + 1) else s.selected l b ns j

/-- The running position after the indices `ns`. -/
def State.positionAfter (s : State) (l : LCore) (b done : Nat) (ns : List Nat) : Nat :=
  s.vposition l b done + (ns.filter (fun n => s.readEl l ((l.region b).el n) == 1)).length

/-- A syllable that pushes its final position onto q6. -/
def VOp.pushing (v : VOp) (b : Nat) : VOp :=
  { v with
    dsts := [30]
    result := fun s k => some (toW (s.vposition (s.lcAt k) b (v.work (s.lcAt k)))) }

def vcompactOp (q : Rill) (e : Bool) (d a b ty : Nat) : VOp :=
  (lsVop q e [] [d, a, b] false false
    (fun l => allTy ty [d, a] l && l.ty b == tyB1 && decide ((l.region a).size ≤ (l.region b).size))
    (fun l => (l.region a).size)
    (fun l done =>
      let ns := beatRange done (l.beat [d, a, b]) (l.region a).size
      let targets (s : State) (l : LCore) : List (Nat × Nat) :=
        (s.selected l b ns (s.vposition l b done)).filter (fun p => decide (p.2 < (l.region d).size))
      { pre := ns.map (l.region b).el
        els := fun s l => ns.map (l.region a).el ++ (targets s l).map (fun p => (l.region d).el p.2)
        run := fun s l _ => copied ((targets s l).map (fun p => ((l.region d).el p.2, s.readEl l ((l.region a).el p.1))))
        steps := ns.length
        pos := fun s l => some (s.positionAfter l b done ns) })).pushing b

def vexpandOp (q : Rill) (e : Bool) (d a b ty : Nat) : VOp :=
  (lsVop q e [] [d, a, b] false false
    (fun l => allTy ty [d, a] l && l.ty b == tyB1 && decide ((l.region d).size ≤ (l.region b).size))
    (fun l => (l.region d).size)
    (fun l done =>
      let ns := beatRange done (l.beat [d, a, b]) (l.region d).size
      { pre := ns.map (l.region b).el
        els := fun s l => ns.map (l.region d).el
          ++ (s.selected l b ns (s.vposition l b done)).filterMap (fun p => (l.region a).own p.2)
        run := fun s l _ => copied ((s.selected l b ns (s.vposition l b done)).map (fun p =>
          ((l.region d).el p.1, s.srcEl l (l.region a) 0 p.2)))
        steps := ns.length
        pos := fun s l => some (s.positionAfter l b done ns) })).pushing b

/-! ## Scans (R229) -/

/-- The types of scans. -/
def tyScan (ty : Nat) : Bool := ty == tyF64 || ty == tyF32 || ty == tyI64 || ty == tyI32 || ty == tyU32

/-- An inclusive prefix: the carry is read back from dd. -/
def vscan (num : Bool) (f : Nat → Sub → Nat → Nat → RRes) (q : Rill) (e : Bool) (d a ty : Nat) : VOp :=
  lsVop q e [] [d, a] (!tyScan ty) (num && tyFloat ty)
    (fun l => allTy ty [d, a] l && (l.region d).count0 == (l.region a).count0 && (l.region d).count1 == (l.region a).count1)
    (fun l => (l.region d).size)
    (fun l n =>
      let first := n % (l.region d).count0 == 0
      { pre := []
        els := fun _ l => (l.region a).el n :: (if first then [] else [(l.region d).el (n - 1)]) ++ [(l.region d).el n]
        run := fun s l sub =>
          let x := s.readEl l ((l.region a).el n)
          let r := if first then (RRes.ok x).addFlags (if num then sigFlag ty [x] else 0)
            else f ty sub (s.readEl l ((l.region d).el (n - 1))) x
          ([((l.region d).el n, r.bits)], r, (false, 0))
        steps := 1
        pos := fun _ _ => none })

def vscanAddOp := vscan true (fun ty sub t x => addE ty .rne sub t x)
def vscanMaxOp := vscan false (fun ty _ t x => .ok (minmaxE true ty t x).bits)

/-! ## Column-wise select (R230) -/

def tyColsel (ty : Nat) : Bool :=
  ty == tyF32 || ty == tyBf16 || ty == tyF16 || ty == tyI32 || ty == tyI16 || ty == tyI8

/-- Score `x` of an earlier row ranks before or with score `y` of a later one. -/
def ranksFirst (ty x y : Nat) : Bool :=
  match tyFmt ty with
  | some f =>
    let a := f.value x
    let b := f.value y
    if b.isNan then true else if a.isNan then false else !FV.lt a b
  | none => decide (tyVal ty y ≤ tyVal ty x)

/-- Insert a row, later than all rows listed, into its rank. -/
def rankInsert (ty : Nat) (r : Nat × Nat) : List (Nat × Nat) → List (Nat × Nat)
  | [] => [r]
  | h :: t => if ranksFirst ty h.2 r.2 then h :: rankInsert ty r t else r :: h :: t

/-- Rows with their scores, best first. -/
def ranking (ty : Nat) (rows : List (Nat × Nat)) : List (Nat × Nat) :=
  rows.foldl (fun acc r => rankInsert ty r acc) []

def vcolselOp (q : Rill) (e : Bool) (d a b ty : Nat) : VOp :=
  lsVop q e [] [d, a, b] (!tyColsel ty) false
    (fun l => allTy ty [a, b] l && (l.ty d == tyI32 || l.ty d == tyU16) && (l.region d).count0 == (l.region a).count0
      && ((l.region b).size == 0 || decide ((l.region d).size ≤ (l.region b).size)))
    (fun l => if (l.region d).size = 0 then 0 else (l.region a).count0)
    (fun l c =>
      let rd := l.region d
      let ra := l.region a
      let rb := l.region b
      let ts := List.range rd.count1
      let outB (t : Nat) : Option El := if rb.size = 0 then none else some (rb.el (c + t * rd.count0))
      { pre := []
        els := fun _ _ => (List.range ra.count1).map (ra.at2 c) ++ ts.flatMap (fun t => rd.at2 c t :: (outB t).toList)
        run := fun s l _ =>
          let best := ranking ty ((List.range ra.count1).map (fun r => (r, s.readEl l (ra.at2 c r))))
          copied (ts.flatMap (fun t =>
            let (row, score) := best.getD t (2 ^ tyBits rd.ty - 1, edgeLow ty)
            (rd.at2 c t, row) :: (outB t).toList.map (fun x => (x, score))))
        steps := 1
        pos := fun _ _ => none })

/-! ## Hash-table probe (R231) -/

/-- What probing ends in. -/
inductive Probe where
  | hit (v : Nat)
  | miss
  | stop (x : Chk)
  deriving DecidableEq, Repr

/-- Probe from slot `i` on, `fuel` slots; each slot is checked when it is read. -/
def State.probe (s : State) (l : LCore) (r : Region) (key : Nat) : Nat → Nat → Probe
  | 0, _ => .miss
  | fuel + 1, i =>
    let x := r.el (i % r.size)
    match s.checkEls l [x] with
    | .ok =>
      let slot := s.readEl l x
      if slot % 2 ^ 32 = 0xFFFFFFFF then .miss
      else if slot % 2 ^ 32 = key then .hit (slot / 2 ^ 32)
      else s.probe l r key fuel (i + 1)
    | c => .stop c

def vprobeOp (q : Rill) (e : Bool) (d a b : Nat) : VOp :=
  { (lsVop q e [] [d, a, b] false false
      (fun l => l.ty a == tyU32 && l.ty d == tyI32 && l.ty b == tyI64
        && decide ((l.region b).size ≠ 0 ∧ (l.region b).size = 2 ^ (l.region b).size.log2))
      (fun l => (l.region d).size)
      (fun _ _ => { pre := [], els := fun _ _ => [], run := fun _ _ _ => copied [], steps := 1, pos := fun _ _ => none })) with
    step := fun s k n _ =>
      let l := s.lcAt k
      let x := (l.region d).el n
      let ra := l.region a
      match s.checkEls l ((ra.own n).toList ++ [x]) with
      | .fault c ad => .fault c ad false
      | .wait p => .wait k p
      | .ok =>
        let key := s.srcEl l ra 0 n
        let rb := l.region b
        let h := key * 0x9E3779B1 % 2 ^ 32 / 2 ^ (32 - rb.size.log2)
        match (if key = 0xFFFFFFFF then Probe.miss else s.probe l rb key rb.size h) with
        | .stop (.fault c ad) => .fault c ad false
        | .stop (.wait p) => .wait k p
        | .hit v => .ok (s.writeEl l x v) 1 0 false 0 none
        | _ => .ok (s.writeEl l x 0xFFFFFFFF) 1 0 false 0 none }

/-! ## Moves (R233) -/

def vmovOp (q : Rill) (e : Bool) (d a ty : Nat) : VOp := vun q e d a ty false false (fun _ x => .ok x)

/-- The descriptor form: two entries of qN, from the next bundle on; reserved bits read as zero. -/
def vmovDescriptorOp (q : Rill) (e : Bool) (d n : Nat) : VOp where
  q := q
  e := e
  srcs := [24 + n]
  dsts := []
  illegal := fun _ => decide (5 < n)
  operand := fun _ => false
  num := false
  work := fun _ => 0
  step := fun s _ _ _ => .ok s 1 0 false 0 none
  result := fun _ _ => none
  pair := some n
  dw := fun l =>
    let lo := ((l.queue n).getD 0 0).toNat
    let hi := ((l.queue n).getD 1 0).toNat
    some (d, BitVec.ofNat 128 (lo + hi % 2 ^ 26 * 2 ^ 64))

/-! ## The meanings -/

def execVperm (q : Rill) (e : Bool) (d a b ty : Nat) (s : State) : Out := vexec (vpermOp q e d a b ty) s
def execVcompact (q : Rill) (e : Bool) (d a b ty : Nat) (s : State) : Out := vexec (vcompactOp q e d a b ty) s
def execVexpand (q : Rill) (e : Bool) (d a b ty : Nat) (s : State) : Out := vexec (vexpandOp q e d a b ty) s
def execVscanAdd (q : Rill) (e : Bool) (d a ty : Nat) (s : State) : Out := vexec (vscanAddOp q e d a ty) s
def execVscanMax (q : Rill) (e : Bool) (d a ty : Nat) (s : State) : Out := vexec (vscanMaxOp q e d a ty) s
def execVcolsel (q : Rill) (e : Bool) (d a b ty : Nat) (s : State) : Out := vexec (vcolselOp q e d a b ty) s
def execVprobe (q : Rill) (e : Bool) (d a b : Nat) (s : State) : Out := vexec (vprobeOp q e d a b) s
def execVmov (q : Rill) (e : Bool) (d a ty : Nat) (s : State) : Out := vexec (vmovOp q e d a ty) s
def execVmovDescriptor (q : Rill) (e : Bool) (d n : Nat) (s : State) : Out := vexec (vmovDescriptorOp q e d n) s
def execVshift (q : Rill) (e : Bool) (d a g ty : Nat) (s : State) : Out := vexec (vshiftOp q e d a g ty) s
def execVrotl (q : Rill) (e : Bool) (d a g ty : Nat) (s : State) : Out := vexec (vrotlOp q e d a g ty) s
def execVbcast (q : Rill) (e : Bool) (d a g ty : Nat) (s : State) : Out := vexec (vbcastOp q e d a g ty) s

end Sys2Proof.Machine
end

