-- ==== Sys2Proof/Machine/VecAmo.lean ====
section
/-! DEFINITION. Vector bank-ALU atomics, major 0x2A (12_vector_data.md R236, R237): one step performs one element, or one
record, at its home exactly once. -/

namespace Sys2Proof.Machine

/-- Types of `vamo.add`, `.min` and `.max`. -/
def tyAmo (ty : Nat) : Bool := ty == tyI32 || ty == tyI64 || ty == tyF32 || ty == tyBf16

/-- Perform `f` on the bytes at `va`, its address checked in the order of Table 3 of R235. -/
def State.vbankAlu (s : State) (k : Nat) (va : Word) (n : Nat) (mis : Bool) (f : Nat → Nat) : Acc (Nat × State) :=
  if mis then .fault cMisaligned va false
  else if vaEnd ≤ va.toNat then .fault cProtection va false
  else s.bankAlu (.core true 0 k) va.toNat n f

/-- One atomic step: the operand elements and the destination elements are checked in the local store, the target is
checked and updated, the old value is written. -/
def State.vamoStep (s : State) (k : Nat) (opEls dstEls : List El) (va : Word) (n : Nat) (mis : Bool)
    (f : List Nat → Nat → Nat) (old : Nat → List Nat) : VStep :=
  let l := s.lcAt k
  match s.checkEls l (opEls ++ dstEls) with
  | .fault c a => .fault c a false
  | .wait p => .wait k p
  | .ok =>
    match s.vbankAlu k va n mis (f (opEls.map (s.readEl l))) with
    | .fault c a t => .fault c a t
    | .wait j p => .wait j p
    | .ok (x, s1) => .ok (s1.writeEls l (dstEls.zip (old x))) 1 0 false 0 none

/-- A vector atomic: `work` steps, each at an address from A. -/
def vamoVop (q : Rill) (e : Bool) (d a g : Nat) (bad : Bool) (types : LCore → Bool) (work : LCore → Nat)
    (step : State → Nat → Nat → VStep) : VOp where
  q := q
  e := e
  srcs := [g]
  dsts := []
  illegal := fun l => bad || l.badType [d, a]
  operand := fun l => !types l
  num := false
  work := work
  step := fun s k n _ => step s k n
  result := fun _ _ => none
  pair := none
  dw := fun _ => none

def vamoOp (op : AmoOp) (q : Rill) (e : Bool) (d a g ty : Nat) : VOp :=
  vamoVop q e d a g (!tyAmo ty) (allTy ty [d, a]) (fun l => (l.region a).size)
    (fun s k n =>
      let l := s.lcAt k
      let size := tyBits ty / 8
      let va := l.reg true g + toW (size * n)
      s.vamoStep k [(l.region a).el n] ((l.region d).own n).toList va size (va.toNat % size != 0)
        (fun ys x => op.apply ty x (ys.headD 0) 0) (fun x => [x]))

/-- x·w, or +0 when the weight is 0 (R237). -/
def combTerm (x w : Nat) : FVx := if (fp32.value w).isZero then (.fin false 0 0, false) else FV.mul (fp32.value x) (fp32.value w)

/-- round32(term(x1, w1) + term(x2, w2)): an exact sum of two products, one rounding. -/
def combAdd (x1 w1 x2 w2 : Nat) : Nat :=
  ((FV.add .rne (combTerm x1 w1).1 (combTerm x2 w2).1).1.round fp32 .rne .gradual).bits

/-- The combine of two records (m, s, v …): the target's and the operand's. The side that holds the maximum, an infinite one too,
has weight exactly 1. -/
def combine (x y : List Nat) : List Nat :=
  let m1 := x.headD 0
  let m2 := y.headD 0
  let a := fp32.value m1
  let b := fp32.value m2
  if a.isNan || b.isNan then x.map (fun _ => 0x7FC00000)
  else
    let m := (minmaxE true tyF32 m1 m2).bits
    let weight (p : Nat) : Nat :=
      if p = 0xFF800000 then 0
      else if p = m then 0x3F800000
      else (exp2V fp32 .rne .gradual (fp32.value (subE tyF32 .rne .gradual p m).bits)).bits
    let w1 := weight m1
    let w2 := weight m2
    m :: (x.tail.zip y.tail).map (fun p => combAdd p.1 w1 p.2 w2)

/-- The 32-bit words of a record held in memory. -/
def recordWords : Nat → Nat → List Nat
  | 0, _ => []
  | n + 1, x => x % 2 ^ 32 :: recordWords n (x / 2 ^ 32)

def recordOf : List Nat → Nat
  | [] => 0
  | w :: ws => w + 2 ^ 32 * recordOf ws

def vamoCombOp (q : Rill) (e : Bool) (d a g : Nat) : VOp :=
  vamoVop q e d a g false
    (fun l => allTy tyF32 [d, a] l && decide (2 ≤ (l.region a).count0 ∧ (l.region a).count0 ≤ 32))
    (fun l => (l.region a).count1)
    (fun s k r =>
      let l := s.lcAt k
      let m := (l.region a).count0
      let va := l.reg true g + toW (4 * m * r)
      let mis := va.toNat % 4 != 0 || decide (128 < va.toNat % 128 + 4 * m)
      s.vamoStep k ((List.range m).map (fun i => (l.region a).at2 i r))
        ((List.range m).filterMap (fun i => (l.region d).own (r * m + i))) va (4 * m) mis
        (fun ys x => recordOf (combine (recordWords m x) ys)) (recordWords m))

/-! ## The meanings -/

def execVamoAdd (q : Rill) (e : Bool) (d a g ty : Nat) (s : State) : Out := vexec (vamoOp .add q e d a g ty) s
def execVamoMin (q : Rill) (e : Bool) (d a g ty : Nat) (s : State) : Out := vexec (vamoOp .min q e d a g ty) s
def execVamoMax (q : Rill) (e : Bool) (d a g ty : Nat) (s : State) : Out := vexec (vamoOp .max q e d a g ty) s
def execVamoComb (q : Rill) (e : Bool) (d a g : Nat) (s : State) : Out := vexec (vamoCombOp q e d a g) s

end Sys2Proof.Machine
end

