-- ==== Sys2Proof/Machine/Engine.lean ====
section
/-! DEFINITION. What the engines share: handing a syllable over, detecting a fault, and when an engine runs (02_encoding.md
R33, 07_traps.md R139, R140, R143). -/

namespace Sys2Proof.Machine

/-! ## Handing over (R33, R109, R133) -/

/-- An M or G syllable: what it asks of the bundle, and its hand-over to the input FIFO. Its rill bits act at its engine. -/
structure Hand where
  e : Bool
  unit : Nat
  /-- Queues it pops, as register numbers. -/
  srcs : List Nat
  illegal : LCore → Bool
  stall : LCore → Option StallOn
  /-- The logical core after the hand-over; the bundle's address and the syllable's index are given. -/
  push : Word → Nat → LCore → LCore

/-- The meaning of an M or G syllable: EP only. -/
def Hand.exec (h : Hand) (s : State) : Out :=
  s.onStream fun w =>
    match w with
    | .sluice _ => s.illegal w h.unit
    | .core ep _ k =>
      let l := s.lcAt k
      if !ep || h.illegal l then s.illegal w h.unit
      else s.issued w ⟨Rill.none, h.e, false, true, false, h.srcs, [], false, h.unit⟩ (
        match h.stall l with
        | some x => s.stallOn w x
        | none => (s.setLc k (h.push s.cur.pc s.cur.syl l)).retire w Rill.none .next)

/-! ## Running an engine -/

/-- What a step of an engine ends in. -/
inductive Eng where
  /-- Nothing to do, or its condition does not hold. -/
  | idle
  /-- It waits for a local-store page (R157). -/
  | wait
  | ok (s : State)
  | fault (cause : Nat) (addr : Word) (table : Bool)

/-- The streams and engines of physical core `c` may move: it is awake and no swap is in progress (R150). -/
def PCore.runs (p : PCore) : Bool := p.swapping.isNone && p.power == .awake

/-- A multicast store lands in this core cycle, before anything else moves (08_memory.md R159). -/
def State.mcDue (s : State) : Bool := s.multicasts.any (fun m => decide (m.at_ ≤ s.ticks))

/-! ## Mutual blocking (13_streams.md R243, R244) -/

/-- The AP stalls on what only the EP can relieve. -/
def LCore.apBlocked (l : LCore) : Bool :=
  match l.ap.stall with
  | some (.queueFull n) => decide (n < 6) && decide (16 ≤ (l.queue n).length)
  | some .cqFull => decide (32 ≤ l.cq.length)
  | some (.queueEmpty n m) => decide (6 ≤ n) && decide ((l.queue n).length < m)
  | some .rillPrev => l.tokens (qWp posA) == 0
  | _ => false

/-- The EP stalls on what only the AP can relieve; a syllable may need several entries of a queue. -/
def LCore.epBlocked (l : LCore) : Bool :=
  match l.ep.stall with
  | some (.queueEmpty n m) => decide (n < 6) && decide ((l.queue n).length < m)
  | some .cqEmpty => l.cq.isEmpty
  | some (.queueFull n) => decide (6 ≤ n) && decide (16 ≤ (l.queue n).length)
  | some .rillNext => l.tokens (qWn posV) == 0
  | _ => false

def LCore.mutual (l : LCore) : Bool := l.apBlocked && l.epBlocked

/-- The limit of DLCNT. -/
def dlLimit : Nat := 2 ^ 20

/-- QUEUE-DEADLOCK is due: the limit is reached and the streams still block one another. Until it is raised no stream moves. -/
def LCore.deadlocked (l : LCore) : Bool := decide (dlLimit ≤ l.dlcnt) && l.mutual

/-! ## When an engine runs -/

/-- The logical core whose engines may run on physical core `c`: active, not in trap mode, not with firmware (R143, R147). -/
def State.engineLc (s : State) (c : Nat) : Option Nat :=
  let p := s.coreAt c
  match p.active with
  | some k => if p.runs && !s.mcDue && !(s.lcAt k).trapMode && (s.lcAt k).esc.isNone then some k else none
  | none => none

/-- A unit detects a fault: the first one freezes the core, and of those of one core cycle the one of the lowest unit; another is
recorded with PEND (R140). A page-table error is reported (08_memory.md R154). -/
def State.detect (s : State) (k : Nat) (t : TrapInfo) (table : Bool) : State :=
  let l := s.lcAt k
  let l1 := match l.trapReq with
    | none => { l with trapReq := some t, trapAt := s.cycle }
    | some f =>
      if l.trapAt = s.cycle ∧ t.unit < f.unit then { l with trapReq := some t, pend := l.pend.ins f.unit f.cause }
      else { l with pend := l.pend.ins t.unit t.cause }
  ((s.tableError table l.ctx t.addr).setLc k l1).verdict .trapped

/-- Unit `u` has detected a fault in this freeze, and has stopped (R140). -/
def LCore.unitStopped (l : LCore) (u : Nat) : Bool :=
  (match l.trapReq with
    | some t => t.unit == u
    | none => false) || (l.pend.at? u).isSome

/-- Run one step of an engine of physical core `c`; `info` describes its head command. During a freeze nothing commits. -/
def State.engine (s : State) (c : Nat) (info : LCore → Nat → Word → TrapInfo) (f : Nat → LCore → Eng)
    (onFault : Nat → LCore → LCore) : Out :=
  match s.engineLc c with
  | none => .next (s.verdict .idle)
  | some k =>
    let l := s.lcAt k
    if l.unitStopped (info l 0 0).unit then .next (s.verdict .idle)
    else match f k l with
    | .idle => .next (s.verdict .idle)
    | .wait => .next (s.verdict .stalled)
    | .ok s1 => .next (if l.trapReq.isSome then s.verdict .idle else s1.verdict .done)
    | .fault cause addr table => .next ((s.setLc k (onFault cause l)).detect k (info l cause addr) table)

/-- The rill waits of a head command at position `p`, taken once (R110, R134). -/
def LCore.headWaits (l : LCore) (p : Nat) (q : Rill) (waited : Bool) : Option LCore :=
  if waited then some l
  else if (l.rillWait p q).isSome then none
  else some (l.rillTake p q)

end Sys2Proof.Machine
end

