-- ==== Sys2Proof/Machine/Matrix.lean ====
section
/-! DEFINITION. The matrix array: the M syllables (05_matrix.md R103) and the engine that runs their commands (R95 to R102,
R104 to R114). `mx.tw` waits on tensor chunks (R107). -/

namespace Sys2Proof.Machine

/-! ## The M word -/

/-- An M word, as the command holds it. -/
def mWord (q : Rill) (e : Bool) (func c ty a b : Nat) : Nat :=
  q.bits + eBit e + 0x30 * 2 ^ 21 + func * 2 ^ 17 + c * 2 ^ 15 + ty * 2 ^ 11 + a * 2 ^ 8 + b * 2 ^ 5

/-- The fields of an M word. -/
structure MFields where
  q : Rill
  func : Nat
  c : Nat
  ty : Nat
  a : Nat
  b : Nat
  deriving DecidableEq, Repr

def MFields.of (w : Nat) : MFields := ⟨rillOf w, fld w 20 17, fld w 16 15, fld w 14 11, fld w 10 8, fld w 7 5⟩

/-- Matrix types (Table 1 of R95). -/
def mxType (ty : Nat) : Bool := ty ≤ 5 || ty == 7 || ty == 11
/-- Targets of `mx.stc` (Table 4 of R105). -/
def stcType (ty : Nat) : Bool := ty == 0 || (2 ≤ ty && ty ≤ 5) || ty == 10 || ty == 11

/-- Operand entries a function pops from each queue. -/
def mxPops (func : Nat) : Nat :=
  match func with
  | 0 => 2
  | 1 => 2
  | 3 => 2
  | 4 => 2
  | 5 => 2
  | 6 => 1
  | 7 => 1
  | _ => 0

/-- Static faults of an M word (R43, R95, R103, R105). -/
def MFields.bad (m : MFields) : Bool :=
  match m.func with
  | 0 => !mxType m.ty || (m.ty == 0 && m.c % 2 != 0) || 5 < m.a || 5 < m.b || m.a == m.b
  | 1 => !mxType m.ty || (m.ty == 0 && m.c % 2 != 0) || 5 < m.a || 5 < m.b || m.a == m.b
  | 2 => m.ty != 0 || m.a != 0 || m.b != 0
  | 3 => m.ty != 0 || 5 < m.a || m.b != 0
  | 4 => m.ty != 0 || 5 < m.a || m.b != 0
  | 5 => !stcType m.ty || (m.ty == 0 && m.c % 2 != 0) || 5 < m.a || m.b != 0
  | 6 => m.c != 0 || m.ty != 0 || 5 < m.a || m.b != 0
  | 7 => m.c != 0 || m.ty != 0 || 5 < m.a || m.b != 0
  | 8 => m.ty != 0 || 3 < m.a || m.b != 0
  | 9 => m.c != 0 || m.ty != 0 || m.a != 0 || m.b != 0
  | _ => true

/-- The word names the banks of `is` without a declaration, or the MXA itself is not declared (R57). -/
def Kern.mxUndeclared (kern : Kern) (m : MFields) : Bool :=
  !kern.units.testBit 0 ||
  (match m.func with
    | 6 => false
    | 7 => false
    | 9 => false
    | 8 => !kern.banks.testBit m.c || !kern.banks.testBit m.a
    | 0 => !kern.banks.testBit m.c || (m.ty == 0 && !kern.banks.testBit (m.c + 1))
    | 1 => !kern.banks.testBit m.c || (m.ty == 0 && !kern.banks.testBit (m.c + 1))
    | 5 => !kern.banks.testBit m.c || (m.ty == 0 && !kern.banks.testBit (m.c + 1))
    | _ => !kern.banks.testBit m.c)

/-- The queues a word pops: number and entries. -/
def MFields.pops (m : MFields) : List (Nat × Nat) :=
  match m.func with
  | 0 => [(m.a, 2), (m.b, 2)]
  | 1 => [(m.a, 2), (m.b, 2)]
  | 8 => []
  | 9 => []
  | 2 => []
  | f => [(m.a, mxPops f)]

/-! ## Hand-over -/

/-- What keeps an M syllable from being handed over: entries missing, or no room; `mx.sync` asks for an idle MXA (R108). After a
follow-on has entered the FIFO in a core cycle no EP command does: of the two the EP's is first (R111). -/
def LCore.mxStall (l : LCore) (m : MFields) : Option StallOn :=
  match m.pops.find? (fun p => decide ((l.queue p.1).length < p.2)) with
  | some p => some (.queueEmpty p.1 p.2)
  | none =>
    if m.func = 9 then (if l.mxFifo.isEmpty then none else some .mxSync)
    else if l.foCycle ∨ 16 ≤ l.mxFifo.length then some .fifo
    else none

/-- The operand entries a word pops, in order. -/
def LCore.mxOps (l : LCore) (m : MFields) : List Word := m.pops.flatMap (fun p => (l.queue p.1).take p.2)

/-- Hand a word over: its entries are popped, FTZ and MXMASK captured; `mx.mask` writes MXMASK (R106); an `mx.sync` without
rill bits completes at once. -/
def LCore.mxPush (word : Nat) (pc : Word) (syl : Nat) (l : LCore) : LCore :=
  let m := MFields.of word
  let ops := l.mxOps m
  let l1 := m.pops.foldl (fun l p => l.setQueue p.1 ((l.queue p.1).drop p.2)) l
  let l2 := if m.func = 9 ∧ Rill.any m.q = false then l1
    else { l1 with mxFifo := l1.mxFifo ++ [⟨word, false, l.ftz, l.mxmask, ops, pc, syl⟩] }
  if m.func = 6 then { l2 with mxmask := ops.headD 0 } else l2

/-- The M syllable `func`. -/
def mxHand (q : Rill) (e : Bool) (func c ty a b : Nat) : Hand :=
  let word := mWord q e func c ty a b
  let m := MFields.of word
  { e := e
    unit := 3
    srcs := m.pops.map (fun p => 24 + p.1)
    illegal := fun l => m.bad || l.kern.mxUndeclared m
    stall := fun l => l.mxStall m
    push := LCore.mxPush word }

def execMxMac (q : Rill) (e : Bool) (c ty a b : Nat) (s : State) : Out := (mxHand q e 0 c ty a b).exec s
def execMxMacz (q : Rill) (e : Bool) (c ty a b : Nat) (s : State) : Out := (mxHand q e 1 c ty a b).exec s
def execMxZero (q : Rill) (e : Bool) (c : Nat) (s : State) : Out := (mxHand q e 2 c 0 0 0).exec s
def execMxLd (q : Rill) (e : Bool) (c a : Nat) (s : State) : Out := (mxHand q e 3 c 0 a 0).exec s
def execMxSt (q : Rill) (e : Bool) (c a : Nat) (s : State) : Out := (mxHand q e 4 c 0 a 0).exec s
def execMxStc (q : Rill) (e : Bool) (c ty a : Nat) (s : State) : Out := (mxHand q e 5 c ty a 0).exec s
def execMxMask (q : Rill) (e : Bool) (a : Nat) (s : State) : Out := (mxHand q e 6 0 0 a 0).exec s
def execMxTw (q : Rill) (e : Bool) (a : Nat) (s : State) : Out := (mxHand q e 7 0 0 a 0).exec s
def execMxAdd (q : Rill) (e : Bool) (c m : Nat) (s : State) : Out := (mxHand q e 8 c 0 m 0).exec s
def execMxSync (q : Rill) (e : Bool) (s : State) : Out := (mxHand q e 9 0 0 0 0).exec s

/-! ## Banks -/

/-- Word (i, j) of bank n. -/
def LCore.bank (l : LCore) (n i j : Nat) : Nat := (l.acc.atD (1024 * n + 32 * i + j) 0).toNat
def LCore.setBank (l : LCore) (n i j v : Nat) : LCore :=
  { l with acc := l.acc.put (1024 * n + 32 * i + j) (BitVec.ofNat 32 v) 0 }

/-- Element (i, j) of a command's bank, or of its pair in FP64 (R68). -/
def LCore.elem (l : LCore) (f64 : Bool) (n i j : Nat) : Nat :=
  l.bank n i j + (if f64 then l.bank (n + 1) i j * 2 ^ 32 else 0)
def LCore.setElem (l : LCore) (f64 : Bool) (n i j v : Nat) : LCore :=
  let l1 := l.setBank n i j (v % 2 ^ 32)
  if f64 then l1.setBank (n + 1) i j (v / 2 ^ 32) else l1

/-- Enabled rows and columns (R98): none when either side has none. -/
def maskRows (mask : Word) : List Nat := if wf mask 63 32 = 0 then [] else (List.range 32).filter (fun i => wbit mask i)
def maskCols (mask : Word) : List Nat := if wf mask 31 0 = 0 then [] else (List.range 32).filter (fun j => wbit mask (32 + j))

/-- Update every enabled element. -/
def LCore.overMask (l : LCore) (mask : Word) (f64 : Bool) (n : Nat) (f : Nat → Nat → Nat) : LCore :=
  (maskRows mask).foldl (fun l i => (maskCols mask).foldl (fun l j => l.setElem f64 n i j (f i j)) l) l

/-! ## Memory of the MXA (Table 7 of R112) -/

/-- The lowest failing address among accesses, with its cause. -/
def lowestFault : List (Nat × Nat × Bool) → Option (Nat × Nat × Bool)
  | [] => none
  | x :: xs =>
    match lowestFault xs with
    | none => some x
    | some y => if y.1 < x.1 then some y else some x

/-- Check accesses of `n` bytes at each address: the lowest failing one, else the first page to wait for. -/
def State.checkAll (s : State) (ctx k : Nat) (how : Access) (n : Nat) (vas : List Nat) : Acc Unit :=
  let rs := vas.map (fun va => (va, s.access ctx k how va n))
  let fs := rs.filterMap (fun p =>
    match p.2 with
    | .fault c a t => some (a.toNat, c, t)
    | .ok runs =>
      if runs.any (fun r => match r.place with
        | .multicast _ => true
        | .phys _ _ => false) then some (p.1, cProtection, false) else none
    | .wait _ _ => none)
  match lowestFault fs with
  | some (a, c, t) => .fault c (toW a) t
  | none =>
    match rs.findSome? (fun p => match p.2 with
      | .wait j q => some (j, q)
      | _ => none) with
    | some (j, q) => .wait j q
    | none => .ok ()

/-- The values of `n` bytes at each address, accesses already checked. -/
def State.readAll (s : State) (ctx k n : Nat) (vas : List Nat) : List Nat × State :=
  vas.foldl (fun acc va =>
    match acc.2.readVa ctx k va n with
    | .ok (bs, s1) => (acc.1 ++ [ofBytes bs], s1)
    | _ => (acc.1 ++ [0], acc.2)) ([], s)

/-! ## Products (R95 to R101) -/

/-- Bytes of an A or B element; A is packed in the ternary type. -/
def mxSize (ty : Nat) : Nat := if ty = 7 then 1 else tyBits ty / 8
/-- k values in a step (D of Table 1). -/
def mxDepth (ty : Nat) : Nat :=
  match ty with
  | 0 => 1
  | 1 => 1
  | 2 => 4
  | 3 => 4
  | 7 => 16
  | _ => 8
/-- The type sums FP24 partials over a period. -/
def mxPeriodic (ty : Nat) : Bool := 2 ≤ ty && ty ≤ 5

/-- Operand words of `mx.mac` (Table 2 of R97). -/
structure MacOps where
  va : Nat
  sa : Int
  vb : Nat
  sb : Int
  depth : Nat
  period : Nat
  reserved : Bool
  deriving DecidableEq, Repr

def MacOps.of (ops : List Word) : MacOps :=
  let w (i : Nat) := (ops.getD i 0).toNat
  ⟨w 0, sextZ 32 (w 1 % 2 ^ 32), w 2, sextZ 32 (w 3 % 2 ^ 32), fld (w 1) 47 32, fld (w 1) 63 52,
    fld (w 1) 51 48 != 0 || fld (w 3) 63 32 != 0⟩

/-- Address of A(i, k). -/
def MacOps.addrA (o : MacOps) (ty i k : Nat) : Nat :=
  (ofZ ((o.va : Int) + i * o.sa + (if ty = 7 then k / 4 else k * mxSize ty : Nat))).toNat
/-- Address of B(k, j). -/
def MacOps.addrB (o : MacOps) (ty k j : Nat) : Nat :=
  (ofZ ((o.vb : Int) + k * o.sb + (j * mxSize ty : Nat))).toNat

/-- One past the last k of the step that begins at `k0`. -/
def MacOps.stepEnd (o : MacOps) (ty k0 : Nat) : Nat :=
  min (k0 + (if mxPeriodic ty then o.period else mxDepth ty)) o.depth

/-- The exact value of an operand element of a floating-point type. -/
def mxValue (ty x : Nat) : FV :=
  match tyFmt ty with
  | some f => f.value x
  | none => FV.ofInt (tyVal ty x)

/-- The exact sum of products; a NaN operand or an invalid product makes it a NaN. -/
def dotFV (rowA colB : List FV) : FV := (FV.sum .rne ((rowA.zip colB).map (fun p => (FV.mul p.1 p.2).1))).1

/-- The FP24 partial of a period: one rounding for each `d` products (R99). -/
def partialSum (d : Nat) : Nat → List FV → List FV → FV → FV
  | 0, _, _, part => part
  | fuel + 1, as, bs, part =>
    if as.isEmpty then part
    else
      let x := (FV.add .rne part (dotFV (as.take d) (bs.take d))).1
      partialSum d fuel (as.drop d) (bs.drop d) (fp24.value (x.round fp24 .rne .gradual).bits)

/-- The integer dot of a step. -/
def dotInt (ta tb : Nat) (as bs : List Nat) : Int := (as.zip bs).foldl (fun t p => t + tyVal ta p.1 * tyVal tb p.2) 0

/-- The new element from the old one and the operands of a step. -/
def mxElement (ty : Nat) (sub : Sub) (old : Nat) (as bs : List Nat) : RRes :=
  if ty = 7 ∨ ty = 11 then .ok (tyPat tyI32 (tyVal tyI32 old + dotInt ty tyI8 as bs))
  else if mxPeriodic ty then
    let part := partialSum (mxDepth ty) as.length (as.map (mxValue ty)) (bs.map (mxValue ty)) (.fin false 0 0)
    (FV.add .rne (fp32.value old) part).1.round fp32 .rne sub
  else
    let f := if ty = 0 then fp64 else fp32
    (FV.fma .rne (f.value (as.headD 0)) (f.value (bs.headD 0)) (f.value old)).1.round f .rne sub

/-! ## The engine -/

def MxCmd.fields (m : MxCmd) : MFields := MFields.of m.word

/-- The trap a fault of the head command gives (R111, R112). -/
def LCore.mxInfo (l : LCore) (cause : Nat) (addr : Word) : TrapInfo :=
  match l.mxFifo with
  | [] => ⟨cause, 3, 0, false, 0, addr⟩
  | m :: _ => ⟨cause, 3, if m.followOn then 0 else m.syl, !m.followOn, m.pc, addr⟩

/-- A PAGE-FAULT also sets MXROW (R113). -/
def LCore.mxFaulted (cause : Nat) (l : LCore) : LCore :=
  match l.mxFifo with
  | [] => l
  | m :: _ =>
    if cause = cPageFault then
      { l with mxrow := toW (2 ^ 63 + m.fields.c * 2 ^ 16 + l.mxProg.count % 2 ^ 16) }
    else l

/-- Run one step of the MXA of physical core `c` on its head command. -/
def State.mxEngine (s : State) (c : Nat) (f : Nat → LCore → MxCmd → Eng) : Out :=
  s.engine c LCore.mxInfo (fun k l => match l.mxFifo with
    | [] => .idle
    | m :: _ => f k l m) LCore.mxFaulted

/-- Control word of a transfer (Table 5): its stride, conversion bits and reserved bits. -/
def ctlStride (w : Word) : Int := sextZ 32 (wf w 31 0)

/-- Address of element (i, j) of a transfer of `n`-byte elements. -/
def xferAddr (ops : List Word) (n i j : Nat) : Nat :=
  (ofZ (((ops.getD 0 0).toNat : Int) + i * ctlStride (ops.getD 1 0) + (j * n : Nat))).toNat

/-- Bytes of an element of a transfer: 4, or the target's. -/
def MFields.xferSize (m : MFields) : Nat := if m.func = 5 then tyBits m.ty / 8 else 4

/-- Check 1 of Table 7: the operand words (R112). -/
def MxCmd.badOps (m : MxCmd) : Bool :=
  let w1 := m.ops.getD 1 0
  match m.fields.func with
  | 0 =>
    let o := MacOps.of m.ops
    o.reserved || (mxPeriodic m.fields.ty &&
      (o.period == 0 || decide (2048 < o.period) || o.period % mxDepth m.fields.ty != 0))
  | 1 =>
    let o := MacOps.of m.ops
    o.reserved || (mxPeriodic m.fields.ty &&
      (o.period == 0 || decide (2048 < o.period) || o.period % mxDepth m.fields.ty != 0))
  | 3 => wf w1 63 32 != 0
  | 4 => wf w1 63 32 != 0
  | 5 => wf w1 63 35 != 0
  | _ => false

/-- Check 2 of Table 7 on the elements that are read or written (R98), at the start of the command and for all of it (DEDUCED: the
condition is one on the operand words; log entry 61): the lowest misaligned address, A before B. -/
def MxCmd.misaligned (m : MxCmd) : Option Nat :=
  let rows := maskRows m.mask
  let cols := maskCols m.mask
  let pick (n : Nat) (vas : List Nat) : Option Nat :=
    (lowestFault ((vas.filter (fun a => a % n != 0)).map (fun a => (a, 0, false)))).map Prod.fst
  let f := m.fields
  if f.func ≤ 1 then
    let o := MacOps.of m.ops
    if o.depth = 0 ∨ rows = [] ∨ cols = [] then none
    else
      let ks := List.range o.depth
      match pick (mxSize f.ty) (rows.flatMap (fun i => ks.map (o.addrA f.ty i))) with
      | some a => some a
      | none => pick (mxSize f.ty) (ks.flatMap (fun k => cols.map (o.addrB f.ty k)))
  else if 3 ≤ f.func ∧ f.func ≤ 5 then
    pick f.xferSize (rows.flatMap (fun i => cols.map (xferAddr m.ops f.xferSize i)))
  else none

/-! ### `mx.tw` (R107) -/

/-- Fields of the entry of `mx.tw` (Table 6). -/
def twCount (w : Word) : Nat := wf w 59 44
def twFirst (w : Word) : Nat := wf w 43 16
def twDesc (w : Word) : Nat := wf w 11 0
def twReserved (w : Word) : Bool := wf w 63 60 != 0 || wf w 15 12 != 0

/-! ### Steps -/

/-- Started, for a command whose effect is still to come. -/
def Progress.go (p : Progress) : Progress := { p with waited := true, started := true }
def Progress.end_ (p : Progress) : Progress := { p with done := true }

/-- The k-steps, of `d` values of k each, that make up `ks`. -/
def kSteps (d : Nat) : Nat → List Nat → List (List Nat)
  | 0, _ => []
  | fuel + 1, ks => if ks.isEmpty then [] else ks.take d :: kSteps d fuel (ks.drop d)

/-- The memory checks of the k-steps in turn, in each of them A before B (R112). -/
def State.macChecks (s : State) (ctx k ty : Nat) (o : MacOps) (rows cols : List Nat) : List (List Nat) → Acc Unit
  | [] => .ok ()
  | ks :: rest =>
    let n := mxSize ty
    ((s.checkAll ctx k .load n (rows.flatMap (fun i => ks.map (o.addrA ty i)))).bind (fun _ =>
      s.checkAll ctx k .load n (cols.flatMap (fun j => ks.map (fun x => o.addrB ty x j))))).bind (fun _ =>
        s.macChecks ctx k ty o rows cols rest)

/-- A step of `mx.mac` or `mx.macz`: from the progress count to the end of the period or k-step. The count is in k for every type
(R100, Table 8; where R113 counts k-steps, DEDUCED, log entry 61). -/
def State.mxMacStep (s : State) (k : Nat) (l : LCore) (m : MxCmd) : Eng :=
  let f := m.fields
  let f64 := f.ty == 0
  let o := MacOps.of m.ops
  let k0 := l.mxProg.count
  let k1 := o.stepEnd f.ty k0
  let rows := if k1 ≤ k0 then [] else maskRows m.mask
  let cols := if k1 ≤ k0 then [] else maskCols m.mask
  let rows := if cols = [] then [] else rows
  let cols := if rows = [] then [] else cols
  let n := mxSize f.ty
  let ks := (List.range (k1 - k0)).map (k0 + ·)
  let vasA := rows.flatMap (fun i => ks.map (o.addrA f.ty i))
  let vasB := cols.flatMap (fun j => ks.map (fun x => o.addrB f.ty x j))
  match s.macChecks l.ctx k f.ty o rows cols (kSteps (mxDepth f.ty) ks.length ks) with
  | .fault c a t => .fault c a t
  | .wait _ _ => .wait
  | .ok _ =>
    let (xs, s1) := s.readAll l.ctx k n vasA
    let (ys, s2) := s1.readAll l.ctx k n vasB
    let d := ks.length
    -- a ternary element is two bits of its byte (R96)
    let pickA (r : Nat) : List Nat :=
      let row := (xs.drop (r * d)).take d
      if f.ty = 7 then (row.zip ks).map (fun p => p.1 / 4 ^ (p.2 % 4) % 4) else row
    let pickB (r : Nat) : List Nat := (ys.drop (r * d)).take d
    let l1 := s2.lcAt k
    let l1 := if f.func = 1 ∧ k0 = 0 then l1.overMask m.mask f64 f.c (fun _ _ => 0) else l1
    let sub := l.stepSub 3 m.ftz
    let news := (List.range rows.length).flatMap (fun r => (List.range cols.length).map (fun x =>
      (rows.getD r 0, cols.getD x 0, mxElement f.ty sub (l1.elem f64 f.c (rows.getD r 0) (cols.getD x 0)) (pickA r) (pickB x))))
    if news.any (fun e => e.2.2.assist) then .fault cSubnormalAssist 0 false
    else
      let l2 := news.foldl (fun l e => l.setElem f64 f.c e.1 e.2.1 e.2.2.bits) l1
      let p := { l2.mxProg with count := k1, done := decide (o.depth ≤ k1) }
      .ok (s2.setLc k (({ l2 with mxProg := p }.assistUsed 3).count 5 (ceilDiv (k1 - k0) (mxDepth f.ty))))

/-- One row of `mx.ld`. -/
def State.mxLdStep (s : State) (k : Nat) (l : LCore) (m : MxCmd) : Eng :=
  let i := l.mxProg.count
  let cols := if (maskRows m.mask).contains i then maskCols m.mask else []
  let vas := cols.map (fun j => xferAddr m.ops 4 i j)
  match s.checkAll l.ctx k .load 4 vas with
  | .fault c a t => .fault c a t
  | .wait _ _ => .wait
  | .ok _ =>
    let (xs, s1) := s.readAll l.ctx k 4 vas
    let l1 := (cols.zip xs).foldl (fun l p => l.setBank m.fields.c i p.1 p.2) (s1.lcAt k)
    .ok (s1.setLc k { l1 with mxProg := { l1.mxProg with count := i + 1, done := i + 1 == 32 } })

/-- What `mx.stc` stores of an element, with its flags and its contribution to AMAX (Table 4). -/
def stcElement (ty : Nat) (ctl : Word) (x : Nat) : RRes × (Bool × Nat) :=
  if ty = 0 then (.ok x, (false, 0))
  else if ty = 10 ∨ ty = 11 then (cvtIntInt ty (tyVal tyI32 x), (false, 0))
  else (convertE tyF32 ty (RMode.ofCode (wf ctl 34 33)) .gradual (wbit ctl 32) x, amaxOf tyF32 x)

/-- One row of `mx.st` or `mx.stc`. -/
def State.mxStStep (s : State) (k : Nat) (l : LCore) (m : MxCmd) : Eng :=
  let f := m.fields
  let i := l.mxProg.count
  let n := f.xferSize
  let cols := if (maskRows m.mask).contains i then maskCols m.mask else []
  let vas := cols.map (fun j => xferAddr m.ops n i j)
  match s.checkAll l.ctx k .store n vas with
  | .fault c a t => .fault c a t
  | .wait _ _ => .wait
  | .ok _ =>
    let rs := cols.map (fun j =>
      if f.func = 5 then stcElement f.ty (m.ops.getD 1 0) (l.elem (f.ty == 0) f.c i j)
      else (RRes.ok (l.bank f.c i j), (false, 0)))
    let s1 := (vas.zip rs).foldl (fun s p =>
      match s.writeVa l.ctx k p.1 (bytesOf n p.2.1.bits) with
      | .ok s' => s'
      | _ => s) s
    let flags := (joinRes (rs.map Prod.fst)).flags
    let nan := rs.any (fun r => r.2.1)
    let mag := rs.foldl (fun a r => max a r.2.2) 0
    let l1 := s1.lcAt k
    .ok (s1.setLc k { l1 with
      mxProg := { l1.mxProg with count := i + 1, done := i + 1 == 32 }
      pendM := if f.func = 5 ∧ f.ty ≠ 0 then l1.pendM.commit flags nan mag else l1.pendM })

/-- `mx.add`: C_N ← round32(C_N + C_M) on enabled elements, all read first (R103). -/
def State.mxAddStep (s : State) (k : Nat) (l : LCore) (m : MxCmd) : Eng :=
  let f := m.fields
  let sub := l.stepSub 3 m.ftz
  let one (i j : Nat) : RRes :=
    (FV.add .rne (fp32.value (l.bank f.c i j)) (fp32.value (l.bank f.a i j))).1.round fp32 .rne sub
  if (maskRows m.mask).any (fun i => (maskCols m.mask).any (fun j => (one i j).assist)) then .fault cSubnormalAssist 0 false
  else
    let l1 := l.overMask m.mask false f.c (fun i j => (one i j).bits)
    .ok (s.setLc k ({ l1 with mxProg := l1.mxProg.end_ }.assistUsed 3))

/-- The bank's words all become +0. -/
def LCore.zeroBank (l : LCore) (n : Nat) : LCore :=
  { l with acc := l.acc.filter (fun p => decide (p.1 / 1024 ≠ n)) }

/-- MX_STEP: one period, k-step or row of the head command, started and not done. -/
def execMxStep (core : Nat) (s : State) : Out :=
  s.mxEngine core (fun k l m =>
    if !l.mxProg.started || l.mxProg.done then .idle
    else
      match m.fields.func with
      | 0 => s.mxMacStep k l m
      | 1 => s.mxMacStep k l m
      | 2 => .ok (s.setLc k { l.zeroBank m.fields.c with mxProg := l.mxProg.end_ })
      | 3 => s.mxLdStep k l m
      | 4 => s.mxStStep k l m
      | 5 => s.mxStStep k l m
      | 8 => s.mxAddStep k l m
      | _ => .idle)

/-- A command ends: the FIFO moves on, the pending status merges, MXROW.VALID clears, the signals are given (R110, R113,
R183). A signal into a full queue holds the command. -/
def State.mxEnd (s : State) (k : Nat) (l : LCore) (m : MxCmd) : Eng :=
  if l.rillFull posM m.fields.q then .idle
  else
    let l1 := (l.mergeStat l.pendM).rillGive posM m.fields.q
    .ok (s.setLc k ({ l1 with
      pendM := NumStat.zero
      mxrow := if wbit l1.mxrow 63 then 0 else l1.mxrow
      mxFifo := l1.mxFifo.tail
      mxProg := Progress.zero }.count 6 1))

/-- MX_COMMAND_COMPLETE. -/
def execMxCommandComplete (core : Nat) (s : State) : Out :=
  s.mxEngine core (fun k l m => if l.mxProg.started && l.mxProg.done then s.mxEnd k l m else .idle)

end Sys2Proof.Machine
end

