-- ==== Sys2Proof/Machine/Rotator.lean ====
section
/-! DEFINITION. The rotator array: its cells (06_rotator.md R118 to R124), the G syllables (R125) and the engine that runs
their commands (R126 to R137). -/

namespace Sys2Proof.Machine

/-! ## Cell arithmetic (R118) -/

/-- A value computed with flags, and whether it called for an assist. -/
structure Cell (α : Type) where
  val : α
  flags : Nat
  assist : Bool

def Cell.pure {α : Type} (a : α) : Cell α := ⟨a, 0, false⟩
def Cell.map {α β : Type} (x : Cell α) (f : α → β) : Cell β := ⟨f x.val, x.flags, x.assist⟩
def Cell.bind {α β : Type} (x : Cell α) (f : α → Cell β) : Cell β :=
  let y := f x.val
  ⟨y.val, x.flags ||| y.flags, x.assist || y.assist⟩

/-- Sequence a computation over a list. -/
def Cell.foldl {α β : Type} (f : α → β → Cell α) : α → List β → Cell α
  | a, [] => .pure a
  | a, b :: bs => (f a b).bind (fun a' => Cell.foldl f a' bs)

def qnan32 : Nat := 0x7FC00000
def zWord : Nat := 0x04000000

/-- The compensation constant (R123). -/
def ck : Nat := 0x26DD3B6A1

/-- Exponent, and the signed integer sign · floor(|v| · 2^(30 − e)). -/
def alignTo (v : FV) (e : Int) : Int :=
  match v with
  | .fin neg m x =>
    let s := x + 30 - e
    let a : Nat := if 0 ≤ s then m * 2 ^ s.toNat else m / 2 ^ (-s).toNat
    if neg then -(a : Int) else a
  | _ => 0

/-- floor(log2 |v|) of a finite nonzero value. -/
def expoOf (v : FV) : Option Int :=
  match v with
  | .fin _ m x => if m = 0 then none else some (m.log2 + x)
  | _ => none

def maxExpo (a b : FV) : Int :=
  match expoOf a, expoOf b with
  | some x, some y => max x y
  | some x, none => x
  | none, some y => y
  | none, none => 0

/-- One micro-rotation. -/
def microStep (k : Nat) (cw : Bool) (x y : Int) : Int × Int :=
  let d : Int := (2 ^ k : Nat)
  if cw then (x + y / d, y - x / d) else (x - y / d, y + x / d)

/-- The 24 micro-rotations of the sign bits `s`. -/
def micro (s : Nat) (x y : Int) : Int × Int :=
  (List.range 24).foldl (fun p k => microStep k (s.testBit k) p.1 p.2) (x, y)

/-- Deliver a fixed-point result: a zero is +0. -/
def renorm (sub : Sub) (v e : Int) (comp : Bool) : Cell Nat :=
  let r := roundTo fp32 .rne sub false (decide (v < 0)) (v.natAbs * (if comp then ck else 1)) (if comp then e - 64 else e - 30)
  ⟨r.bits, r.flags, r.assist⟩

/-- The boundary cell: the magnitude and the rotation word (R120). -/
def vecCell (sub : Sub) (x y : Nat) (comp : Bool) : Cell (Nat × Nat) :=
  let a := fp32.value x
  let b := fp32.value y
  if a.isNan || b.isNan || a.isInf || b.isInf then ⟨(qnan32, zWord), nv, false⟩
  else if a.isZero && b.isZero then .pure (x, zWord)
  else
    let e := maxExpo a b
    let vx := alignTo a e
    let vy := alignTo b e
    let (vx, vy, q) := if vx < 0 then (if 0 ≤ vy then (vy, -vx, 1) else (-vy, vx, 2)) else (vx, vy, 0)
    let (vx, _, s) := (List.range 24).foldl (fun (p : Int × Int × Nat) k =>
      let cw := decide (0 ≤ p.2.1)
      let (x', y') := microStep k cw p.1 p.2.1
      (x', y', p.2.2 + if cw then 2 ^ k else 0)) (vx, vy, 0)
    (renorm sub vx e comp).map (fun m => (m, q * 2 ^ 24 + s))

/-- The inner cell (R120). -/
def rotCell (sub : Sub) (w u v : Nat) (cu cv : Bool) : Cell (Nat × Nat) :=
  let a := fp32.value u
  let b := fp32.value v
  if w.testBit 26 then .pure (u, v)
  else if a.isZero && b.isZero then .pure (u, v)
  else if a.isNan || b.isNan || a.isInf || b.isInf then ⟨(qnan32, qnan32), nv, false⟩
  else
    let e := maxExpo a b
    let x := alignTo a e
    let y := alignTo b e
    let (x, y) := match fld w 25 24 with
      | 1 => (y, -x)
      | 2 => (-y, x)
      | 3 => (-x, -y)
      | _ => (x, y)
    let (x, y) := micro (w % 2 ^ 24) x y
    (renorm sub x e cu).bind (fun m => (renorm sub y e cv).map (fun n => (m, n)))

/-- A rotation word is malformed (R119). -/
def badRotWord (w : Nat) : Bool := fld w 31 27 != 0 || (w.testBit 26 && w % 2 ^ 26 != 0)

/-! ### Angles (R121) -/

def angTable : List Nat :=
  [0x20000000, 0x12E4051E, 0x09FB385B, 0x051111D4, 0x028B0D43, 0x0145D7E1,
   0x00A2F61E, 0x00517C55, 0x0028BE53, 0x00145F2F, 0x000A2F98, 0x000517CC]
  ++ [0x00028BE6, 0x000145F3, 0x0000A2FA, 0x0000517D, 0x000028BE, 0x0000145F,
   0x00000A30, 0x00000518, 0x0000028C, 0x00000146, 0x000000A3, 0x00000051]

/-- The rotation word of a binary angle in BAM32 units. -/
def angWord (a : Nat) : Nat :=
  let t := (a + 2 ^ 29) / 2 ^ 30 % 4
  let q := match t with
    | 0 => 0
    | 1 => 2
    | 2 => 3
    | _ => 1
  let z := sextZ 32 (((a : Int) - (t * 2 ^ 30 : Nat)) % 2 ^ 32).toNat
  let r := (List.range 24).foldl (fun (p : Int × Nat) k =>
    let d : Int := (angTable.getD k 0 : Nat)
    if 0 ≤ p.1 then (p.1 - d, p.2) else (p.1 + d, p.2 + 2 ^ k)) (z, 0)
  q * 2 ^ 24 + r.2

/-! ### Gain (R122 to R124) -/

/-- The deferred compensation of an entry with `n` pending rotations. -/
def compensate (sub : Sub) (n v : Nat) : Cell Nat :=
  if n = 0 then .pure v
  else
    match fp32.value v with
    | .nan sig => ⟨qnan32, flagIf sig nv, false⟩
    | .inf _ => .pure v
    | .fin neg m e =>
      let r := roundTo fp32 .rne sub false (neg && m != 0) (m * ck ^ n) (e - 34 * n)
      ⟨r.bits, r.flags, r.assist⟩

/-! ## TRI and RTCNT (R69) -/

def triU (i j : Nat) : Nat := i * 16 - i * (i - 1) / 2 + (j - i)
def triB (i c : Nat) : Nat := 136 + 4 * i + c

def LCore.triAt (l : LCore) (n : Nat) : Nat := (l.tri.atD n 0).toNat
def LCore.setTri (l : LCore) (n v : Nat) : LCore := { l with tri := l.tri.put n (BitVec.ofNat 32 v) 0 }
def LCore.cntAt (l : LCore) (i : Nat) : Nat := l.rtcnt.atD i 0
def LCore.setCnt (l : LCore) (i v : Nat) : LCore := { l with rtcnt := l.rtcnt.put i v 0 }

/-- The upper-triangular positions (i, j). -/
def triPairs : List (Nat × Nat) := (List.range 16).flatMap (fun i => (List.range (16 - i)).map (fun d => (i, i + d)))

/-- Every U(i, j) replaced by its deferred compensation; counts kept. -/
def LCore.compU (sub : Sub) (l : LCore) : Cell LCore :=
  Cell.foldl (fun l p => (compensate sub (l.cntAt p.1) (l.triAt (triU p.1 p.2))).map (l.setTri (triU p.1 p.2))) l triPairs

/-- The first `count` entries of B replaced by their deferred compensation. -/
def LCore.compB (sub : Sub) (count : Nat) (l : LCore) : Cell LCore :=
  Cell.foldl (fun l n => (compensate sub (l.cntAt (n / 4)) (l.triAt (136 + n))).map (l.setTri (136 + n))) l
    (List.range (min count 64))

/-! ## The G word (R125) -/

def gWord (q : Rill) (e : Bool) (func gm a b sub : Nat) : Nat :=
  q.bits + eBit e + 0x34 * 2 ^ 21 + func * 2 ^ 17 + gm * 2 ^ 15 + a * 2 ^ 11 + b * 2 ^ 7 + sub * 2 ^ 4

/-- The fields of a G word. -/
structure GFields where
  q : Rill
  func : Nat
  gm : Nat
  a : Nat
  b : Nat
  sub : Nat
  deriving DecidableEq, Repr

def GFields.of (w : Nat) : GFields := ⟨rillOf w, fld w 20 17, fld w 16 15, fld w 14 11, fld w 10 7, fld w 6 4⟩

/-- The types of da and db (Table 3): no condition where the descriptor is not named. -/
def GFields.types (g : GFields) : List (Nat × Nat) :=
  match g.func with
  | 1 => [(g.a, tyF32)]
  | 2 => [(g.a, tyF32)]
  | 3 => if g.sub = 0 then [(g.a, tyF32)] else [(g.a, tyF32), (g.b, tyF32)]
  | 4 => [(g.a, tyF32), (g.b, tyU32)]
  | 5 => [(g.a, tyF32), (g.b, tyU32)]
  | 6 => [(g.a, if g.sub = 0 then tyU16 else tyU32), (g.b, tyU32)]
  | 7 => [(g.a, tyF32), (g.b, tyB1)]
  | 8 => [(g.a, tyF32), (g.b, tyU32)]
  | 10 => [(g.a, tyF32)]
  | _ => []

/-- Static faults of a G word beside its types. -/
def GFields.bad (g : GFields) : Bool :=
  g.gm == 3 ||
  (match g.func with
    | 3 => decide (4 < g.sub) || (g.sub == 0 && g.b != 0)
    | 7 => decide (4 < g.sub)
    | 6 => decide (1 < g.sub)
    | n => decide (10 < n))

/-- The RTA FIFO holds 8 commands; the descriptors and FTZ are captured (R133). -/
def rtHand (q : Rill) (e : Bool) (func gm a b sub : Nat) : Hand :=
  let word := gWord q e func gm a b sub
  let g := GFields.of word
  { e := e
    unit := 4
    srcs := []
    illegal := fun l => g.bad || !l.kern.units.testBit 1 || g.types.any (fun p => l.ty p.1 != p.2)
    stall := fun l => if 8 ≤ l.rtFifo.length then some .fifo else none
    push := fun pc syl l =>
      { l with rtFifo := l.rtFifo ++ [⟨word, l.ftz, l.descs.atD a 0, l.descs.atD b 0, pc, syl⟩] } }

def execRtClr (q : Rill) (e : Bool) (s : State) : Out := (rtHand q e 0 0 0 0 0).exec s
def execRtLd (q : Rill) (e : Bool) (a : Nat) (s : State) : Out := (rtHand q e 1 0 a 0 0).exec s
def execRtSt (q : Rill) (e : Bool) (g a : Nat) (s : State) : Out := (rtHand q e 2 g a 0 0).exec s
def execRtQr (q : Rill) (e : Bool) (g a b n : Nat) (s : State) : Out := (rtHand q e 3 g a b n).exec s
def execRtVec (q : Rill) (e : Bool) (g a b : Nat) (s : State) : Out := (rtHand q e 4 g a b 0).exec s
def execRtRot (q : Rill) (e : Bool) (g a b : Nat) (s : State) : Out := (rtHand q e 5 g a b 0).exec s
def execRtAngB16 (q : Rill) (e : Bool) (a b : Nat) (s : State) : Out := (rtHand q e 6 0 a b 0).exec s
def execRtAngB32 (q : Rill) (e : Bool) (a b : Nat) (s : State) : Out := (rtHand q e 6 0 a b 1).exec s
def execRtSol (q : Rill) (e : Bool) (g a b n : Nat) (s : State) : Out := (rtHand q e 7 g a b n).exec s
def execRtApp (q : Rill) (e : Bool) (g a b : Nat) (s : State) : Out := (rtHand q e 8 g a b 0).exec s
def execRtGz (q : Rill) (e : Bool) (s : State) : Out := (rtHand q e 9 0 0 0 0).exec s
def execRtRhs (q : Rill) (e : Bool) (a : Nat) (s : State) : Out := (rtHand q e 10 0 a 0 0).exec s

/-! ## The engine -/

def RtCmd.fields (m : RtCmd) : GFields := GFields.of m.word
def RtCmd.ra (m : RtCmd) : Region := Region.of m.da
def RtCmd.rb (m : RtCmd) : Region := Region.of m.db

/-- Rows or items of a streaming command. -/
def RtCmd.rows (m : RtCmd) : Nat :=
  match m.fields.func with
  | 3 => if m.ra.size = 0 then 0 else m.ra.count1
  | 4 => min m.ra.count1 m.rb.count1
  | 5 => min m.ra.count1 m.rb.count1
  | 6 => min m.ra.size m.rb.size
  | 8 => if m.ra.size = 0 then 0 else m.ra.count1
  | _ => 0

def RtCmd.streams (m : RtCmd) : Bool :=
  match m.fields.func with
  | 3 => true
  | 4 => true
  | 5 => true
  | 6 => true
  | 8 => true
  | _ => false

/-- Check 1 of Table 4 on descriptors and counts. -/
def RtCmd.badOperand (m : RtCmd) : Bool :=
  match m.fields.func with
  | 3 => decide (16 < m.ra.count0)
  | 8 => decide (16 < m.ra.count0) || decide (m.rb.size < 120)
  | 7 => m.ra.count1 == 0 || decide (16 < m.ra.count1) || decide (m.ra.count0 < m.fields.sub) || decide (m.rb.size < m.ra.count1)
  | _ => false

/-- Elements with walk number below `n`. -/
def Region.firsts (r : Region) (n : Nat) : List El := (List.range (min n r.size)).map r.el

/-- The words W(i, j) of `rt.app`, by number. -/
def appIndex (i j : Nat) : Nat := i * 15 - i * (i - 1) / 2 + (j - i - 1)

/-- Elements of row or item `r` that hold rotation words to apply. -/
def RtCmd.wordEls (m : RtCmd) (r : Nat) : List El :=
  match m.fields.func with
  | 5 => (m.rb.own2 0 r).toList
  | 8 => m.rb.firsts 120
  | _ => []

/-- The elements of row or item `r` of a streaming command, or of the whole of another command, in checking order. -/
def RtCmd.els (m : RtCmd) (r : Nat) : List El :=
  let a := m.ra
  let b := m.rb
  let f := m.fields
  match f.func with
  | 1 => a.firsts 200
  | 2 => a.firsts 200
  | 10 => a.firsts 64
  | 3 => (List.range 16).filterMap (fun j => a.own2 j r) ++ (List.range f.sub).filterMap (fun c => b.own2 c r)
  | 4 => (a.own2 0 r).toList ++ (a.own2 1 r).toList ++ (b.own2 0 r).toList
  | 5 => (a.own2 0 r).toList ++ (a.own2 1 r).toList ++ (b.own2 0 r).toList
  | 6 => (a.own r).toList ++ (b.own r).toList
  | 8 => (List.range 16).filterMap (fun j => a.own2 j r) ++ b.firsts 120
  | 7 => (List.range a.count1).flatMap (fun i => (List.range f.sub).filterMap (fun c => a.own2 c i)) ++ b.firsts a.count1
  | _ => []

/-- A rotation word that its own location's checks let be read is malformed. -/
def State.wordBad (s : State) (l : LCore) (x : El) : Bool := s.checkEls l [x] == .ok && badRotWord (s.readEl l x)

/-- The checks of row or item `r`: check 1 on each word that passes the others, then those (R136). -/
def State.rtCheck (s : State) (l : LCore) (m : RtCmd) (r : Nat) : Chk :=
  if (m.wordEls r).any (s.wordBad l) then .fault cRotatorOperand 0 else s.checkEls l (m.els r)

/-- The value of an element, +0 at the edge. -/
def State.elOr (s : State) (l : LCore) (x : Option El) : Nat := (x.map (s.readEl l)).getD 0

/-- Writes to elements that are there. -/
def outs (ws : List (Option El × Nat)) : List (El × Nat) := ws.filterMap (fun p => p.1.map (fun x => (x, p.2)))

/-- What a row computes: the logical core's TRI and RTCNT after it, and the elements it writes. -/
abbrev RowOut := Cell (LCore × List (El × Nat))

/-- One level of `rt.qr`: row `i` of the array meets the row `xs`. -/
def qrLevel (sub : Sub) (gm n : Nat) (p : LCore × List Nat) (i : Nat) : Cell (LCore × List Nat) :=
  let st := gm == 1
  let ps := gm != 0
  let l := p.1
  let xs := p.2
  (vecCell sub (l.triAt (triU i i)) (xs.getD i 0) st).bind (fun mw =>
    let l := l.setTri (triU i i) mw.1
    let w := mw.2
    let cols := ((List.range 16).filter (fun j => decide (i < j))).map (fun j => (triU i j, j))
      ++ (List.range n).map (fun c => (triB i c, 16 + c))
    (Cell.foldl (fun (p : LCore × List Nat) (c : Nat × Nat) =>
        (rotCell sub w (p.1.triAt c.1) (p.2.getD c.2 0) st ps).map (fun uv => (p.1.setTri c.1 uv.1, p.2.set c.2 uv.2)))
      (l, xs) cols).map (fun p =>
        (if !w.testBit 26 && gm != 1 then p.1.setCnt i (min (p.1.cntAt i + 1) 0xFFFF) else p.1, p.2)))

/-- Row `r` of `rt.qr` (R128). -/
def State.qrRow (s : State) (l : LCore) (sub : Sub) (m : RtCmd) (r : Nat) : RowOut :=
  let n := m.fields.sub
  let xs := (List.range 16).map (fun j => s.elOr l (m.ra.own2 j r)) ++ (List.range n).map (fun c => s.elOr l (m.rb.own2 c r))
  (Cell.foldl (qrLevel sub m.fields.gm n) (l, xs) (List.range 16)).map (fun p =>
    (p.1, outs ((List.range n).map (fun c => (m.rb.own2 c r, p.2.getD (16 + c) 0)))))

/-- Row `r` of `rt.vec`, `rt.rot` and `rt.app`, item `r` of `rt.ang` (R129 to R131). -/
def State.regionRow (s : State) (l : LCore) (sub : Sub) (m : RtCmd) (r : Nat) : RowOut :=
  let c := m.fields.gm == 1
  let a := m.ra
  let b := m.rb
  let x := s.elOr l (a.own2 0 r)
  let y := s.elOr l (a.own2 1 r)
  match m.fields.func with
  | 4 => (vecCell sub x y c).map (fun mw => (l, outs [(a.own2 0 r, mw.1), (a.own2 1 r, 0), (b.own2 0 r, mw.2)]))
  | 5 => (rotCell sub (s.elOr l (b.own2 0 r)) x y c c).map (fun uv => (l, outs [(a.own2 0 r, uv.1), (a.own2 1 r, uv.2)]))
  | 6 =>
    let v := s.elOr l (a.own r)
    .pure (l, outs [(b.own r, angWord (if m.fields.sub = 0 then v * 65536 else v))])
  | _ =>
    let xs := (List.range 16).map (fun j => s.elOr l (a.own2 j r))
    let pairs := (List.range 15).flatMap (fun i => ((List.range 16).filter (fun j => decide (i < j))).map (fun j => (i, j)))
    (Cell.foldl (fun (xs : List Nat) (ij : Nat × Nat) =>
      (rotCell sub (s.elOr l (b.own (appIndex ij.1 ij.2))) (xs.getD ij.1 0) (xs.getD ij.2 0) c c).map
        (fun uv => (xs.set ij.1 uv.1).set ij.2 uv.2)) xs pairs).map (fun xs =>
        (l, outs ((List.range 16).map (fun j => (a.own2 j r, xs.getD j 0)))))

/-- One fused step round32(s − u·x); a zero result is +0. -/
def fusedStep (sub : Sub) (acc u x : Nat) : Cell Nat :=
  let v := FV.fma .rne (fp32.value u).negate (fp32.value x) (fp32.value acc)
  let z : FV := match v.1 with
    | .fin neg m e => if m = 0 then FV.fin false 0 e else FV.fin neg m e
    | o => o
  let r := z.round fp32 .rne sub
  ⟨r.bits, r.flags ||| flagIf v.2 nv, r.assist⟩

/-- The IEEE quotient (R132). -/
def div32 (sub : Sub) (x y : Nat) : Cell Nat :=
  let q := FV.div (fp32.value x) (fp32.value y)
  let r := q.1.round fp32 .rne sub
  ⟨r.bits, r.flags ||| q.2, r.assist⟩

/-- The effect of a command that is no streaming one, in one step (R126, R127, R132). -/
def State.rtWhole (s : State) (l : LCore) (sub : Sub) (m : RtCmd) : RowOut :=
  let f := m.fields
  let a := m.ra
  let zero (l : LCore) : LCore := { l with rtcnt := [] }
  match f.func with
  | 0 => .pure ({ l with tri := [], rtcnt := [] }, [])
  | 1 => .pure (zero ((List.range 200).foldl (fun l n => l.setTri n (s.elOr l (a.own n))) l), [])
  | 10 => .pure ((List.range 64).foldl (fun l n => l.setTri (136 + n) (s.elOr l (a.own n))) l, [])
  | 2 =>
    if f.gm = 2 then
      (l.compU sub).bind (fun l1 => (l1.compB sub (a.size - 136)).map (fun l2 =>
        (zero l1, outs ((List.range 200).map (fun n => (a.own n, l2.triAt n))))))
    else .pure (l, outs ((List.range 200).map (fun n => (a.own n, l.triAt n))))
  | 9 => (l.compU sub).map (fun l1 => (zero l1, []))
  | _ =>
    let rows := a.count1
    let prep : Cell (LCore × LCore) :=
      if f.gm = 2 then (l.compB sub 64).bind (fun l1 => (l1.compU sub).map (fun u => (zero l1, u))) else .pure (l, l)
    prep.bind (fun lu =>
      let u := lu.2
      let bits := (List.range rows).map (fun i =>
        let d := fp32.value (u.triAt (triU i i))
        (m.rb.own i, if d.isZero || d.isInf || d.isNan then 1 else 0))
      let column (c : Nat) : Cell (List Nat) :=
        Cell.foldl (fun (xs : List Nat) (i : Nat) =>
          (Cell.foldl (fun acc j => fusedStep sub acc (u.triAt (triU i j)) (xs.getD j 0)) (lu.1.triAt (triB i c))
            ((List.range rows).filter (fun j => decide (i < j)))).bind (fun acc =>
              (div32 sub acc (u.triAt (triU i i))).map (fun x => xs.set i x)))
          (List.replicate rows 0) (List.range rows).reverse
      (Cell.foldl (fun ws c => (column c).map (fun xs =>
          ws ++ (List.range rows).map (fun i => (a.own2 c i, xs.getD i 0)))) [] (List.range f.sub)).map
        (fun ws => (lu.1, outs (bits ++ ws))))

/-! ### Events -/

/-- The trap a fault of the head command gives. -/
def LCore.rtInfo (l : LCore) (cause : Nat) (addr : Word) : TrapInfo :=
  match l.rtFifo with
  | [] => ⟨cause, 4, 0, true, 0, addr⟩
  | m :: _ => ⟨cause, 4, m.syl, true, m.pc, addr⟩

def State.rtEngine (s : State) (c : Nat) (f : Nat → LCore → RtCmd → Eng) (onFault : Nat → LCore → LCore) : Out :=
  s.engine c LCore.rtInfo (fun k l => match l.rtFifo with
    | [] => .idle
    | m :: _ => f k l m) onFault

/-- The head command's waits are taken. -/
def LCore.rtWaited (l : LCore) : LCore :=
  match l.rtFifo with
  | [] => l
  | m :: _ =>
    let l1 := (l.headWaits posR m.fields.q l.rtProg.waited).getD l
    { l1 with rtProg := { l1.rtProg with waited := true } }

/-- RT_COMMAND_START: waits at R, then the checks that are made before any row. -/
def execRtCommandStart (core : Nat) (s : State) : Out :=
  s.rtEngine core (fun k l m =>
    if l.rtProg.started then .idle
    else
      match l.headWaits posR m.fields.q l.rtProg.waited with
      | none => .idle
      | some _ =>
        let go : Eng := .ok (s.setLc k { l.rtWaited with rtProg := { l.rtWaited.rtProg with started := true } })
        if m.badOperand then .fault cRotatorOperand 0 false
        else if m.streams then go
        else
          match s.rtCheck l m 0 with
          | .ok => go
          | .fault c a => .fault c a false
          | .wait _ => .wait) (fun _ l => l.rtWaited)

/-- Commit a row: TRI, RTCNT, elements and flags as one step. -/
def State.rtCommit (s : State) (k : Nat) (l : LCore) (r : RowOut) (f : LCore → LCore) : Eng :=
  if r.assist then .fault cSubnormalAssist 0 false
  else
    let l1 := r.val.1
    let s1 := s.writeEls l r.val.2
    .ok (s1.setLc k (f ({ l1 with fpmode := l1.fpmode ||| toW (r.flags * 16) }.assistUsed 4)))

/-- RT_ROW_COMMIT: the next row or item of a started streaming command. -/
def execRtRowCommit (core : Nat) (s : State) : Out :=
  s.rtEngine core (fun k l m =>
    let r := l.rtProg.count
    if !l.rtProg.started || !m.streams || m.rows ≤ r then .idle
    else
      match s.rtCheck l m r with
      | .fault c a => .fault c a false
      | .wait _ => .wait
      | .ok =>
        let sub := l.stepSub 4 m.ftz
        let out := if m.fields.func = 3 then s.qrRow l sub m r else s.regionRow l sub m r
        s.rtCommit k l out (fun l => { l with rtProg := { l.rtProg with count := r + 1 } }.count 7 1)) (fun _ l => l)

/-- The FIFO moves on and the signals are given. -/
def LCore.rtEnd (m : RtCmd) (l : LCore) : LCore :=
  { (l.rillGive posR m.fields.q) with rtFifo := l.rtFifo.tail, rtProg := Progress.zero }

/-- RT_COMMAND_COMPLETE: every row is committed, or the whole command takes effect; then the signals (R127, R134). -/
def execRtCommandComplete (core : Nat) (s : State) : Out :=
  s.rtEngine core (fun k l m =>
    if !l.rtProg.started || l.rillFull posR m.fields.q then .idle
    else if m.streams then (if m.rows ≤ l.rtProg.count then .ok (s.setLc k (l.rtEnd m)) else .idle)
    else
      match s.rtCheck l m 0 with
      | .fault c a => .fault c a false
      | .wait _ => .wait
      | .ok => s.rtCommit k l (s.rtWhole l (l.stepSub 4 m.ftz) m) (LCore.rtEnd m)) (fun _ l => l)

end Sys2Proof.Machine
end

