-- ==== Sys2Proof/Machine/Streams.lean ====
section
/-! DEFINITION. Queue, ring and engine-status instructions, majors 0x18 and 0x19 (13_streams.md R240, R254 to R256). -/

namespace Sys2Proof.Machine

/-- `cq.put`: pushes ga[0] onto CQ (R240). -/
def execCqPut (q : Rill) (a : Nat) (s : State) : Out :=
  s.onStream fun w =>
    let u := useAp q [a] []
    s.issued w u (
      match w with
      | .sluice _ => s
      | .core _ _ k =>
        let l := s.lcAt k
        if 32 ≤ l.cq.length then s.stallOn w .cqFull
        else (s.setLc k { l with cq := l.cq ++ [wbit (s.src w a) 0] }).commit0 w u .next)

/-! ## Engine status (R256) -/

def engSnapshot (count : Nat) (busy : Bool) (occ : Nat) : Word :=
  toW (count % 2 ^ 48 * 65536 + (if busy then 256 else 0) + occ % 32)

/-- An engine's command is in progress. -/
def Progress.busy (p : Progress) : Bool := p.started || p.waited || p.count != 0

def LCore.engStatus (l : LCore) (u : Nat) : Word :=
  match u with
  | 0 => engSnapshot l.ceProg.count l.ceProg.busy l.ceFifo.length
  | 1 => engSnapshot l.geProg.count l.geProg.busy l.geFifo.length
  | 2 => engSnapshot l.mxProg.count l.mxProg.busy l.mxFifo.length
  | 3 => engSnapshot l.rtProg.count l.rtProg.busy l.rtFifo.length
  | _ => engSnapshot (wf l.vprog 31 0) (l.vdone != 0) 0

/-- `eng.st`: a unit above 4 raises ILLEGAL (R40). -/
def execEngSt (q : Rill) (t u : Nat) (s : State) : Out :=
  s.onStream fun w =>
    let use := useAp q [] [t]
    if 4 < u then s.illegal w 1
    else s.issued w use (
      match w with
      | .sluice _ => s
      | .core _ _ k => s.commit w use t ((s.lcAt k).engStatus u) .next)

/-! ## Rings (R254, R255) -/

/-- A ring descriptor (Table 7). -/
structure Ring where
  claim : Nat
  tail : Nat
  head : Nat
  v : Bool
  lgn : Nat
  lgs : Nat
  base : Nat
  deriving DecidableEq, Repr

def Ring.of (d : BitVec 128) : Ring :=
  let n := d.toNat
  ⟨fld n 127 96, fld n 95 64, fld n 63 32, d.getLsbD 31, fld n 30 27, fld n 26 23, fld n 14 0⟩

def Ring.bits (r : Ring) : BitVec 128 :=
  BitVec.ofNat 128 (r.claim % 2 ^ 32 * 2 ^ 96 + r.tail % 2 ^ 32 * 2 ^ 64 + r.head % 2 ^ 32 * 2 ^ 32
    + (if r.v then 2 ^ 31 else 0) + r.lgn * 2 ^ 27 + r.lgs * 2 ^ 23 + r.base)

def LCore.ring (l : LCore) (n : Nat) : Ring := Ring.of (l.rings.atD n 0)
def LCore.setRing (l : LCore) (n : Nat) (r : Ring) : LCore := { l with rings := l.rings.put n r.bits 0 }

/-- Differences of counters, modulo 2^32. -/
def diff32 (a b : Nat) : Nat := (a + 2 ^ 32 - b % 2 ^ 32) % 2 ^ 32

/-- The virtual address of slot `i`. -/
def Ring.slot (r : Ring) (i : Nat) : Word := toW (winLocal + 64 * r.base + i % 2 ^ r.lgn * 2 ^ (r.lgs + 6))

/-- The RC field of a queued command's control word names ring `n`. -/
def CgCmd.rcRing (c : CgCmd) : Option Nat :=
  let ctl := c.group.getD 1 0
  if wbit ctl 40 then some (wf ctl 44 41) else none

/-- A command naming the ring with RC is queued. -/
def LCore.ringBusy (l : LCore) (n : Nat) : Bool := (l.ceFifo ++ l.geFifo).any (fun c => c.rcRing == some n)

/-- `ring.init` (R255). -/
def execRingInit (q : Rill) (a b : Nat) (s : State) : Out :=
  s.onStream fun w =>
    let u := useAp q [a, b] []
    s.issued w u (
      match w with
      | .sluice _ => s
      | .core _ _ k =>
        let ra := s.src w a
        let rb := s.src w b
        let r : Ring := ⟨0, 0, 0, true, wf rb 30 27, wf rb 26 23, wf rb 14 0⟩
        if 16 ≤ ra.toNat ∨ wf rb 63 31 ≠ 0 ∨ wf rb 22 15 ≠ 0 ∨ 2097152 < 64 * r.base + 2 ^ (r.lgn + r.lgs + 6) then s.illegal w 0
        else if (s.lcAt k).ringBusy ra.toNat then s.stallOn w .ring
        else (s.setLc k ((s.lcAt k).setRing ra.toNat r)).commit0 w u .next)

/-- A ring instruction on an initialised ring with a count from 1 to 2^LGN: `bad` raises ILLEGAL, `wait` stalls, `f` gives
the ring after it and the value for gt. -/
def ringOp (q : Rill) (t : Option Nat) (a b : Nat) (bad wait : Ring → Nat → Bool) (f : Ring → Nat → Ring × Word) (s : State) : Out :=
  s.onStream fun w =>
    let u := useAp q [a, b] t.toList
    s.issued w u (
      match w with
      | .sluice _ => s
      | .core _ _ k =>
        let no := (s.src w a).toNat
        let n := (s.src w b).toNat
        let r := (s.lcAt k).ring no
        if 16 ≤ no ∨ r.v = false ∨ n = 0 ∨ 2 ^ r.lgn < n ∨ bad r n then s.illegal w 0
        else if wait r n then s.stallOn w .ring
        else
          let (r1, v) := f r n
          let s1 := s.setLc k ((s.lcAt k).setRing no r1)
          match t with
          | some d => s1.commit w u d v .next
          | none => s1.commit0 w u .next)

def execRingClaim (q : Rill) (t a b : Nat) (s : State) : Out :=
  ringOp q (some t) a b (fun _ _ => false) (fun r n => decide (2 ^ r.lgn < diff32 (r.claim + n) r.head))
    (fun r n => ({ r with claim := (r.claim + n) % 2 ^ 32 }, r.slot r.claim)) s
def execRingCommit (q : Rill) (a b : Nat) (s : State) : Out :=
  ringOp q none a b (fun r n => decide (diff32 r.claim r.tail < n)) (fun _ _ => false)
    (fun r n => ({ r with tail := (r.tail + n) % 2 ^ 32 }, 0)) s
def execRingWfill (q : Rill) (t a b : Nat) (s : State) : Out :=
  ringOp q (some t) a b (fun _ _ => false) (fun r n => decide (diff32 r.tail r.head < n)) (fun r _ => (r, r.slot r.head)) s
def execRingWfree (q : Rill) (t a b : Nat) (s : State) : Out :=
  ringOp q (some t) a b (fun _ _ => false) (fun r n => decide (2 ^ r.lgn - diff32 r.claim r.head < n))
    (fun r _ => (r, toW (2 ^ r.lgn - diff32 r.claim r.head))) s
def execRingRel (q : Rill) (a b : Nat) (s : State) : Out :=
  ringOp q none a b (fun r n => decide (diff32 r.tail r.head < n)) (fun _ _ => false)
    (fun r n => ({ r with head := (r.head + n) % 2 ^ 32 }, 0)) s

end Sys2Proof.Machine
end

