-- ==== Sys2Proof/Machine/CopyGather.lean ====
section
/-! DEFINITION. Copy and gather commands, majors 0x1A and 0x1B, and the engines that run them (13_streams.md R245 to R253). -/

namespace Sys2Proof.Machine

/-! ## The command word (R245) -/

def qWord (q : Rill) (major rt ra rb func f : Nat) : Nat :=
  q.bits + major * 2 ^ 21 + rt * 2 ^ 16 + ra * 2 ^ 11 + rb * 2 ^ 6 + func * 2 + f

/-- The forms of Table 3. -/
inductive CgForm where
  | cp
  | cp2d
  | cpMc
  | cpFill
  | gather
  | gather2d
  | scatter
  deriving DecidableEq, Repr

def CgForm.isGather : CgForm → Bool
  | .gather => true
  | .gather2d => true
  | .scatter => true
  | _ => false

/-- Registers in the groups at ga and gb, without a follow-on. -/
def CgForm.sizes : CgForm → Nat × Nat
  | .cp => (2, 1)
  | .cp2d => (3, 2)
  | .cpMc => (2, 1)
  | .cpFill => (2, 1)
  | .gather => (2, 2)
  | .gather2d => (3, 2)
  | .scatter => (2, 2)

def CgForm.func : CgForm → Nat
  | .cp => 0
  | .cp2d => 1
  | .cpMc => 2
  | .cpFill => 3
  | .gather => 0
  | .gather2d => 1
  | .scatter => 2

def CgForm.major (f : CgForm) : Nat := if f.isGather then 0x1B else 0x1A

/-- The form of a command word. -/
def CgCmd.form (c : CgCmd) : CgForm :=
  if fld c.word 26 21 = 0x1B then
    match fld c.word 5 1 with
    | 0 => .gather
    | 1 => .gather2d
    | _ => .scatter
  else
    match fld c.word 5 1 with
    | 0 => .cp
    | 1 => .cp2d
    | 2 => .cpMc
    | _ => .cpFill

def CgCmd.fo (c : CgCmd) : Bool := c.word.testBit 0
def CgCmd.rill (c : CgCmd) : Rill := rillOf c.word

/-! ## Issue -/

/-- A copy or gather command issues in the AP: its registers are read, gt gets a pending write, the command enters its FIFO. -/
def cgExec (form : CgForm) (fo : Bool) (q : Rill) (t a b : Nat) (s : State) : Out :=
  s.onStream fun w =>
    let (na, nb) := form.sizes
    let nb := if fo then nb + 5 else nb
    let regs := groupRegs a na ++ groupRegs b nb
    let bad (n : Nat) : Bool := n == 0 || decide (23 < n)
    let u := useAp Rill.none regs []
    match w with
    | .core false _ k =>
      let l := s.lcAt k
      let undeclared := (form.isGather && !l.kern.units.testBit 2) || (fo && !l.kern.units.testBit 0)
      if l.trapMode ∨ bad t ∨ regs.any bad ∨ undeclared then s.illegal w 0
      else s.issued w u (
        let fifo := if form.isGather then l.geFifo else l.ceFifo
        if 16 ≤ fifo.length then s.stallOn w .fifo
        else
          let c : CgCmd := ⟨qWord q form.major t a b form.func (if fo then 1 else 0), t, regs.map (s.src w), s.cur.pc, l.cgSeq⟩
          let l1 := if form.isGather then { l with geFifo := l.geFifo ++ [c] } else { l with ceFifo := l.ceFifo ++ [c] }
          (s.setLc k { l1 with cgSeq := (l.cgSeq + 1) % 2 ^ 32 }).retire w Rill.none .next)
    | _ => s.illegal w 1

def execCp (q : Rill) (t a b : Nat) (s : State) : Out := cgExec .cp false q t a b s
def execCpFo (q : Rill) (t a b : Nat) (s : State) : Out := cgExec .cp true q t a b s
def execCp2d (q : Rill) (t a b : Nat) (s : State) : Out := cgExec .cp2d false q t a b s
def execCp2dFo (q : Rill) (t a b : Nat) (s : State) : Out := cgExec .cp2d true q t a b s
def execCpMc (q : Rill) (t a b : Nat) (s : State) : Out := cgExec .cpMc false q t a b s
def execCpFill (q : Rill) (t a b : Nat) (s : State) : Out := cgExec .cpFill false q t a b s
def execGeGather (q : Rill) (t a b : Nat) (s : State) : Out := cgExec .gather false q t a b s
def execGeGather2d (q : Rill) (t a b : Nat) (s : State) : Out := cgExec .gather2d false q t a b s
def execGeScatter (q : Rill) (t a b : Nat) (s : State) : Out := cgExec .scatter false q t a b s

/-! ## Operands of a queued command -/

/-- Word `i` of the group at ga: D or S, control, DS or SS. -/
def CgCmd.ga (c : CgCmd) (i : Nat) : Word := c.group.getD i 0
/-- Word `i` of the group at gb. -/
def CgCmd.gb (c : CgCmd) (i : Nat) : Word := c.group.getD (c.form.sizes.1 + i) 0
/-- Word `i` of the follow-on group. -/
def CgCmd.foWord (c : CgCmd) (i : Nat) : Word := c.group.getD (c.form.sizes.1 + c.form.sizes.2 + i) 0

def CgCmd.ctl (c : CgCmd) : Word := c.ga 1
def CgCmd.len (c : CgCmd) : Nat := wf c.ctl 19 0
def CgCmd.rows (c : CgCmd) : Nat := wf c.ctl 35 20

/-- COUNT when the command has made its last step (R247). -/
def CgCmd.total (c : CgCmd) : Nat :=
  match c.form with
  | .cp2d => c.rows * c.len
  | .gather2d => c.len * c.rows
  | _ => c.len

/-- Check 1 of Table 6. -/
def LCore.cgBad (l : LCore) (c : CgCmd) : Bool :=
  let x := c.ctl
  let rc := wbit x 40 && !(l.ring (wf x 44 41)).v
  let d := (c.ga 0).toNat
  wf x 63 45 != 0 || wbit x 39 || c.len == 0 || rc ||
  (match c.form with
    | .cp => wf x 38 20 != 0
    | .cp2d => wf x 38 36 != 0 || c.rows == 0
    | .cpMc => wf x 38 20 != 0 || decide (d < winMulticast) || decide (winBasin ≤ d)
    | .cpFill => wf x 38 20 != 0
    | .gather => c.rows != 0
    | .scatter => c.rows != 0
    | .gather2d => wf x 37 36 != 0 || c.rows == 0)

/-! ## Steps -/

def LCore.cgProg (l : LCore) (g : Bool) : Progress := if g then l.geProg else l.ceProg
def LCore.setCgProg (l : LCore) (g : Bool) (p : Progress) : LCore := if g then { l with geProg := p } else { l with ceProg := p }
def LCore.cgFifo (l : LCore) (g : Bool) : List CgCmd := if g then l.geFifo else l.ceFifo

/-- The trap a fault of the head command gives (R251). -/
def LCore.cgInfo (g : Bool) (l : LCore) (cause : Nat) (addr : Word) : TrapInfo :=
  match l.cgFifo g with
  | [] => ⟨cause, if g then 6 else 5, 0, false, 0, addr⟩
  | m :: _ => ⟨cause, if g then 6 else 5, 0, false, m.pc, addr⟩

def State.cgEngine (s : State) (core : Nat) (g : Bool) (f : Nat → LCore → CgCmd → Eng) (onFault : Nat → LCore → LCore) : Out :=
  s.engine core (LCore.cgInfo g) (fun k l => match l.cgFifo g with
    | [] => .idle
    | m :: _ => f k l m) onFault

/-- Issue number `m` is earlier than `n`. -/
def earlier (m n : Nat) : Bool := diff32 n m != 0 && decide (diff32 n m < 2 ^ 31)

/-- An earlier-issued command of the other engine has a wait bit and has not taken its tokens (R241). -/
def LCore.waitsBefore (l : LCore) (g : Bool) (c : CgCmd) : Bool :=
  let other := l.cgFifo (!g)
  let pending := if (l.cgProg (!g)).waited then other.tail else other
  pending.any (fun x => (x.rill.wp || x.rill.wn) && earlier x.seq c.seq)

/-- The head command's waits at C are taken. -/
def LCore.cgWaited (g : Bool) (l : LCore) : LCore :=
  match l.cgFifo g with
  | [] => l
  | c :: _ =>
    let l1 := (l.headWaits posC c.rill (l.cgProg g).waited).getD l
    l1.setCgProg g { l1.cgProg g with waited := true }

/-- CE_COMMAND_START: waits at C in issue order, then check 1. -/
def execCeCommandStart (core : Nat) (gather : Bool) (s : State) : Out :=
  s.cgEngine core gather (fun k l c =>
    let p := l.cgProg gather
    if p.started || p.done then .idle
    else if !p.waited && (c.rill.wp || c.rill.wn) && l.waitsBefore gather c then .idle
    else
      match l.headWaits posC c.rill p.waited with
      | none => .idle
      | some _ =>
        if l.cgBad c then .fault cCopyOperand 0 false
        else
          let l1 := LCore.cgWaited gather l
          .ok (s.setLc k (l1.setCgProg gather { l1.cgProg gather with started := true }))) (fun _ l => LCore.cgWaited gather l)

/-- The lowest of the `n` bytes from `va` that lies in a listed range. -/
def State.rangeFirst (s : State) (ctx va n : Nat) : Option Nat :=
  if n ≠ 0 ∧ s.inRange ctx va n then
    let c := s.ctxAt ctx
    let starts := ((List.range 64).filter (c.rangeHits va n)).map (fun r => max va (wf (c.ranges.atD (3 * r + 1) 0) 56 0))
    some (starts.foldl min (va + n))
  else none

/-- The fault of an access at `a`, unless a byte from `va` up to it lies in a listed range: the lower address decides. -/
def State.orRange {α : Type} (s : State) (ctx va n : Nat) (x : Acc α) : Acc α :=
  match s.rangeFirst ctx va n with
  | some b => .fault cCollectiveRange (toW b) false
  | none => x

/-- The runs of one block of an access of the CE or the GE. The multicast window is closed to it (check 5). -/
def State.cgBlock (s : State) (ctx k : Nat) (how : Access) (va n : Nat) : Acc (List Run) :=
  (s.runs ctx k how 2 va n).bind (fun rs =>
    if rs.all Run.isPhys then .ok rs else .fault cProtection (toW va) false)

/-- The runs of an access of the CE or the GE: block by block in ascending order each address is taken through checks 3 to 6,
and the first failing address decides (R251). One with none waits for its first page that is not present. -/
def State.cgRuns (s : State) (ctx k : Nat) (how : Access) : Nat → Nat → Nat → Acc (List Run)
  | 0, _, _ => .ok []
  | fuel + 1, va, n =>
    if n = 0 then .ok []
    else
      let m := min n (4096 - va % 4096)
      match s.cgBlock ctx k how va m with
      | .fault c a t => s.orRange ctx va (a.toNat - va) (.fault c a t)
      | .wait j p =>
        s.orRange ctx va m (match s.cgRuns ctx k how fuel (va + m) (n - m) with
          | .fault c a t => .fault c a t
          | _ => .wait j p)
      | .ok r => s.orRange ctx va m ((s.cgRuns ctx k how fuel (va + m) (n - m)).bind (fun rs => .ok (r ++ rs)))

def State.cgRead (s : State) (ctx k va n : Nat) : Acc (List Byte × State) :=
  (s.cgRuns ctx k .load (n / 4096 + 2) va n).map (fun rs => (s.runsBytes rs, s.readMarks ctx rs))

/-- A write by any form but `cp.mc`. -/
def State.cgWrite (s : State) (ctx k va : Nat) (bs : List Byte) : Acc State :=
  (s.cgRuns ctx k .store (bs.length / 4096 + 2) va bs.length).map (fun rs => (s.writeMarks ctx rs).putRuns rs bs)

/-- One read and one write of a step: the source bytes are checked and read, then the destination is checked and written. -/
def State.moveBytes (s : State) (k src dst n : Nat) (misS misD : Bool) : Acc State :=
  let ctx := (s.lcAt k).ctx
  if misS then .fault cMisaligned (toW src) false
  else (s.cgRead ctx k src n).bind (fun r =>
    if misD then .fault cMisaligned (toW dst) false else r.2.cgWrite ctx k dst r.1)

/-- The first failing byte of a `cp.mc` chunk `o` bytes into a row at window offset `w`: the cause and its place in the chunk
(checks 3 to 5 of Table 6); or the targets. A row runs to the end of the window's 2 MiB at most, whichever chunk it is in. -/
def State.mcChunk (s : State) (k w o n : Nat) : Except (Nat × Nat) (List Nat) :=
  let off := w % 2 ^ 21 + o
  let inside := 2 ^ 21 - off
  if inside = 0 ∨ 2 ^ 21 < off then .error (cProtection, 0)
  else
    match s.mcTargets k w off (min n inside) with
    | .error e => .error e
    | .ok ts => if inside < n then .error (cProtection, inside) else .ok ts

/-- The multicast store of a chunk `o` bytes into the row at `row` (R158, R249). -/
def State.multicastBytes (s : State) (k row o : Nat) (bs : List Byte) : Acc State :=
  let ctx := (s.lcAt k).ctx
  let w := row - winMulticast
  match s.mcChunk k w o bs.length with
  | .error (c, d) => s.orRange ctx (row + o) d (.fault c (toW (row + o + d)) false)
  | .ok ts => s.orRange ctx (row + o) bs.length (.ok (s.mcIssue k true ts (w % 2 ^ 21 + o) bs))

/-- The chunk of a copy at COUNT: its offset in its row, its length, and where it is read from and written to (R249). -/
def CgCmd.copyChunk (c : CgCmd) (count : Nat) : Nat × Nat × Nat × Nat :=
  let r := count / c.len
  let o := count % c.len
  let twoD := c.form == .cp2d
  (o, min 4096 (c.len - o), (c.gb 0 + (if twoD then toW r * c.gb 1 else 0) + toW o).toNat,
    (c.ga 0 + (if twoD then toW r * c.ga 2 else 0) + toW o).toNat)

/-- The chunk of a copy at COUNT (R249). -/
def State.copyStep (s : State) (k : Nat) (c : CgCmd) (count : Nat) : Acc (Nat × State) :=
  let ctx := (s.lcAt k).ctx
  let (o, n, src, dst) := c.copyChunk count
  (match c.form with
    | .cpFill => s.cgWrite ctx k dst ((List.range n).map (fun i => (bytesOf 8 (c.gb 0).toNat).getD ((o + i) % 8) 0))
    | .cpMc => (s.cgRead ctx k src n).bind (fun x => x.2.multicastBytes k (c.ga 0).toNat o x.1)
    | _ => s.moveBytes k src dst n false false).map (fun s1 => (n, s1))

/-- The index of a gather or scatter at COUNT: where it lies, and its bytes. -/
def CgCmd.indexAt (c : CgCmd) (count : Nat) : Nat × Nat :=
  let i := if wbit c.ctl 38 then 8 else 4
  ((c.gb 1 + toW (i * (if c.form == .gather2d then count / c.rows else count))).toNat, i)

/-- The element at COUNT whose index is `idx`: its indexed address, its other address, and its length. -/
def CgCmd.gatherItem (c : CgCmd) (count : Nat) (idx : Word) : Word × Word × Nat :=
  let twoD := c.form == .gather2d
  let n := if twoD then count / c.rows else count
  let o := if twoD then count % c.rows else 0
  let e := 2 ^ wf c.ctl 37 36
  (c.gb 0 + idx * (if twoD then c.ga 2 else toW e) + toW o, c.ga 0 + toW (if twoD then n * c.rows + o else n * e),
    if twoD then min 4096 (c.rows - o) else e)

/-- The step of a gather or scatter at COUNT (R250). -/
def State.gatherStep (s : State) (k : Nat) (c : CgCmd) (count : Nat) : Acc (Nat × State) :=
  let ctx := (s.lcAt k).ctx
  let twoD := c.form == .gather2d
  let (x, i) := c.indexAt count
  if (c.gb 1).toNat % i ≠ 0 then .fault cMisaligned (toW x) false
  else (s.cgRead ctx k x i).bind (fun r =>
    let s1 := r.2
    let (far, near, len) := c.gatherItem count (sext (8 * i) (ofBytes r.1))
    let mis (a : Word) : Bool := !twoD && a.toNat % len != 0
    (if c.form = .scatter then s1.moveBytes k near.toNat far.toNat len (mis near) (mis far)
      else s1.moveBytes k far.toNat near.toNat len (mis far) (mis near)).map (fun s2 => (if twoD then len else 1, s2)))

/-- The status that an engine holds. -/
def LCore.cgHeld (l : LCore) (g : Bool) : Option (Nat × Word) := if g then l.geHeld else l.ceHeld
def LCore.setCgHeld (l : LCore) (g : Bool) (x : Option (Nat × Word)) : LCore :=
  if g then { l with geHeld := x } else { l with ceHeld := x }

/-- The head command has ended, its status (whose bit 63 says that it failed) held until step 4 of its completion may write it. -/
def LCore.cgEntered (l : LCore) (g : Bool) (c : CgCmd) : Bool :=
  match l.cgHeld g with
  | some (r, v) => r == c.token && !(l.cgProg g).done && ((l.cgProg g).count == c.total || wbit v 63)
  | none => false

/-- Take one step of engine `g`: count, progress. -/
def cgStep (g : Bool) (code : Nat) (f : State → Nat → CgCmd → Nat → Acc (Nat × State)) (core : Nat) (s : State) : Out :=
  s.cgEngine core g (fun k l c =>
    let p := l.cgProg g
    if !p.started || p.done || l.cgEntered g c || c.total ≤ p.count then .idle
    else
      match f s k c p.count with
      | .fault cause a t => .fault cause a t
      | .wait _ _ => .wait
      | .ok (n, s1) =>
        let l1 := s1.lcAt k
        .ok (s1.setLc k ((l1.setCgProg g { p with count := p.count + n }).count code (if g then 1 else n)))) (fun _ l => l)

/-- COPY_CHUNK: one chunk of the CE's head command. -/
def execCopyChunk (core : Nat) (s : State) : Out := cgStep false 8 State.copyStep core s
/-- GATHER_STEP: one step of the GE's head command. -/
def execGatherStep (core : Nat) (s : State) : Out := cgStep true 9 State.gatherStep core s

/-! ## Follow-ons (R111) -/

/-- The first word of a follow-on group is no M word of R103, or names what the kernel does not declare. -/
def LCore.badFollowOn (l : LCore) (w : Word) : Bool :=
  let m := MFields.of w.toNat
  wf w 63 32 != 0 || wf w 26 21 != 0x30 || wf w 4 0 != 0 || m.bad || l.kern.mxUndeclared m

/-- The operand words of a follow-on, in pop order. -/
def followOps (word : Nat) (ws : List Word) : List Word :=
  ws.take ((MFields.of word).pops.foldl (fun n p => n + p.2) 0)

/-- Room in the MXA FIFO for the word. -/
def LCore.mxRoom (l : LCore) (word : Nat) : Bool :=
  if (MFields.of word).func = 9 then l.mxFifo.isEmpty else decide (l.mxFifo.length < 16)

/-- A follow-on enters the MXA FIFO: FTZ and MXMASK are captured now. An `mx.mask` writes MXMASK now (DEDUCED: R106 speaks only of
the retirement of an EP bundle; log entry 61). -/
def LCore.enterFollowOn (l : LCore) (f : FollowOn) : LCore :=
  let m := MFields.of f.word
  let l1 := if m.func = 9 ∧ Rill.any m.q = false then l
    else { l with mxFifo := l.mxFifo ++ [⟨f.word, true, l.ftz, l.mxmask, f.ops, f.pc, 0⟩], foCycle := true }
  if m.func = 6 then { l1 with mxmask := f.ops.headD 0 } else l1

/-- FOLLOW_ON_ENTRY: the CE's held follow-on enters. -/
def execFollowOnEntry (core : Nat) (s : State) : Out :=
  s.engine core (LCore.cgInfo false) (fun k l =>
    match l.followOn with
    | some f => if l.mxRoom f.word then .ok (s.setLc k { l.enterFollowOn f with followOn := none }) else .idle
    | none => .idle) (fun _ l => l)

/-! ## Completion (R247, R248) -/

/-- Apply the RC commit: the logical core, and RCX (R254). -/
def LCore.rcCommit (l : LCore) (c : CgCmd) : LCore × Bool :=
  match c.rcRing with
  | none => (l, false)
  | some n =>
    let r := l.ring n
    if diff32 r.claim r.tail = 0 then (l, true) else (l.setRing n { r with tail := (r.tail + 1) % 2 ^ 32 }, false)

/-- The status word (Table 5). -/
def cgStatus (failed : Option Nat) (rcx : Bool) (count : Nat) : Word :=
  toW ((match failed with
    | none => 2 ^ 62
    | some f => 2 ^ 63 + f % 256 * 2 ^ 48) + (if rcx then 2 ^ 61 else 0) + count % 2 ^ 48)

/-- An earlier-issued command of the other engine owes the same register its status (R60). -/
def LCore.owesEarlier (l : LCore) (g : Bool) (c : CgCmd) : Bool :=
  let other := l.cgFifo (!g)
  let pending := if (l.cgProg (!g)).done then other.tail else other
  pending.any (fun x => x.token == c.token && earlier x.seq c.seq)

/-- Step 2 of the completion, by the CE: the follow-on of `c` enters the MXA FIFO, or is held while that is full; none while
an earlier one is still held. The flag says that the follow-on is malformed (R111). -/
def LCore.cgFollow (l : LCore) (c : CgCmd) : Option (LCore × Bool) :=
  if l.followOn.isSome then none
  else if !c.fo then some (l, false)
  else if l.badFollowOn (c.foWord 0) then some (l, true)
  else
    let word := (c.foWord 0).toNat
    let f : FollowOn := ⟨word, c.pc, followOps word [c.foWord 1, c.foWord 2, c.foWord 3, c.foWord 4]⟩
    some (if l.mxRoom word then l.enterFollowOn f else { l with followOn := some f }, false)

/-- Step 4: the held status of engine `g` goes into its register, unless an earlier-issued command of the other engine still
owes that register its own (R60). -/
def LCore.cgRelease (l : LCore) (g : Bool) : LCore :=
  match l.cgHeld g with
  | none => l
  | some (r, v) =>
    let l1 := { l with ap := { l.ap with regs := l.ap.regs.put r v 0 } }.setCgHeld g none
    match l.cgFifo g with
    | [] => l1
    | c :: _ =>
      if l.cgEntered g c then
        if l.owesEarlier g c then l else l1.setCgProg g { l1.cgProg g with done := true }
      else l1

/-- Steps 2 to 4 of the completion; `none` while step 2 must wait. Of a failed command only step 4 is made. -/
def LCore.cgFinish (l : LCore) (g : Bool) (c : CgCmd) (failed : Option Nat) : Option (LCore × Bool) :=
  if l.cgEntered g c then some (l.cgRelease g, false)
  else
    match failed with
    | some _ => some ((l.setCgHeld g (some (c.token, cgStatus failed false (l.cgProg g).count))).cgRelease g, false)
    | none =>
      match (if g then some (l, false) else l.cgFollow c) with
      | none => none
      | some (l1, bad) =>
        let (l2, rcx) := l1.rcCommit c
        some ((l2.setCgHeld g (some (c.token, cgStatus none rcx (l.cgProg g).count))).cgRelease g, bad)

/-- Step 5, once the status is written: the signals at C, and the FIFO moves on; they wait while a queue is full. -/
def LCore.cgSignal (l : LCore) (g : Bool) (c : CgCmd) : LCore :=
  if !(l.cgProg g).done || l.rillFull posC c.rill then l
  else
    let l1 := (l.rillGive posC c.rill).setCgProg g Progress.zero
    if g then { l1 with geFifo := l1.geFifo.tail } else { l1 with ceFifo := l1.ceFifo.tail }

/-- Multicast stores of logical core `k`'s CE are in flight: step 1 of its completion is not made (R248). -/
def State.ceLanding (s : State) (k : Nat) : Bool := s.multicasts.any (fun m => m.writer == k && m.ce && m.targets != [])

/-- ENGINE_COMMAND_COMPLETE: `failed` is 1 for an uncorrectable memory error on a read, 2 for an abort by firmware fencing
of a memory channel (Table 5). -/
def execEngineCommandComplete (core : Nat) (gather : Bool) (failed : Option Nat) (s : State) : Out :=
  s.cgEngine core gather (fun k l c =>
    let p := l.cgProg gather
    if p.done then .ok (s.setLc k (l.cgSignal gather c))
    else if !p.started || (!gather && s.ceLanding k) then .idle
    else if (match failed with
      | none => !l.cgEntered gather c && decide (p.count < c.total)
      | some f => decide (f ≠ 1 ∧ f ≠ 2)) then .idle
    else
      match l.cgFinish gather c failed with
      | none => .idle
      | some (l1, bad) =>
        let s1 := s.setLc k (l1.cgSignal gather c)
        .ok (if bad then s1.detect k ⟨cIllegal, 3, 0, false, c.pc, 0⟩ false else s1)) (fun _ l => l)

end Sys2Proof.Machine
end

