-- ==== Sys2Proof/Machine/Tables.lean ====
section
/-! DEFINITION. The device's tables by number, signals, HANDLER packets, and how a packet completes, fails and aborts its
queue (14_host_queues.md R259 to R266, 19_counters.md R340). -/

namespace Sys2Proof.Machine

def State.slotAt (s : State) (n : Nat) : ModelSlot := (s.slots.at? n).getD ModelSlot.fresh
def State.setSlot (s : State) (n : Nat) (x : ModelSlot) : State := { s with slots := s.slots.ins n x }
def State.queueAt (s : State) (q : Nat) : HostQ := (s.queues.at? q).getD HostQ.fresh
def State.setQ (s : State) (q : Nat) (x : HostQ) : State := { s with queues := s.queues.ins q x }
def State.portAt (s : State) (p : Nat) : Port := (s.ports.at? p).getD Port.fresh
def State.setPort (s : State) (p : Nat) (x : Port) : State := { s with ports := s.ports.ins p x }
def State.setNode (s : State) (n : Nat) (x : Node) : State := { s with nodes := s.nodes.ins n x }

/-- Word `w` of sequence entry `e`. -/
def State.seqWord (s : State) (e w : Nat) : Word := s.seqs.atD (12 * e + w) 0
def State.setSeqWord (s : State) (e w : Nat) (v : Word) : State := { s with seqs := s.seqs.put (12 * e + w) v 0 }

/-- Little-endian field of `n` bytes at offset `o`. -/
def uAt (bs : List Byte) (o n : Nat) : Nat := ofBytes ((bs.drop o).take n)

/-- Send MSI-X vector `v`. -/
def State.sendMsix (s : State) (v : Nat) : State := { s with msix := s.msix ++ [v] }

/-- The outcome of an event: it happened, or its condition does not hold. -/
def State.happened (s : State) : Out := .next (s.verdict .done)
def State.nothing (s : State) : Out := .next (s.verdict .idle)

/-- A free value's number, and the state that has used it. -/
def State.takeFree (s : State) : Nat × State := (s.free, { s with free := s.free + 1 })

/-! ## Signals (R340, R262) -/

/-- The physical address of the signal at `va` of context `ctx`: 8-byte aligned, in the basin window, within the grant. -/
def State.signalPa (s : State) (ctx va : Nat) : Option Nat :=
  if va % 8 ≠ 0 ∨ va < winBasin ∨ winFault ≤ va then none
  else
    let o := va - winBasin
    let d := o / 2 ^ 27
    let c := s.ctxAt ctx
    if o % 2 ^ 27 + 8 ≤ c.grantSize d then some (paBasin d + c.grantBase d + o % 2 ^ 27) else none

def State.readSignal (s : State) (pa : Nat) : Word := toW (ofBytes (s.rawBytes pa 8))
def State.writeSignal (s : State) (pa : Nat) (v : Word) : State := s.setRaws pa (bytesOf 8 v.toNat)

/-- Add `v` to the signal at `va`; an address that is no signal's is left alone. -/
def State.addSignal (s : State) (ctx va : Nat) (v : Int) : State :=
  if va = 0 then s
  else
    match s.signalPa ctx va with
    | some pa => s.writeSignal pa (s.readSignal pa + ofZ v)
    | none => s

/-! ## Queue descriptors (R259, Table 2) -/

def HostQ.enabled (q : HostQ) : Bool := wbit q.w0 63
/-- KIND = 1. -/
def HostQ.isHandler (q : HostQ) : Bool := wbit q.w0 62
def HostQ.prio (q : HostQ) : Nat := wf q.w0 61 60
def HostQ.sib (q : HostQ) : Nat := wf q.w0 59 52
def HostQ.ring (q : HostQ) : Nat := wf q.w0 51 12 * 4096
def HostQ.size (q : HostQ) : Nat := 2 ^ wf q.w0 3 0
def HostQ.paddr (q : HostQ) : Nat := wf q.w1 51 3 * 8
def HostQ.ctx (q : HostQ) : Nat := wf q.w2 63 48
def HostQ.vec (q : HostQ) : Nat := wf q.w2 47 40

/-- `a − b` modulo 2^32. -/
def sub32 (a b : Nat) : Nat := (a + 2 ^ 32 - b % 2 ^ 32) % 2 ^ 32

/-- STATE (R372). -/
def HostQ.state (q : HostQ) : Nat :=
  if q.isHandler then 0 else if q.stopped then 2 else if q.prog = q.latch then 0 else 1

/-- Where entry `n` lies. -/
def HostQ.entryPa (q : HostQ) (n : Nat) : Nat := q.ring + 64 * (n % q.size)

/-- The queue that receives the HANDLERs of queue `q`: its sibling, or itself when it is a handler queue. -/
def State.handlerOf (s : State) (q : Nat) : Nat := if (s.queueAt q).isHandler then q else (s.queueAt q).sib

/-- HPEND: a HANDLER of queue `q` waits (R266). -/
def State.hpend (s : State) (q : Nat) : Bool := (s.queueAt (s.handlerOf q)).owed.any (fun o => o.1 == q)

/-- The device writes PROG to PADDR (R263). -/
def State.writeProg (s : State) (q : Nat) : State :=
  let x := s.queueAt q
  if x.paddr = 0 then s else s.setPhyss x.paddr (bytesOf 8 x.prog)

/-- Append what queue `h` is owed, in order, while it has room and serves the context it is owed for (R266, R259). -/
def State.flushOwed (s : State) (h : Nat) : Nat → State
  | 0 => s
  | fuel + 1 =>
    let x := s.queueAt h
    if !x.enabled || !x.isHandler || decide (x.size ≤ sub32 x.prog x.latch) then s
    else
      match x.owed.find? (fun o => o.2.1 == x.ctx) with
      | none => s
      | some o =>
        let s0 := s.setPhyss (x.entryPa x.prog) o.2.2
        let s1 := { s0 with handlers := s0.handlers.ins (x.entryPa x.prog) o.2.2 }
        let x1 := { x with prog := (x.prog + 1) % 2 ^ 32, owed := x.owed.erase o }
        (((s1.setQ h x1).writeProg h).sendMsix x.vec).flushOwed h fuel

/-- The 64 bytes of a HANDLER (Tables 3 and 4). -/
def handlerBytes (cause queue id entry : Nat) (word req avail : Nat) (cycle : Word) : List Byte :=
  bytesOf 1 9 ++ bytesOf 1 0x80 ++ bytesOf 1 1 ++ bytesOf 1 0 ++ bytesOf 4 id ++ bytesOf 8 0
  ++ bytesOf 2 cause ++ bytesOf 1 queue ++ bytesOf 1 0 ++ bytesOf 4 id ++ bytesOf 4 entry ++ bytesOf 4 0
  ++ bytesOf 8 word ++ bytesOf 8 req ++ bytesOf 8 avail ++ bytesOf 8 cycle.toNat

/-- Owe handler queue `h` a HANDLER, and append what has room. -/
def State.owe (s : State) (h src ctx : Nat) (bytes : List Byte) : State :=
  let x := s.queueAt h
  (s.setQ h { x with owed := x.owed ++ [(src, ctx, bytes)] }).flushOwed h (x.owed.length + 1)

/-- Append a HANDLER for queue `q`; while it waits, a submission queue is STOPPED (R266, R372). -/
def State.handler (s : State) (q cause id entry word req avail : Nat) : State :=
  let s1 := s.owe (s.handlerOf q) q (s.queueAt q).ctx (handlerBytes cause q id entry word req avail s.cycle)
  if s1.hpend q && !(s1.queueAt q).isHandler then s1.setQ q { s1.queueAt q with stopped := true } else s1

/-! HANDLER causes (Table 5). -/

def hMalformed : Nat := 1
def hLaunchRejected : Nat := 2
def hBarrierAbort : Nat := 3
def hCopyFault : Nat := 4
def hRingError : Nat := 5
def hHostAccess : Nat := 6
def hSlotLoad : Nat := 7
def hRecordFault : Nat := 8

/-! ## Packets (R262 to R264) -/

def Started.kind (p : Started) : Nat := uAt p.bytes 0 1
def Started.flags (p : Started) : Nat := uAt p.bytes 1 1
def Started.isB (p : Started) : Bool := p.flags % 2 == 1
def Started.irq (p : Started) : Bool := p.flags / 2 % 2 == 1
def Started.id (p : Started) : Nat := uAt p.bytes 4 4
def Started.csig (p : Started) : Nat := uAt p.bytes 8 8

/-- A packet that has started and has not completed, by its entry. -/
def HostQ.running (q : HostQ) (entry : Nat) : Option Started :=
  q.started.find? (fun p => p.entry == entry && !p.completed)

/-- Advance PROG over the completed prefix of the ring. -/
def HostQ.advance (q : HostQ) : Nat → HostQ
  | 0 => q
  | fuel + 1 =>
    match q.started.find? (fun p => p.entry == q.prog && p.completed) with
    | none => q
    | some p => ({ q with prog := (q.prog + p.len) % 2 ^ 32, started := q.started.erase p }).advance fuel

/-- Steps 2 to 4 of a completion: PROG, PADDR, MSI-X (R263). -/
def State.packetDone (s : State) (q entry : Nat) : State :=
  let x := s.queueAt q
  match x.running entry with
  | none => s
  | some p =>
    let x1 := { x with started := x.started.map (fun (r : Started) => if r.entry == entry then { r with completed := true } else r) }
    let s1 := (s.setQ q (x1.advance (x1.started.length + 1))).writeProg q
    if p.irq then s1.sendMsix x.vec else s1

/-- A packet completes: its csig moves by −1, or by −2^32 when it failed or was aborted (R263). -/
def State.completePacket (s : State) (q entry : Nat) (failed : Bool) : State :=
  match (s.queueAt q).running entry with
  | none => s
  | some p =>
    (s.addSignal (s.queueAt q).ctx p.csig (if failed then -(2 ^ 32) else -1)).packetDone q entry

/-- A fault of an access that no stream makes: its cause, its address, and whether a page table named a region that no page
may map (08_memory.md R154). -/
structure PlaceErr where
  cause : Nat
  addr : Nat
  table : Bool
  deriving DecidableEq, Repr

/-- Report the page-table error of a fault, if it is one (08_memory.md R154). -/
def State.noteTable (s : State) (ctx : Nat) (e : PlaceErr) : State :=
  s.tableError e.table ctx (toW e.addr)

/-- The outcome of an access that no stream makes and that cannot wait for a local-store page. -/
def Acc.placed {α : Type} (va : Nat) : Acc α → Except PlaceErr α
  | .ok r => .ok r
  | .fault c a t => .error ⟨c, a.toNat, t⟩
  | .wait _ _ => .error ⟨cPageFault, va, false⟩

/-- Write bytes through a context's translation, as the distributor does. -/
def State.distWrite (s : State) (ctx va : Nat) (bs : List Byte) : Except PlaceErr State :=
  (s.writeVa ctx (2 ^ 40) va bs).placed va

def State.distRead (s : State) (ctx va n : Nat) : Except PlaceErr (List Byte × State) :=
  (s.readVa ctx (2 ^ 40) va n).placed va

/-- A completion record (16_distributor.md Table 5). -/
def recordBytes (status cause node pred dstamp cstamp lcount cores step : Nat) : List Byte :=
  bytesOf 1 status ++ bytesOf 1 cause ++ bytesOf 2 node ++ bytesOf 4 pred ++ bytesOf 8 dstamp ++ bytesOf 8 cstamp
  ++ bytesOf 4 lcount ++ bytesOf 2 cores ++ bytesOf 2 0 ++ bytesOf 4 step ++ bytesOf 28 0

/-- Write a completion record, or append RECORD-FAULT to the sibling of queue `q` (16_distributor.md R298). -/
def State.putRecord (s : State) (ctx q id entry va : Nat) (bs : List Byte) : State :=
  if va = 0 then s
  else
    match s.distWrite ctx va bs with
    | .ok s1 => s1
    | .error e => (s.noteTable ctx e).handler q hRecordFault id entry e.cause va 0

/-- The packet at entry `n` of queue `q` as the ring holds it: its first entry, and the entries that it occupies. -/
def State.entryBytes (s : State) (q n : Nat) : List Byte := s.physBytes ((s.queueAt q).entryPa n) 64

def packetLen (bytes : List Byte) : Nat := if uAt bytes 0 1 = 1 then 4 else 1

/-- The first entry from `n` on that has not started ahead of its turn. -/
def HostQ.skipFrom (x : HostQ) : Nat → Nat → Nat
  | 0, n => n
  | fuel + 1, n =>
    match x.started.find? (fun p => p.entry == n) with
    | some p => if n = x.latch then n else x.skipFrom fuel ((n + p.len) % 2 ^ 32)
    | none => n

/-- Begin the packet at entry `n`; it is read in its turn unless earlier ones are passed (R265). -/
def State.beginPacket (s : State) (q n : Nat) (bytes : List Byte) : State :=
  let x := s.queueAt q
  let p : Started := ⟨n, min (packetLen bytes) (sub32 x.latch n), bytes, false, 0, false, (s.ctxAt x.ctx).collCount⟩
  let s1 := { s with wakeTurn := s.wakeTurn.ins (q % 6) q }
  s1.setQ q { x with
    started := x.started ++ [p]
    next := if n = x.skipFrom (x.started.length + 1) x.next then x.skipFrom (x.started.length + 1) ((n + p.len) % 2 ^ 32)
      else x.next }

/-- Complete as aborted every packet of queue `q` from `next` up to LATCH (R264). -/
def State.abortRest (s : State) (q : Nat) : Nat → State
  | 0 => s
  | fuel + 1 =>
    let x := s.queueAt q
    if x.next = x.latch then s
    else if x.started.any (fun p => p.entry == x.next) then
      -- already started, ahead of its turn (R265)
      (s.setQ q { x with next := (x.next + 1) % 2 ^ 32 }).abortRest q fuel
    else
      let bytes := s.entryBytes q x.next
      let n := min (packetLen bytes) (sub32 x.latch x.next)
      let s1 := s.setQ q { x with
        started := x.started ++ [⟨x.next, n, bytes, false, 0, false, 0⟩]
        next := x.skipFrom (x.started.length + 1) ((x.next + n) % 2 ^ 32) }
      let s2 := if uAt bytes 0 1 = 1 then
          s1.putRecord x.ctx q (uAt bytes 4 4) x.next (uAt bytes 0x20 8) (recordBytes 4 0 0xFFFF 0 0 s.cycle.toNat 0 0 0)
        else s1
      (s2.completePacket q x.next true).abortRest q fuel

/-- The queue is aborted: its packet at `entry` and every later one that has not started complete as aborted, and it
stops (R264). -/
def State.abortQueue (s : State) (q entry : Nat) : State :=
  let s1 := (s.completePacket q entry true).abortRest q (2 ^ 15 + 1)
  s1.setQ q { s1.queueAt q with stopped := true, gang := none }

/-- A started packet fails with a HANDLER of cause `cause`; with B set it aborts its queue (R263, R264). -/
def State.failPacket (s : State) (q entry cause word req avail : Nat) : State :=
  match (s.queueAt q).running entry with
  | none => s
  | some p =>
    let s1 := if p.isB then s.abortQueue q entry else s.completePacket q entry true
    s1.handler q cause p.id entry word req avail

end Sys2Proof.Machine
end

