-- ==== Sys2Proof/Machine/Distributor.lean ====
section
/-! DEFINITION. The distributor: what an image declares, launch checks, nodes and their order, placement, dispatch and
completion (16_distributor.md R290 to R298, R300; 02_encoding.md R51 to R57). -/

namespace Sys2Proof.Machine

/-! ## Images and LAUNCH entries (02_encoding.md Tables 16, 17; 14_host_queues.md Table 4) -/

def Image.at_ (m : Image) (o n : Nat) : Nat := uAt m.head o n
def Image.lopelFlags (m : Image) : Nat := m.at_ 0x06 2
def Image.apSize (m : Image) : Nat := m.at_ 0x10 4
def Image.epSize (m : Image) : Nat := m.at_ 0x18 4
def Image.slOff (m : Image) : Nat := m.at_ 0x1C 4
def Image.slSize (m : Image) : Nat := m.at_ 0x20 4
def Image.dataOff (m : Image) : Nat := m.at_ 0x24 4
def Image.dataSize (m : Image) : Nat := m.at_ 0x28 4
def Image.lstore (m : Image) : Nat := m.at_ 0x40 4
def Image.basin (m : Image) : Nat := m.at_ 0x44 4
def Image.lstorePer (m : Image) : Nat := m.at_ 0x54 4
def Image.lstoreShape (m : Image) : Nat := m.at_ 0x58 1
def Image.timed (m : Image) : Bool := m.lopelFlags / 2 % 2 == 1

/-- Kind of loop level `i`: 0 unused, 1 T, 2 C, 3 D. -/
def Image.levelKind (m : Image) (i : Nat) : Nat := m.at_ (0x60 + 8 * i) 1

/-- LAUNCH fields of a 256-byte image. -/
def lSlot (b : List Byte) : Nat := uAt b 0x10 1
def lKernel (b : List Byte) : Nat := uAt b 0x11 1
def lGang (b : List Byte) : Nat := uAt b 0x12 2
def lPredAddr (b : List Byte) : Nat := uAt b 0x18 8
def lRecord (b : List Byte) : Nat := uAt b 0x20 8
def lCsig (b : List Byte) : Nat := uAt b 8 8
def lRel (b : List Byte) (n : Nat) : Nat := uAt b (64 + 8 * n) 8
def lShape (b : List Byte) (n : Nat) : Nat := uAt b (192 + 8 * n) 8

/-- The evaluated extent of level `i` (R52, R53); an unused level reads 0. -/
def Image.extent (m : Image) (b : List Byte) (i : Nat) : Nat :=
  let o := 0x60 + 8 * i
  let q := m.at_ (o + 4) 4
  if m.levelKind i = 0 then 0
  else if m.at_ (o + 1) 1 % 2 = 0 then q
  else ceilDiv (lShape b (m.at_ (o + 2) 1)) q

/-- Product of the extents of the levels of kind `kind`. -/
def Image.product (m : Image) (b : List Byte) (kind : Nat) : Nat :=
  (List.range 8).foldl (fun a i => if m.levelKind i = kind then a * m.extent b i else a) 1

/-- The team size L (R53). -/
def Image.team (m : Image) (b : List Byte) : Nat := m.product b 2 * m.product b 3

/-- Local-store bytes of a logical core at this launch (R56). -/
def Image.lstoreOf (m : Image) (b : List Byte) : Nat := m.lstore + m.lstorePer * lShape b m.lstoreShape

/-- Relocation entry: index, intent, flags, base and length at this launch (R55). -/
structure Range where
  index : Nat
  intent : Nat
  pinned : Bool
  base : Nat
  len : Nat
  deriving DecidableEq, Repr

def relocRange (b e : List Byte) : Range :=
  let fl := uAt e 2 1
  let len := uAt e 8 8
  ⟨uAt e 0 1, uAt e 1 1, fl / 2 % 2 == 1, lRel b (uAt e 0 1),
    if fl % 2 = 1 then len * lShape b (uAt e 3 1) else len⟩

def Image.ranges (m : Image) (b : List Byte) : List Range := m.relocs.map (relocRange b)

/-- Tile operands of a node: its ranges, and the kernel's `.data` part, when it has one, with intent rw (R56). -/
def Image.tiles (m : Image) (b : List Byte) : List Range :=
  let ro := m.at_ 0x34 4
  m.ranges b ++ (if ro < m.dataSize then [⟨16, 3, false, m.dataBase + ro, m.dataSize - ro⟩] else [])

/-! ## Launch checks (R291, Table 3) -/

/-- A failed check: cause word, requested, available. -/
structure Reject where
  cause : Nat
  req : Nat
  avail : Nat
  deriving DecidableEq, Repr

/-- Cores not fenced. -/
def State.workingCores (s : State) : Nat := 256 - s.fencedCores.length

/-- The first byte of the range that is not resident with the permissions `how`. -/
def State.notResident (s : State) (ctx : Nat) (how : Access) (r : Range) : Option Nat :=
  match s.runs ctx (2 ^ 40) how (r.len / 4096 + 2) r.base r.len with
  | .ok _ => none
  | .fault _ a _ => some a.toNat
  | .wait _ _ => some r.base

/-- The first byte of the range whose page is not pinned. -/
def State.notPinned (s : State) (ctx : Nat) (r : Range) : Option Nat :=
  (List.range (r.len / 4096 + 2)).findSome? (fun i =>
    let va := if i = 0 then r.base else (r.base / 4096 + i) * 4096
    if r.base + r.len ≤ va ∨ winLocal ≤ va then none
    else
      match s.walk ctx va with
      | .leaf _ e _ => if wbit e 58 then none else some va
      | .fault _ => some va)

def Range.reads (r : Range) : Bool := r.intent != 2
def Range.writes (r : Range) : Bool := 2 ≤ r.intent

/-- Check 7 for one range: the lowest address at which it is not resident with the permissions of its intent. -/
def State.rangeResident (s : State) (ctx : Nat) (r : Range) : Option Nat :=
  match if r.reads then s.notResident ctx .load r else none, if r.writes then s.notResident ctx .store r else none with
  | some a, some b => some (min a b)
  | some a, none => some a
  | none, x => x

/-- Checks 1 to 8 for a launch of context `ctx`; `chk1` asks check 1 too. -/
def State.launchChecks (s : State) (ctx : Nat) (chk1 : Bool) (b : List Byte) : Option Reject :=
  let x := s.slotAt (lSlot b)
  if chk1 && (x.state != 2 || x.ctx != ctx) then some ⟨1, lSlot b, 0⟩
  else
    match x.images[lKernel b]? with
    | none => some ⟨2, lKernel b, x.nk⟩
    | some m =>
      let l := m.team b
      if 4 < m.product b 3 then some ⟨3, m.product b 3, 4⟩
      else if 512 < m.product b 2 then some ⟨3, m.product b 2, 512⟩
      else if 8 * s.workingCores < l then some ⟨3, l, 8 * s.workingCores⟩
      else if 2 ^ 21 < m.lstoreOf b then some ⟨4, m.lstoreOf b, 2 ^ 21⟩
      else
        let c := s.ctxAt ctx
        let grant := (List.range 4).foldl (fun a d => a + c.grantSize d) 0
        if grant < m.basin then some ⟨5, m.basin, grant⟩
        else
          match (m.ranges b).findSome? (fun r => (s.rangeResident ctx r).map (fun a => Reject.mk 6 a r.index)) with
          | some e => some e
          | none =>
            (m.ranges b).findSome? (fun r =>
              if r.pinned then (s.notPinned ctx r).map (fun a => Reject.mk 7 a r.index) else none)

/-! ## Nodes (R293, R294) -/

/-- The lowest free pool index. -/
def State.freeNode (s : State) : Option Nat := (List.range 4096).find? (fun n => (s.nodes.at? n).isNone)

/-- The ranges have a byte in common; an empty range has none. -/
def Range.overlaps (a b : Range) : Bool := decide (max a.base b.base < min (a.base + a.len) (b.base + b.len))

/-- Two nodes' tile operands conflict: an overlap with a writer. -/
def rangesConflict (as bs : List Range) : Bool :=
  as.any (fun a => bs.any (fun b => a.overlaps b && (a.writes || b.writes)))

/-- The image of a node's kernel. -/
def State.nodeImage (s : State) (x : Node) : Option Image := (s.slotAt x.slot).images[x.kernel]?

def State.nodeRanges (s : State) (x : Node) : List Range :=
  match s.nodeImage x with
  | some m => m.tiles x.image
  | none => []

/-- Enter a node that has passed its checks, as number `n` (R293). -/
def State.enterNode (s : State) (n ctx : Nat) (b : List Byte) (queue entry origin prio : Nat) (held : Bool)
    (gang : Option Nat) (gangSize : Nat) : State :=
  match (s.slotAt (lSlot b)).images[lKernel b]? with
  | none => s
  | some m =>
    let rs := m.tiles b
    let preds := (s.nodes.filter (fun p => p.2.queue == queue && rangesConflict (s.nodeRanges p.2) rs)).map Prod.fst
    let x : Node := {
      ctx := ctx, slot := lSlot b, kernel := lKernel b, image := b, queue := queue, entry := entry, id := uAt b 4 4,
      origin := origin, prio := prio, age := s.cycle.toNat, order := s.nodeOrder, held := held, preds := preds,
      pred := none, gang := gang, gangSize := gangSize, lvl := (List.range 8).map (m.extent b), lcount := m.team b, lstore := m.lstoreOf b,
      dispatched := false, dstamp := 0, cores := 0, step := 0, readyAt := none, starved := false }
    { s.setNode n x with nodeOrder := s.nodeOrder + 1 }

/-- Nothing holds the node but its predicate. -/
def Node.free (x : Node) : Bool := !x.dispatched && !x.held && x.preds.isEmpty
/-- The node is ready (R293). -/
def Node.ready (x : Node) : Bool := x.free && (lPredAddr x.image == 0 || x.pred.isSome)

/-- Node `x` of a gang completes without a dispatch (R294): the other members are dispatched without it (log entry 53). -/
def State.leaveGang (s : State) (x : Node) : State :=
  match x.gang with
  | none => s
  | some g =>
    if x.dispatched then s
    else
      let q := s.queueAt x.queue
      let s1 := { s with nodes := s.nodes.mapV (fun (y : Node) =>
        if y.gang == some g && y.queue == x.queue then { y with gangSize := y.gangSize - 1 } else y) }
      match q.gang with
      | some (h, left, gone) => if h = g then s1.setQ x.queue { q with gang := some (g, left, gone + 1) } else s1
      | none => s1

/-- A LAUNCH with B set whose node has FAILED aborts its queue, which appends one HANDLER; the spec names no cause of Table 5 for
it, so its cause and amounts are free values (14_host_queues.md R264; DESIGN CHOICE, log entry 52). -/
def State.abortByNode (s : State) (x : Node) : State :=
  let (f, s1) := s.takeFree
  let v (i : Nat) : Nat := (Config.nodeHandler f i).toNat
  (s1.abortQueue x.queue x.entry).handler x.queue (v 0 % 65536) x.id x.entry (v 1) (v 2) (v 3)

/-- A node leaves the pool: its successors no longer wait for it, and its logical cores stay only as they ended (R298). -/
def State.removeNode (s : State) (n : Nat) : State :=
  let (mine, others) := s.lcores.partition (fun p => p.2.node == n)
  { s with
    lcores := others
    retired := mine.foldl (fun m p => m.ins p.1 p.2) (s.retired.filter (fun p => p.2.node != n))
    nodes := (s.nodes.del n).mapV (fun (y : Node) => { y with preds := y.preds.filter (· != n) }) }

/-- A node completes (R298): record, csig, successors, pool, and PROG for a LAUNCH node. -/
def State.completeNode (s : State) (n status cause : Nat) : State :=
  match s.nodes.at? n with
  | none => s
  | some x =>
    let rec_ := recordBytes status cause n (x.pred.getD 0) x.dstamp s.cycle.toNat x.lcount x.cores x.step
    let s1 := s.putRecord x.ctx x.queue x.id x.entry (lRecord x.image) rec_
    let s2 := (s1.removeNode n).leaveGang x
    let failed := status == 3
    if x.origin / 4 % 2 = 1 then s2.addSignal x.ctx (lCsig x.image) (if failed then -(2 ^ 32) else -1)
    else if failed && x.origin % 2 == 1 then s2.abortByNode x
    else s2.completePacket x.queue x.entry failed

/-- The nodes whose last predecessor has gone become ready, or read their predicate, in pool-entry order (R294). -/
def State.settleNodes (s : State) : Nat → State
  | 0 => s
  | fuel + 1 =>
    match s.nodes.find? (fun p => p.2.free && p.2.readyAt.isNone) with
    | none => s
    | some (n, x) =>
      let now := some s.cycle.toNat
      if lPredAddr x.image = 0 then (s.setNode n { x with readyAt := now }).settleNodes fuel
      else
        match s.distRead x.ctx (lPredAddr x.image) 4 with
        | .error e => ((s.noteTable x.ctx e).completeNode n 3 e.cause).settleNodes fuel
        | .ok (bs, s1) =>
          let v := ofBytes bs
          let s2 := s1.setNode n { x with pred := some v, readyAt := now }
          if v = 0 then (s2.completeNode n 2 0).settleNodes fuel else s2.settleNodes fuel

def State.settle (s : State) : State := s.settleNodes 8192

/-! ## Placement (R296) -/

/-- Logical cores given to each physical core as placement goes on: how many, and the units that they declare. -/
abbrev Load := SMap (Nat × Nat)

/-- Logical cores given to core `c`. -/
def Load.given (g : Load) (c : Nat) : Nat := (SMap.atD g c (0, 0)).1

def State.load (s : State) (g : Load) (c : Nat) : Nat := (s.coreAt c).rot.length + g.given c

/-- The units that the logical cores of core `c`, and those given to it, declare (02_encoding.md R57). -/
def State.unitsOf (s : State) (g : Load) (c : Nat) : Nat :=
  (s.coreAt c).rot.foldl (fun a k => a ||| (s.lcAt k).kern.units) (SMap.atD g c (0, 0)).2

/-- Wake latency of a core (R23). -/
def PCore.wakeCost (p : PCore) : Nat :=
  match p.power with
  | .powerGated => 13200
  | .clockGated => 165
  | _ => 0

/-- The core may take one more logical core: unfenced, and a free place. -/
def State.hasPlace (s : State) (g : Load) (c : Nat) : Bool := !s.fencedCores.contains c && decide (s.load g c < 8)

/-- The budget allows waking the cores of `cs` that sleep and have not been given a logical core yet (R24). -/
def State.mayWake (s : State) (g : Load) (cs : List Nat) : Bool :=
  cs.all (fun c => (s.coreAt c).wakeCost == 0 || g.given c != 0 || Config.budgetAllows s.ticks c)

/-- Any cores will do, whatever the budget. -/
def anyWake (_ : Load) (_ : List Nat) : Bool := true

/-- The cost of core `c` for a kernel that declares `units`: each of them that no logical core of the core declares is
power-gated, and has a power-gated core's wake latency (R296, 02_encoding.md R57). -/
def State.coreCost (s : State) (units : Nat) (g : Load) (c : Nat) : Nat :=
  s.load g c * 165000 + (s.coreAt c).wakeCost
    + 13200 * ((List.range 3).filter (fun i => units.testBit i && !(s.unitsOf g c).testBit i)).length

/-- Give core `c` one more logical core. -/
def Load.give (g : Load) (c units : Nat) : Load :=
  let v := SMap.atD g c (0, 0)
  SMap.ins g c (v.1 + 1, v.2 ||| units)

/-- The first of the least by `cost`. -/
def leastBy (cost : Nat → Nat) : List Nat → Option Nat
  | [] => none
  | x :: xs =>
    match leastBy cost xs with
    | none => some x
    | some y => if cost y < cost x then some y else some x

/-- Cores for `n` logical cores on terrace `t` (counted as d·8 + t) among those that `host` admits: the cores, their summed cost,
and the loads. -/
def State.placeOn (s : State) (host : Load → Nat → Bool) (units t : Nat) : Nat → Load → Option (List Nat × Nat × Load)
  | 0, g => some ([], 0, g)
  | n + 1, g =>
    match leastBy (s.coreCost units g) (((List.range 8).map (8 * t + ·)).filter (host g)) with
    | none => none
    | some c =>
      let cost := s.coreCost units g c
      (s.placeOn host units t n (g.give c units)).map (fun r => (c :: r.1, cost + r.2.1, r.2.2))

/-- Which cores may be chosen, and which choices of them the budget allows. -/
structure Hosts where
  host : Load → Nat → Bool
  wake : Load → List Nat → Bool

/-- The best of placements on the terraces `ts` that have room: enough free places, and a budget that allows waking the cores
that the group needs. -/
def State.bestTerrace (s : State) (h : Hosts) (units n : Nat) (g : Load) (ts : List Nat) : Option (List Nat × Nat × Load) :=
  ts.foldl (fun best t =>
    match (s.placeOn h.host units t n g).filter (fun r => h.wake g r.1), best with
    | none, b => b
    | some r, none => some r
    | some r, some b => if r.2.1 < b.2.1 then some r else some b) none

/-- Place one terrace group of `n` logical cores, by preference on die `d`. -/
def State.placeGroup (s : State) (h : Hosts) (units d n : Nat) (g : Load) : Option (List Nat × Load) :=
  match s.bestTerrace h units n g ((List.range 8).map (8 * d + ·)) with
  | some r => some (r.1, r.2.2)
  | none => (s.bestTerrace h units n g (List.range 32)).map (fun r => (r.1, r.2.2))

/-- Index of logical core `c` at level `i`: the spatial levels from the outermost (R53). -/
def levelIndex (m : Image) (lvl : List Nat) (c i : Nat) : Nat :=
  if m.levelKind i < 2 then 0
  else
    let inner := (List.range 8).foldl (fun a j => if i < j ∧ 2 ≤ m.levelKind j then a * lvl.getD j 0 else a) 1
    c / inner % max 1 (lvl.getD i 0)

/-- The D-point index of logical core `c`. -/
def dPoint (m : Image) (lvl : List Nat) (c : Nat) : Nat :=
  (List.range 8).foldl (fun a i => if m.levelKind i = 3 then a * lvl.getD i 0 + levelIndex m lvl c i else a) 0

/-- Place the groups of a team of `l`, from group `g0` on: a core for each logical core. -/
def State.placeTeam (s : State) (h : Hosts) (m : Image) (lvl : List Nat) (l : Nat) : Nat → Nat → Load → Option (List Nat × Load)
  | 0, _, g => some ([], g)
  | fuel + 1, first, g =>
    if l ≤ first then some ([], g)
    else
      match s.placeGroup h (m.at_ 0x4F 1) (dPoint m lvl first % 4) (min 8 (l - first)) g with
      | none => none
      | some (cs, g1) => (s.placeTeam h m lvl l fuel (first + 8) g1).map (fun r => (cs ++ r.1, r.2))

/-- Place the teams of several nodes together. -/
def State.placeNodes (s : State) (h : Hosts) : List Nat → Load → Option (List (Nat × List Nat))
  | [], _ => some []
  | n :: ns, g =>
    match s.nodes.at? n with
    | none => none
    | some x =>
      match s.nodeImage x with
      | none => none
      | some m =>
        match s.placeTeam h m x.lvl x.lcount (x.lcount / 8 + 1) 0 g with
        | none => none
        | some (cs, g1) => (s.placeNodes h ns g1).map (fun r => (n, cs) :: r)

/-- Every free place, within the budget; and whatever the budget. -/
def State.hosts (s : State) : Hosts := ⟨s.hasPlace, s.mayWake⟩
def State.hostsAwake (s : State) : Hosts := ⟨s.hasPlace, anyWake⟩

/-! ## Dispatch (R295, R296, R300) -/

/-- The context is frozen, being frozen, or failed: none of its nodes is dispatched. -/
def Ctx.stopped (c : Ctx) : Bool := c.frozen || c.freeze.isSome || c.failed

/-- Programs of the context do not run: it is frozen or failed, or its FREEZE has stopped them (18_context_image.md R324). -/
def Ctx.halted (c : Ctx) : Bool :=
  c.frozen || c.failed ||
  (match c.freeze with
    | some z => z.swapped
    | none => false)

/-- The nodes dispatched with node `n`: its gang's members, or it alone. -/
def State.gangOf (s : State) (n : Nat) : List Nat :=
  match s.nodes.at? n with
  | none => []
  | some x =>
    match x.gang with
    | none => [n]
    | some g => (s.nodes.filter (fun p => p.2.gang == some g && p.2.queue == x.queue)).map Prod.fst

/-- The gang of node `n` is whole: as many members in the pool as are dispatched together. -/
def State.gangWhole (s : State) (n : Nat) : Bool :=
  match s.nodes.at? n with
  | none => false
  | some x => x.gang.isNone || (s.gangOf n).length == x.gangSize

/-- Every node dispatched with `n` is ready and of a context that may dispatch. -/
def State.gangReady (s : State) (n : Nat) : Bool :=
  s.gangWhole n && (s.gangOf n).all (fun i =>
    match s.nodes.at? i with
    | some x => x.ready && !(s.ctxAt x.ctx).stopped
    | none => false)

/-- A starved node that is not dispatched with them holds back one of the nodes `ns` (R295). -/
def State.heldBack (s : State) (ns : List Nat) : Bool :=
  s.nodes.any (fun p => p.2.starved && !p.2.dispatched && !ns.contains p.1 && ns.any (fun n =>
    match s.nodes.at? n with
    | some x => decide (x.prio ≤ p.2.prio) && decide (p.2.order < x.order)
    | none => false))

/-- Node `a` goes before node `b`: higher priority, then older. -/
def Node.before (a b : Node) : Bool := decide (b.prio < a.prio) || (a.prio == b.prio && decide (a.order < b.order))

/-- Node `n` can be dispatched now: its gang is ready, is not held back, and fits. -/
def State.canDispatch (s : State) (n : Nat) : Bool :=
  (s.nodes.at? n).isSome && s.gangReady n && !s.heldBack (s.gangOf n) && (s.placeNodes s.hosts (s.gangOf n) []).isSome

/-- The node that the distributor dispatches next (R295). -/
def State.selectNode (s : State) : Option Nat :=
  ((s.nodes.filter (fun p => s.canDispatch p.1)).foldl (fun best p =>
    match best with
    | none => some p
    | some b => if p.2.before b.2 then some p else some b) none).map Prod.fst

/-- A ready node is held by the budget alone (R24). -/
def State.budgetHolds (s : State) : Bool :=
  s.nodes.any (fun p => s.gangReady p.1 && !s.heldBack (s.gangOf p.1) && (s.placeNodes s.hosts (s.gangOf p.1) []).isNone
    && (s.placeNodes s.hostsAwake (s.gangOf p.1) []).isSome)

/-- A step boundary of slot `i` (R300). -/
def State.stepBoundary (s : State) (i : Nat) : State :=
  let x := s.slotAt i
  let no := (x.stepno + 1) % 2 ^ 32
  let mine (e st : Nat) : Bool := wf (s.seqWord e 0) 63 62 == st && wf (s.seqWord e 0) 61 56 == i
  let steps := (List.range 4096).filter (fun e => mine e 1 || mine e 2)
  let s1 := (List.range 4096).foldl (fun t e =>
    if mine e 1 then
      (t.setSeqWord e 0 (setFld (s.seqWord e 0) 63 62 2)).setSeqWord e 3 (setFld (s.seqWord e 3) 63 32 no)
    else if mine e 3 then t.setSeqWord e 0 (setFld (s.seqWord e 0) 63 62 0)
    else t) s
  s1.setSlot i { x with stepno := no, steps := steps }

/-- What a kernel declares, for the logical cores of a node (02_encoding.md R56, R57). -/
def kernOf (slot number : Nat) (m : Image) : Kern where
  slot := slot
  number := number
  apBase := m.apBase
  apSize := m.apSize
  epBase := m.epBase
  epSize := m.epSize
  banks := m.at_ 0x4E 1
  units := m.at_ 0x4F 1
  flags := m.at_ 0x50 4
  timed := m.timed

/-- The launch registers of logical core `c` of a node (R53, R58). -/
def launchRegs (x : Node) (m : Image) (c : Nat) : SMap Word :=
  let put (r : SMap Word) (n v : Nat) : SMap Word := r.put n (toW v) 0
  let r := put (put (put [] 1 c) 2 x.lcount) 4 m.dataBase
  let r := (List.range 8).foldl (fun r i =>
    put (put (put r (0x08 + i) (lShape x.image i)) (0x20 + i) (x.lvl.getD i 0)) (0x28 + i) (levelIndex m x.lvl c i)) r
  (List.range 16).foldl (fun r i => put r (0x10 + i) (lRel x.image i)) r

/-- Logical core `c` of node `n` as dispatch creates it, resident on physical core `pc`. -/
def newLcore (n : Nat) (x : Node) (m : Image) (c pc : Nat) : LCore :=
  { LCore.fresh with
    ctx := x.ctx
    node := n
    lcid := c
    kern := kernOf x.slot x.kernel m
    loc := .spilled pc
    ap := { Strm.fresh with pc := toW m.apBase }
    ep := { Strm.fresh with pc := toW m.epBase }
    launch := launchRegs x m c
    lsmap := (List.range (ceilDiv x.lstore 16384)).map (fun v => (v, 0x8000)) }

/-- A logical core arrives on physical core `c`: at the end of the rotation list; an empty core is woken for it (R152, R23). -/
def State.arrive (s : State) (c k : Nat) : State :=
  let p := s.coreAt c
  let p1 := { p with rot := p.rot ++ [k] }
  if p.active.isNone ∧ p.swapReq.isNone ∧ p.swapping.isNone then
    let p2 : PCore := { p1 with
      active := some k
      quantum := 0
      power := match p.power with
        | .awake => .awake
        | _ => .waking
      wake := match p.power with
        | .waking => p.wake
        | _ => p.wakeCost }
    (s.setCore c p2).setLc k { s.lcAt k with loc := .banked c }
  else s.setCore c p1

/-- Priority of the node that a logical core belongs to. -/
def State.prioOf (s : State) (k : Nat) : Nat :=
  match s.nodes.at? (s.lcAt k).node with
  | some x => x.prio
  | none => 0

/-- The logical core that is active on core `c`, or becomes so by a swap under way or requested. -/
def State.coming (s : State) (c : Nat) : Option Nat :=
  let p := s.coreAt c
  if p.swapping.isSome ∧ p.swapReq = none then p.shadow
  else if p.swapReq = none then p.active
  else s.nextIn c

/-- Every core with a free place runs a logical core of lower priority than `prio` (R296). -/
def State.onlyOutranked (s : State) (prio : Nat) : Bool :=
  ((List.range 256).filter (s.hasPlace [])).all (fun c =>
    match (s.coreAt c).active with
    | some a => decide (s.prioOf a < prio)
    | none => false)

/-- Request a swap for the newly placed `k` when it outranks the logical core that is active, or about to be, on its core
(R296; DEDUCED for a swap under way, log entry 18). -/
def State.preemptFor (s : State) (c k : Nat) : State :=
  match s.coming c with
  | some a => if a ≠ k ∧ s.prioOf a < s.prioOf k then s.setCore c { s.coreAt c with swapReq := some (.preempt k) } else s
  | none => s

/-- Create the logical cores of node `n` on the cores `cs`, from LCOREID `i` on; with `swap` they are brought in at once where
they outrank (R296). -/
def State.createTeam (s : State) (n : Nat) (x : Node) (m : Image) (swap : Bool) : Nat → List Nat → State
  | _, [] => s
  | i, c :: cs =>
    let k := lcKey n i
    let s1 := ({ s with retired := s.retired.del k }.setLc k (newLcore n x m i c)).arrive c k
    (if swap then s1.preemptFor c k else s1).createTeam n x m swap (i + 1) cs

/-- Distinct numbers in a list. -/
def distinct (l : List Nat) : List Nat := l.foldl (fun r c => if r.contains c then r else r ++ [c]) []

/-- Dispatch node `n` on the cores `cs`. -/
def State.dispatchNode (s : State) (n : Nat) (cs : List Nat) : State :=
  match s.nodes.at? n with
  | none => s
  | some x =>
    match s.nodeImage x with
    | none => s
    | some m =>
      let s1 := if x.kernel = 0 then s.stepBoundary x.slot else s
      let x1 := { x with
        dispatched := true
        dstamp := s.cycle.toNat
        cores := (distinct cs).length
        step := (s1.slotAt x.slot).stepno }
      let s2 := s1.setNode n x1
      if x.lcount = 0 then s2.completeNode n 1 0 else s2.createTeam n x1 m (s.onlyOutranked x.prio) 0 cs

/-- NODE_DISPATCH: the distributor dispatches the node that it selects, with its gang. -/
def execNodeDispatch (s : State) : Out :=
  match s.selectNode with
  | none => s.nothing
  | some n =>
    match s.placeNodes s.hosts (s.gangOf n) [] with
    | none => s.nothing
    | some ps => (ps.foldl (fun t p => t.dispatchNode p.1 p.2) s).settle.happened

/-- DISPATCH_STARVATION (R295). -/
def execDispatchStarvation (n : Nat) (s : State) : Out :=
  match s.nodes.at? n with
  | none => s.nothing
  | some x =>
    match x.readyAt with
    | none => s.nothing
    | some t =>
      if x.dispatched ∨ x.starved ∨ (s.cycle - toW t).toNat < 2 ^ 26 then s.nothing
      else (s.setNode n { x with starved := true }).happened

/-- Every logical core of node `n` has raised its halt line (R298). -/
def State.teamHalted (s : State) (n : Nat) : Bool := s.lcores.all (fun p => p.2.node != n || p.2.ended)

/-- NODE_COMPLETION (R298); that of a context whose FREEZE has stopped it is a trigger of its image (18_context_image.md R333). -/
def execNodeCompletion (n : Nat) (s : State) : Out :=
  match s.nodes.at? n with
  | none => s.nothing
  | some x => if x.dispatched ∧ s.teamHalted n ∧ (s.ctxAt x.ctx).halted = false then (s.completeNode n 1 0).settle.happened else s.nothing

/-! ## Power (R297, R23) -/

/-- POWER_GATE_EXPIRY: a core empty for 330,000 core cycles is power-gated, but for the cores that a context's floor keeps
clock-gated. -/
def execPowerGateExpiry (core : Nat) (s : State) : Out :=
  let p := s.coreAt core
  let floor := s.ctxs.foldl (fun a c => max a c.2.floor) 0
  let kept := ((List.range 256).filter (fun c => (s.coreAt c).power != .powerGated)).length
  if p.power = .clockGated ∧ p.rot = [] ∧ 330000 ≤ (s.cycle - toW p.emptied).toNat ∧ floor < kept then
    (s.setCore core { p with power := .powerGated }).happened
  else s.nothing

/-- CORE_WAKE_DONE. -/
def execCoreWakeDone (core : Nat) (s : State) : Out :=
  let p := s.coreAt core
  if p.power = .waking ∧ p.wake = 0 then (s.setCore core { p with power := .awake }).happened else s.nothing

/-! ## Failure of a context (R298) -/

/-- Take a logical core off its physical core. -/
def State.evictLcore (s : State) (k : Nat) : State :=
  (List.range 256).foldl (fun s c =>
    let p := s.coreAt c
    if p.rot.contains k ∨ p.active = some k ∨ p.shadow = some k then
      let rot := p.rot.filter (· != k)
      s.setCore c { p with
        rot := rot
        active := if p.active = some k then none else p.active
        shadow := if p.shadow = some k then none else p.shadow
        held := p.held && p.shadow != some k
        busy := p.busy && p.shadow != some k
        swapReq := if rot = [] then none
          else if p.active = some k ∧ p.swapping = none ∨ p.active = none ∧ p.shadow = some k then some .rotate else p.swapReq
        swapping := if rot = [] ∨ p.shadow = some k then none else p.swapping
        power := if rot = [] then .clockGated else p.power
        emptied := if rot = [] then s.cycle.toNat else p.emptied }
    else s) s

/-- Every range-table entry with V clear (17_collectives.md Table 3). -/
def clearRanges (m : SMap Word) : SMap Word := m.filterMap (fun p =>
  let v := if p.1 % 3 = 0 then setFld p.2 63 63 0 else p.2
  if v = 0 then none else some (p.1, v))

/-- Fail context `ctx`: its nodes complete as FAILED in node-number order, its descriptors, the V of its range-table entries and its sequences are
cleared, its Sluice cores stop, and firmware is told. -/
def State.failCtx (s : State) (ctx cause : Nat) : State :=
  let mine := s.lcores.keysWhere (fun l => l.ctx == ctx)
  let s1 := mine.foldl State.evictLcore s
  let c := s1.ctxAt ctx
  let s2 := s1.setCtx ctx { c with
    tns := []
    ranges := clearRanges c.ranges
    stage := []
    finished := []
    claims := []
    waiting := []
    failed := true }
  let s3 := (s2.nodes.keysWhere (fun x => x.ctx == ctx)).foldl (fun t n => t.completeNode n 3 cause) s2
  let s4 := (List.range 4096).foldl (fun t e =>
    if wf (s3.seqWord e 0) 63 62 ≠ 0 ∧ wf (s3.seqWord e 0) 15 0 = ctx then
      t.setSeqWord e 0 (setFld (s3.seqWord e 0) 63 62 0) else t) s3
  let s5 := { s4 with sluices := s4.sluices.mapV (fun (y : Sluice) => if y.bound && y.ctx == ctx then { y with running := false } else y) }
  (s5.report (.contextFailure ctx cause)).settle

/-- CONTEXT_FAILURE: firmware fails a context, for a fault cause. -/
def execContextFailure (ctx cause : Nat) (s : State) : Out :=
  match s.ctxs.at? ctx with
  | none => s.nothing
  | some c => if c.failed then s.nothing else (s.failCtx ctx cause).happened

end Sys2Proof.Machine
end

