-- ==== Sys2Proof/Machine/Sequences.lean ====
section
/-! DEFINITION. The instructions of major 0x38 (16_distributor.md R301 to R304) and `vstop` (12_vector_data.md R232). -/

namespace Sys2Proof.Machine

/-! ## `vstop` -/

/-- `token` is among the valid stop tokens of entry `e`, which is ACTIVE and belongs to context `ctx`. -/
def State.stopHit (s : State) (ctx token e : Nat) : Bool :=
  decide (e < 4096) && wf (s.seqWord e 0) 15 0 == ctx && wf (s.seqWord e 0) 63 62 == 2
  && (List.range (min 16 (wf (s.seqWord e 0) 55 51))).any (fun i =>
      wf (s.seqWord e (4 + i / 2)) (32 * (i % 2) + 31) (32 * (i % 2)) == token)

def vstopOp (q : Rill) (e : Bool) (d a b : Nat) : VOp :=
  let op (f : LCore → State → List Nat → Option RRes) (l : LCore) (s : State) : VOp :=
    EwOp.vop ⟨d, [(a, 0), (b, 0)], fun _ xs _ => f l s xs, none⟩ q e [] false false
      (fun l => l.ty a == tyI32 && (l.ty b == tyI32 || l.ty b == tyU16) && l.ty d == tyB1)
  let hit (l : LCore) (s : State) (xs : List Nat) : Option RRes :=
    some (.ok (if s.stopHit l.ctx (xs.getD 0 0) (xs.getD 1 0) then 1 else 0))
  { op (fun _ _ _ => none) LCore.fresh State.reset with
    step := fun s k n sub => (op hit (s.lcAt k) s).step s k n sub }

def execVstop (q : Rill) (e : Bool) (d a b : Nat) (s : State) : Out := vexec (vstopOp q e d a b) s

/-! ## Major 0x38 -/

/-- −1 for an operand out of range, −2 for a full ring or pool, −3 for an entry of another context or in a wrong state,
−4 for an unknown node (R301). -/
def errW (n : Nat) : Word := ofZ (-(n : Int))

/-- An AP instruction that computes gd, and may change the state, from what it finds; a fault of an access is precise. -/
def State.apResult (s : State) (q : Rill) (srcs : List Nat) (d : Nat)
    (f : Nat → LCore → Acc (Word × State)) : Out :=
  s.onStream fun w =>
    let u := useAp q srcs [d]
    s.issued w u (
      match w with
      | .sluice _ => s
      | .core _ _ k =>
        s.afterAcc w 0 (f k (s.lcAt k)) (fun r => r.2.commit w u d r.1 .next))

/-- A ring's control block: base, head, tail and entries, and the room in it (08_memory.md Table 8). -/
structure RingBlock where
  base : Nat
  head : Nat
  size : Nat
  room : Nat
  deriving DecidableEq, Repr

def State.ringBlock (s : State) (ctx k va : Nat) : Acc (RingBlock × State) :=
  (s.readVa ctx k va 64).map (fun r =>
    let head := uAt r.1 8 4
    let size := 2 ^ (uAt r.1 16 1 % 32)
    (⟨uAt r.1 0 8, head, size, size - sub32 head (uAt r.1 12 4)⟩, r.2))

/-- Write entries of `n` bytes into a ring from its head on. -/
def State.ringPush (s : State) (ctx k n : Nat) (r : RingBlock) : Nat → List (List Byte) → Acc State
  | _, [] => .ok s
  | i, e :: es =>
    (s.writeVa ctx k (r.base + n * ((r.head + i) % r.size)) e).bind (fun s1 => s1.ringPush ctx k n r (i + 1) es)

/-- The 8-byte words of a list in memory. -/
def State.readWords (s : State) (ctx k va : Nat) : Nat → Acc (List Nat × State)
  | 0 => .ok ([], s)
  | n + 1 =>
    (s.readVa ctx k va 8).bind (fun r =>
      (r.2.readWords ctx k (va + 8) n).map (fun t => (ofBytes r.1 :: t.1, t.2)))

/-- The page addresses of the entries `es`, in order. -/
def State.kvPages (s : State) (ctx k : Nat) : List Nat → Acc (List Nat × State)
  | [] => .ok ([], s)
  | e :: es =>
    (s.readWords ctx k (s.seqWord e 1).toNat (wf (s.seqWord e 2) 31 0)).bind (fun r =>
      (r.2.kvPages ctx k es).map (fun t => (r.1 ++ t.1, t.2)))

/-- `seq.retire` on slot `sl` with the bits at `va` (R302). -/
def State.seqRetire (s : State) (ctx k sl va c : Nat) : Acc (Word × State) :=
  let x := s.slotAt sl
  let n := min c x.steps.length
  (if n = 0 then .ok ([], s) else s.readVa ctx k va (ceilDiv n 8)).bind (fun r =>
    let s1 := r.2
    let sel := ((List.range n).filter (fun i =>
      ((r.1.getD (i / 8) 0).toNat / 2 ^ (i % 8) % 2 == 1) && wf (s1.seqWord (x.steps.getD i 0) 0) 63 62 == 2)).map
        (fun i => x.steps.getD i 0)
    let pages := sel.foldl (fun a e => a + wf (s1.seqWord e 2) 31 0) 0
    (s1.ringBlock ctx k x.freering).bind (fun fr =>
      (fr.2.ringBlock ctx k x.retring).bind (fun rr =>
        if fr.1.room < pages ∨ rr.1.room < sel.length then .ok (errW 2, rr.2)
        else
          (rr.2.kvPages ctx k sel).bind (fun ps =>
            let recs := sel.map (fun e =>
              bytesOf 2 e ++ bytesOf 1 sl ++ bytesOf 1 0 ++ bytesOf 4 (wf (s1.seqWord e 2) 31 0) ++ bytesOf 4 x.stepno
                ++ bytesOf 4 0)
            (ps.2.ringPush ctx k 8 fr.1 0 (ps.1.map (bytesOf 8))).bind (fun s2 =>
              (s2.ringPush ctx k 16 rr.1 0 recs).bind (fun s3 =>
                (s3.writeVa ctx k (x.freering + 8) (bytesOf 4 (fr.1.head + pages))).bind (fun s4 =>
                  (s4.writeVa ctx k (x.retring + 8) (bytesOf 4 (rr.1.head + sel.length))).map (fun s5 =>
                    (toW sel.length,
                      sel.foldl (fun t e => t.setSeqWord e 0 (setFld (t.seqWord e 0) 63 62 3)) s5)))))))))

def execSeqRetire (q : Rill) (d a b : Nat) (s : State) : Out :=
  s.apResult q [a, b] d (fun k l =>
    let c := (l.reg false b).toNat
    if 4096 < c then .ok (errW 1, s) else s.seqRetire l.ctx k l.kern.slot (l.reg false a).toNat c)

def execSeqRd (q : Rill) (d a b : Nat) (s : State) : Out :=
  s.apResult q [a, b] d (fun _ l =>
    let e := (l.reg false a).toNat
    let x := s.slotAt l.kern.slot
    match (l.reg false b).toNat with
    | 12 => .ok (toW x.steps.length, s)
    | 13 => .ok (if e < x.steps.length then toW (x.steps.getD e 0) else errW 1, s)
    | 14 => .ok (toW x.stepno, s)
    | w =>
      if 12 ≤ w ∨ 4096 ≤ e then .ok (errW 1, s)
      else .ok (if wf (s.seqWord e 0) 15 0 = l.ctx then s.seqWord e w else 0, s))

def execSeqKv (q : Rill) (d a b : Nat) (s : State) : Out :=
  s.apResult q [a, b] d (fun k l =>
    let e := (l.reg false a).toNat
    let i := (l.reg false b).toNat
    let st := wf (s.seqWord e 0) 63 62
    if 4096 ≤ e then .ok (errW 1, s)
    else if wf (s.seqWord e 0) 15 0 ≠ l.ctx ∨ st < 2 then .ok (errW 3, s)
    else if wf (s.seqWord e 2) 31 0 ≤ i then .ok (errW 1, s)
    else (s.readVa l.ctx k ((s.seqWord e 1).toNat + 8 * i) 8).map (fun r => (toW (ofBytes r.1), r.2)))

/-! ### Packets' own rules (14_host_queues.md R262, Tables 3 and 4) -/

/-- Bytes `lo` to `hi` − 1 are not all zero: the offset of the first that is not. -/
def firstNonzero (b : List Byte) (lo hi : Nat) : Option Nat := ((List.range (hi - lo)).map (lo + ·)).find? (fun o => b.getD o 0 != 0)

/-- The first of the rules that is broken. -/
def firstBad : List (Option Nat) → Option Nat
  | [] => none
  | some o :: _ => some o
  | none :: r => firstBad r

def bad (c : Bool) (o : Nat) : Option Nat := if c then some o else none

/-- A signal address that is nonzero breaks the rule of R262. -/
def State.badSignal (s : State) (ctx va : Nat) : Bool := (s.signalPa ctx va).isNone

/-- The body of a LAUNCH packet. -/
def launchBody (b : List Byte) : Option Nat :=
  firstBad [bad (63 < uAt b 0x10 1) 0x10, bad (1023 < uAt b 0x14 2) 0x14, firstNonzero b 0x16 0x18,
    bad (uAt b 0x18 8 % 4 != 0) 0x18, bad (uAt b 0x20 8 % 64 != 0) 0x20, firstNonzero b 0x28 0x40]

/-- `node.launch` (R304). -/
def State.nodeLaunch (s : State) (k : Nat) (l : LCore) (va held : Nat) : Acc (Word × State) :=
  if 1 < held then .ok (errW 1, s)
  else
    (s.readVa l.ctx k va 256).map (fun r =>
      let b := r.1
      let s1 := r.2
      let parent := s1.nodes.at? l.node
      if uAt b 0 1 ≠ 1 ∨ uAt b 1 1 ≠ 0 ∨ uAt b 2 1 ≠ 4 ∨ uAt b 3 1 ≠ 0 ∨ (lCsig b ≠ 0 ∧ s1.badSignal l.ctx (lCsig b))
          ∨ 1 < lGang b ∨ (launchBody b).isSome then (errW 1, s1)
      else
        match s1.launchChecks l.ctx true b with
        | some e => (errW e.cause, s1)
        | none =>
          match s1.freeNode with
          | none => (errW 2, s1)
          | some n =>
            let (queue, prio) := match parent with
              | some x => (x.queue, x.prio)
              | none => (0, 0)
            (toW n, (s1.enterNode n l.ctx b queue 0 4 prio (held == 1) none 0).settle))

def execNodeLaunch (q : Rill) (d a b : Nat) (s : State) : Out :=
  s.apResult q [a, b] d (fun k l => s.nodeLaunch k l (l.reg false a).toNat (l.reg false b).toNat)

def execNodeSig (q : Rill) (d a : Nat) (s : State) : Out :=
  s.apResult q [a] d (fun _ l =>
    let n := (l.reg false a).toNat
    match s.nodes.at? n with
    | none => .ok (errW 4, s)
    | some x =>
      if x.held ∧ x.ctx = l.ctx then .ok (0, (s.setNode n { x with held := false }).settle) else .ok (errW 4, s))

def execDistHint (q : Rill) (d a b : Nat) (s : State) : Out :=
  s.apResult q [a, b] d (fun _ l =>
    let c := s.ctxAt l.ctx
    let v := (l.reg false b).toNat
    match (l.reg false a).toNat with
    | 0 => if 256 < v then .ok (errW 1, s) else .ok (toW c.floor, s.setCtx l.ctx { c with floor := v })
    | 1 => if v = 0 then .ok (toW c.floor, s) else .ok (errW 1, s)
    | _ => .ok (errW 1, s))

end Sys2Proof.Machine
end

