-- ==== Sys2Proof/Machine/Signals.lean ====
section
/-! DEFINITION. Signals, flag slots and counters: major 0x3A (19_counters.md R340 to R351). -/

namespace Sys2Proof.Machine

/-- The address checks of the signal forms, in their order (R344): the cause, or the signal's physical address. -/
def State.signalCheck (s : State) (ctx : Nat) (ga : Word) : Except Nat Nat :=
  if ga.toNat % 8 ≠ 0 then .error cMisaligned
  else
    match s.signalPa ctx ga.toNat with
    | none => .error cProtection
    | some pa => if s.inRange ctx ga.toNat 8 then .error cCollectiveRange else .ok pa

/-- A signal instruction: its address is checked before it issues (R344); the body gets the signal's address and value. -/
def execSignalForm (q : Rill) (e : Bool) (d a : Nat) (srcs : List Nat)
    (f : State → Who → Use → Nat → Word → State) (s : State) : Out :=
  s.onStream fun w =>
    let u := useAs q e srcs [d]
    let ga := s.src w a
    match s.signalCheck (s.ctxOf w) ga with
    | .error c => s.issuedAfter w u (some (s.raise w 1 c ga)) s
    | .ok pa => s.issuedAfter w u none (f s w u pa (s.readSignal pa))

/-- `sig.add`: v ← (v + gb) mod 2^64; gd ← old v. -/
def execSigAdd (q : Rill) (e : Bool) (d a b : Nat) (s : State) : Out :=
  execSignalForm q e d a [a, b] (fun s w u pa v => (s.writeSignal pa (v + s.src w b)).commit w u d v .next) s

/-- `sig.rd`: gd ← v. -/
def execSigRd (q : Rill) (e : Bool) (d a : Nat) (s : State) : Out :=
  execSignalForm q e d a [a] (fun s w u _ v => s.commit w u d v .next) s

/-- `sig.wait`: until s(v) ≤ s(gb) or s(v) < 0 (R345). -/
def execSigWait (q : Rill) (e : Bool) (d a b : Nat) (s : State) : Out :=
  execSignalForm q e d a [a, b] (fun s w u _ v =>
    if v.toInt ≤ (s.src w b).toInt ∨ v.toInt < 0 then s.commit w u d v .next else s.stallOn w .sync) s

/-! ## Flag slots (R342, R343, R346) -/

/-- A swap, spill or fill moves the flag slots of logical core `k` (R343). -/
def State.flagsMoving (s : State) (k : Nat) : Bool :=
  let p := s.coreAt (s.lcAt k).core
  (p.swapping.isSome && (p.active == some k || p.shadow == some k)) || (p.busy && p.shadow == some k)

def LCore.flag (l : LCore) (f : Nat) : Word := l.flags.atD f 0
/-- Write flag slot `f` of logical core `k` at its home: the flag store, and the record of a spilled one (R343). -/
def State.setFlag (s : State) (k f : Nat) (v : Word) : State :=
  let l := s.lcAt k
  let s1 := s.setLc k { l with flags := l.flags.put f v 0 }
  match l.loc with
  | .spilled _ => s1.setRaws (paSave k + 0x2800 + 8 * f) (bytesOf 8 v.toNat)
  | _ => s1

/-- A flag instruction: PROTECTION where `bad` holds of ga and gb, else the body. -/
def execFlagForm (q : Rill) (e : Bool) (d a : Nat) (srcs : List Nat) (b : Nat)
    (bad : LCore → Word → Word → Bool) (targets : LCore → Word → Word → List Nat)
    (f : State → Who → Use → Nat → List Nat → Word → Word → State) (s : State) : Out :=
  s.onStream fun w =>
    let u := useAs q e srcs [d]
    s.issued w u (
      match w with
      | .sluice _ => s
      | .core _ _ k =>
        let l := s.lcAt k
        let ga := s.src w a
        let gb := s.src w b
        if bad l ga gb then s.raise w 1 cProtection ga
        else
          let ts := (targets l ga gb).map (lcKey l.node)
          if ts.any s.flagsMoving then s.stallOn w .sync else f s w u k ts ga gb)

/-- TEAMSIZE. -/
def LCore.teamSize (l : LCore) : Nat := (l.launch.atD 2 0).toNat

def execFlagAdd (q : Rill) (e : Bool) (d a b : Nat) (s : State) : Out :=
  execFlagForm q e d a [a, b] b
    (fun l ga _ => wf ga 63 38 != 0 || decide (l.kern.flags ≤ wf ga 37 32) || decide (l.teamSize ≤ wf ga 31 0))
    (fun _ ga _ => [wf ga 31 0])
    (fun s w u _ ts ga gb =>
      let t := ts.headD 0
      let old := (s.lcAt t).flag (wf ga 37 32)
      (s.setFlag t (wf ga 37 32) (old + gb)).commit w u d old .next) s

/-- The logical cores that `flag.mset` names. -/
def msetTargets (ga gb : Word) : List Nat := ((List.range 64).filter (wbit gb)).map (64 * wf ga 63 40 + ·)

def execFlagMset (q : Rill) (e : Bool) (d a b : Nat) (s : State) : Out :=
  execFlagForm q e d a [a, b] b
    (fun l ga gb => wf ga 7 6 != 0 || decide (l.kern.flags ≤ wf ga 5 0)
      || (msetTargets ga gb).any (fun t => decide (l.teamSize ≤ t)))
    (fun _ ga gb => msetTargets ga gb)
    (fun s w u _ ts ga _ =>
      (ts.foldl (fun t k => t.setFlag k (wf ga 5 0) (sext 32 (wf ga 39 8))) s).commit w u d (toW ts.length) .next) s

def execFlagWait (q : Rill) (e : Bool) (d a b : Nat) (s : State) : Out :=
  execFlagForm q e d a [a, b] b
    (fun l ga _ => wf ga 63 6 != 0 || decide (l.kern.flags ≤ wf ga 5 0))
    (fun _ _ _ => [])
    (fun s w u k _ ga gb =>
      let v := (s.lcAt k).flag (wf ga 5 0)
      if gb.toInt ≤ v.toInt then s.commit w u d v .next else s.stallOn w .sync) s

/-! ## Counters (R347 to R351) -/

/-- Counter `k` of a port. -/
def Port.counter (p : Port) (k : Nat) : Word :=
  match k with
  | 0 => p.drop
  | 1 => p.reject
  | 2 => p.dup
  | _ => p.late

/-- Idle counter `n` of physical core `c`: GATED is what CYCLE leaves of the others (R347). -/
def State.idleAt (s : State) (c n : Nat) : Word :=
  let p := s.coreAt c
  if n = 1 then s.cycle - ((List.range 14).filter (· != 1)).foldl (fun a i => a + p.idle.atD i 0) 0
  else if n = 14 then 0
  else p.idle.atD n 0

/-- The counter numbered `n`, read on physical core `c` by logical core `l` (R350). -/
def State.counter (s : State) (c : Nat) (l : LCore) (n : Nat) : Word :=
  if n < 0x10 then s.idleAt c n
  else if n < 0x18 then l.pcs.atD (n - 0x10) 0
  else if n = 0x18 then l.pcsel
  else if 0x100 ≤ n ∧ n < 0x108 then s.errs.atD (n - 0x100) 0
  else if 0x200 ≤ n ∧ n < 0x200 + 4 * 48 then (s.portAt ((n - 0x200) / 4)).counter ((n - 0x200) % 4)
  else 0

def execCtrRd (q : Rill) (e : Bool) (d a : Nat) (s : State) : Out :=
  s.onStream fun w =>
    let u := useAs q e [a] [d]
    s.issued w u (
      match w with
      | .sluice _ => s
      | .core _ c k => s.commit w u d (s.counter c (s.lcAt k) (s.src w a).toNat) .next)

/-- `ctr.sel`: the selection and the reset are one step; an event of the same retirement counts after it (R351). -/
def execCtrSel (q : Rill) (d a b : Nat) (s : State) : Out :=
  s.apResult q [a, b] d (fun k l =>
    let i := (l.reg false a).toNat
    let code := (l.reg false b).toNat
    if 7 < i ∨ 14 < code then .ok (errW 1, s)
    else
      .ok (l.pcs.atD i 0,
        s.setLc k { l with pcsel := setFld l.pcsel (8 * i + 7) (8 * i) code, pcs := l.pcs.put i 0 0 }))

end Sys2Proof.Machine
end

