-- ==== Sys2Proof/Machine/Events.lean ====
section
/-! DEFINITION. The event queue of a Sluice core (15_sluice.md R284, R285), and the clocks of ports and Sluice cores. -/

namespace Sys2Proof.Machine

/-- Sluice cycles since reset: two for every three core cycles (01_device.md R10). -/
def State.slTicks (s : State) : Nat := s.ticks * 2 / 3

/-- Sources of events: timers 0 to 255, the three ports, the distributor. -/
def srcPort (i : Nat) : Nat := 256 + i
def srcDist : Nat := 259

/-- A record: TYPE, PORT, A and STAMP, then W1 to W3 (Table 7). -/
def evRecord (type port a : Nat) (w1 w2 w3 : Nat) (cycle : Word) : List Word :=
  [toW (type % 256 + port % 256 * 2 ^ 8 + a % 2 ^ 16 * 2 ^ 16 + cycle.toNat % 2 ^ 32 * 2 ^ 32), toW w1, toW w2, toW w3]

def evType (r : List Word) : Nat := wf (r.getD 0 0) 7 0
def evA (r : List Word) : Nat := wf (r.getD 0 0) 31 16

/-- The records coalesce: ECN of one flow, SEC of one SA (R285). -/
def evJoins (r t : List Word) : Bool :=
  evType r == evType t
    && ((evType r == 6 && evA r == evA t) || (evType r == 16 && r.getD 2 0 == t.getD 2 0))

/-- Further marks or drops add to W1; an ECN record also collects the mask of marked paths. -/
def evJoin (r t : List Word) : List Word :=
  [r.getD 0 0, r.getD 1 0 + t.getD 1 0, if evType r = 6 then r.getD 2 0 ||| t.getD 2 0 else r.getD 2 0, r.getD 3 0]

/-- A record enters the queue; with the XFER-DONE of a transfer that has ended the handle is freed (R286). -/
def Sluice.enqueue (x : Sluice) (r : List Word) : Sluice :=
  let x1 := { x with evq := x.evq ++ [r] }
  match x1.transfers.at? (evA r) with
  | some t => if evType r = 2 ∧ t.state ≠ 1 then { x1 with transfers := x1.transfers.del (evA r) } else x1
  | none => x1

/-- Source `src` can raise an event now. -/
def Sluice.canRaise (x : Sluice) (src : Nat) : Bool := (x.pending.at? src).isNone

/-- The record of source `src` finds one that it joins, or the source can raise it. -/
def Sluice.canTake (x : Sluice) (src : Nat) (r : List Word) : Bool := x.evq.any (evJoins · r) || x.canRaise src

/-- Raise an event of source `src`: it joins a queued record, or enters the queue, or is pending while the queue is full. An
event of a source that has one pending is lost; what raises events asks first (R284, log entry 47). -/
def Sluice.raiseEv (x : Sluice) (src : Nat) (r : List Word) : Sluice :=
  if x.evq.any (evJoins · r) then { x with evq := x.evq.map (fun t => if evJoins t r then evJoin t r else t) }
  else if x.canRaise src = false then x
  else if 256 ≤ x.evq.length then { x with pending := x.pending.ins src r }
  else x.enqueue r

/-- Sluice core `n` may be given an event by `src`. -/
def State.canRaise (s : State) (n src : Nat) : Bool := (s.slAt n).canRaise src

/-- Raise an event at Sluice core `n`. -/
def State.raiseEv (s : State) (n src type port a w1 w2 w3 : Nat) : State :=
  s.setSl n ((s.slAt n).raiseEv src (evRecord type port a w1 w2 w3 s.cycle))

/-- A port's own event (port 0 to 47). -/
def State.portEvent (s : State) (p type a w1 w2 w3 : Nat) : State :=
  s.raiseEv (p / 3) (srcPort (p % 3)) type p a w1 w2 w3

/-- EVENT_DEFERRED_ENQUEUE: the pending event of the lowest source enters when the queue has room (R284). -/
def execEventDeferredEnqueue (core : Nat) (s : State) : Out :=
  let x := s.slAt core
  match x.pending with
  | [] => s.nothing
  | (src, r) :: _ =>
    if 256 ≤ x.evq.length then s.nothing
    else (s.setSl core (({ x with pending := x.pending.del src }).enqueue r)).happened

end Sys2Proof.Machine
end

