-- ==== Sys2Proof/Machine/Collective.lean ====
section
/-! DEFINITION. Tensor descriptors, in-port reduction, the range table and collective records (17_collectives.md). -/

namespace Sys2Proof.Machine

/-! ## Tensor descriptors (R305, R306) -/

/-- A tensor descriptor (Table 1), from its eight words. -/
structure TDesc where
  v : Bool
  mode : Nat
  dupc : Bool
  etype : Nat
  redop : Nat
  rport : Nat
  rlen : Nat
  gen : Nat
  dest : Nat
  ext : List Nat
  csize : Nat
  total : Nat
  bitmap : Nat
  cmap : Nat
  ncontrib : Nat
  win : Nat
  dens : Nat
  dline : Nat
  /-- A reserved field is nonzero. -/
  reserved : Bool
  deriving DecidableEq, Repr

def TDesc.of (w : Nat → Word) : TDesc where
  v := wbit (w 0) 63
  mode := wf (w 0) 62 61
  dupc := wbit (w 0) 60
  etype := wf (w 0) 59 56
  redop := wf (w 0) 55 52
  rport := wf (w 0) 51 46
  rlen := wf (w 0) 45 40
  gen := wf (w 0) 31 0
  dest := wf (w 1) 56 0
  ext := [wf (w 2) 15 0, wf (w 2) 31 16, wf (w 2) 47 32, wf (w 2) 63 48]
  csize := wf (w 3) 63 51
  total := wf (w 3) 40 0
  bitmap := wf (w 4) 56 0
  cmap := wf (w 5) 56 0
  ncontrib := wf (w 6) 63 48
  win := wf (w 6) 47 32
  dens := wf (w 6) 31 0
  dline := wf (w 7) 39 0
  reserved := wf (w 0) 39 32 != 0 || wf (w 1) 63 57 != 0 || wf (w 3) 50 41 != 0 || wf (w 4) 63 57 != 0
    || wf (w 5) 63 57 != 0 || wf (w 7) 63 40 != 0

def Ctx.tdesc (c : Ctx) (t : Nat) : TDesc := TDesc.of (fun i => c.tns.atD (8 * t + i) 0)

/-- The words of descriptor `t`, and the descriptor that words make. -/
def Ctx.tnsWords (c : Ctx) (t : Nat) : List Word := (List.range 8).map (fun i => c.tns.atD (8 * t + i) 0)
def TDesc.ofWords (ws : List Word) : TDesc := TDesc.of (fun i => ws.getD i 0)

/-- The coordinate of linear chunk `k`, as the 64 bits of a header (R306). -/
def TDesc.coordOf (t : TDesc) (k : Nat) : Nat :=
  let e (i : Nat) := t.ext.getD i 1
  k % e 0 + k / e 0 % e 1 * 2 ^ 16 + k / (e 0 * e 1) % e 2 * 2 ^ 32 + k / (e 0 * e 1 * e 2) % e 3 * 2 ^ 48

/-- The number of chunks, n. -/
def TDesc.n (t : TDesc) : Nat := t.ext.foldl (· * ·) 1
def TDesc.chunkLen (t : TDesc) (k : Nat) : Nat := min t.csize (t.total - k * t.csize)
/-- Bytes of a contributor record (R313). -/
def TDesc.recLen (t : TDesc) : Nat := 8 + 8 * ceilDiv t.ncontrib 64
/-- The coordinate's linear chunk number, when it lies inside the shape (R306). -/
def TDesc.chunkOf (t : TDesc) (c : List Nat) : Option Nat :=
  if (c.zip t.ext).all (fun p => decide (p.1 < p.2)) then
    let e (i : Nat) := t.ext.getD i 0
    let x (i : Nat) := c.getD i 0
    some (x 0 + e 0 * (x 1 + e 1 * (x 2 + e 2 * x 3)))
  else none

/-- The basin byte at `va` of context `ctx`: its physical address, when the grant holds it. -/
def State.basinPa (s : State) (ctx va : Nat) : Option Nat :=
  if va < winBasin ∨ winFault ≤ va then none
  else
    let o := va - winBasin
    let d := o / 2 ^ 27
    let c := s.ctxAt ctx
    if o % 2 ^ 27 < c.grantSize d then some (paBasin d + c.grantBase d + o % 2 ^ 27) else none

/-- The `n` bytes from `va` lie within the context's basin grant. -/
def State.inBasin (s : State) (ctx va n : Nat) : Bool :=
  decide (winBasin ≤ va) && decide (va + n ≤ winFault)
  && (let o := va - winBasin
      o / 2 ^ 27 == (o + n - 1) / 2 ^ 27 && decide (o % 2 ^ 27 + n ≤ (s.ctxAt ctx).grantSize (o / 2 ^ 27)))

def State.basinByte (s : State) (ctx va : Nat) : Byte :=
  match s.basinPa ctx va with
  | some pa => s.rawByte pa
  | none => 0

def State.setBasin (s : State) (ctx va : Nat) (b : Byte) : State :=
  match s.basinPa ctx va with
  | some pa => s.setRaw pa b
  | none => s

def State.setBasins (s : State) (ctx va : Nat) : List Byte → State
  | [] => s
  | b :: bs => (s.setBasin ctx va b).setBasins ctx (va + 1) bs

/-- Bit `k` of a bitmap at `va` in basin. -/
def State.basinBit (s : State) (ctx va k : Nat) : Bool := (s.basinByte ctx (va + k / 8)).getLsbD (k % 8)
def State.setBasinBit (s : State) (ctx va k : Nat) : State :=
  s.setBasin ctx (va + k / 8) (s.basinByte ctx (va + k / 8) ||| BitVec.ofNat 8 (2 ^ (k % 8)))

/-- Arrival bit `k` of descriptor `t`. -/
def State.arrived (s : State) (ctx : Nat) (t : TDesc) (k : Nat) : Bool := s.basinBit ctx t.bitmap k
/-- Bytes of an element of type `ty`. -/
def elemSize (ty : Nat) : Nat := tyBits ty / 8

/-- The combinations of Table 2 (R309). -/
def TDesc.redOk (t : TDesc) : Bool :=
  let num := t.etype == tyF32 || t.etype == tyBf16 || t.etype == tyI32 || t.etype == tyI64
  if t.mode = 2 then t.redop == 1 && (t.etype == tyF32 || t.etype == tyBf16) && t.rlen == 0
  else
    match t.redop with
    | 4 => t.etype == tyF32 && decide (2 ≤ t.rlen ∧ t.rlen ≤ 32) && t.csize % (4 * t.rlen) == 0
    | 1 => num && t.rlen == 0
    | 2 => num && t.rlen == 0
    | 3 => num && t.rlen == 0
    | _ => false

/-- The checks that `tns.set` makes on an image (Table 1, R306, R309, R319). -/
def State.tdescOk (s : State) (ctx : Nat) (t : TDesc) : Bool :=
  !t.reserved && decide (t.mode ≠ 3) && t.ext.all (fun e => decide (1 ≤ e)) && decide (t.n ≤ 2 ^ 28)
  && decide (1 ≤ t.csize ∧ t.csize ≤ 4096) && decide ((t.n - 1) * t.csize < t.total ∧ t.total ≤ t.n * t.csize)
  && decide (t.rport ≤ 47) && s.inBasin ctx t.bitmap (ceilDiv t.n 8)
  && (if t.mode = 0 then
        t.etype == 0 && t.redop == 0 && t.rlen == 0 && t.cmap == 0 && t.ncontrib == 0 && t.win == 0
      else
        t.redOk && t.csize % elemSize t.etype == 0 && t.total % elemSize t.etype == 0
        && decide (1 ≤ t.ncontrib ∧ t.ncontrib ≤ 4096) && decide (1 ≤ t.win)
        && s.inBasin ctx t.cmap (t.n * t.recLen))

/-- Staging that a descriptor reserves (R308). -/
def TDesc.reserve (t : TDesc) : Nat :=
  if t.v ∧ t.mode ≠ 0 then t.win * (t.ncontrib * (t.csize + 256) + 64) else 0

/-- Staging bytes of port `p`: 8 MiB of its die's carve-out where firmware has enabled reduction on the port (R308). -/
def State.stagingSize (s : State) (p : Nat) : Nat := if (s.portAt p).reduces then 8 * 2 ^ 20 else 0

/-- The bytes of die `d`'s carve-out that its ports hold as staging, at its top (log entry 50). -/
def State.stagingOf (s : State) (d : Nat) : Nat := (List.range 12).foldl (fun a i => a + s.stagingSize (12 * d + i)) 0

/-- The numbers of a context's listed descriptors. -/
def Ctx.tnsListed (c : Ctx) : List Nat := (c.tns.filter (fun p => p.1 % 8 == 0)).map (fun p => p.1 / 8)

/-- Staging that is reserved at port `p`, but for descriptor `t` of context `ctx`. -/
def State.stagingUsed (s : State) (p ctx t : Nat) : Nat :=
  s.ctxs.foldl (fun a c => c.2.tnsListed.foldl (fun a i =>
    let d := c.2.tdesc i
    if (c.1 = ctx ∧ i = t) ∨ d.rport ≠ p then a else a + d.reserve) a) 0

/-- The number of a chunk of a descriptor in the context's tables. -/
def chunkKey (t k : Nat) : Nat := t * 2 ^ 28 + k

/-- A contribution to descriptor `t`. -/
def isContrib (t : Nat) (k : Packet) : Bool := uAt k.header 4 2 == t && uAt k.header 1 1 != 0

/-- Forget what is staged for descriptor `t`, contributions under way to it included, and which of its chunks are complete
(R319, log entry 49). -/
def Ctx.dropStage (c : Ctx) (t : Nat) : Ctx :=
  { c with
    stage := c.stage.filter (fun p => p.1 / 2 ^ 28 != t)
    finished := c.finished.filter (fun p => p.1 / 2 ^ 28 != t)
    claims := c.claims.filter (fun d => !isContrib t d.packet)
    waiting := c.waiting.filter (fun d => !isContrib t d.2.1) }

/-- Write words into descriptor `t`, from word `i`. -/
def Ctx.setTdesc (c : Ctx) (t i : Nat) : List Word → Ctx
  | [] => c
  | v :: vs => ({ c with tns := c.tns.put (8 * t + i) v 0 } : Ctx).setTdesc t (i + 1) vs

def wordsOf (bs : List Byte) (n : Nat) : List Word := (List.range n).map (fun i => toW (uAt bs (8 * i) 8))

/-- `tns.set` (R319). -/
def execTnsSet (q : Rill) (d a b : Nat) (s : State) : Out :=
  s.apResult q [a, b] d (fun k l =>
    let ga := (l.reg false a).toNat
    let t := (l.reg false b).toNat
    if ga = 0 then
      if 4095 < t then .ok (errW 1, s)
      else
        let c := (s.ctxAt l.ctx).dropStage t
        let w0 := c.tns.atD (8 * t) 0
        .ok (0, s.setCtx l.ctx (c.setTdesc t 0 [setFld w0 63 63 0]))
    else if ga % 64 ≠ 0 then .fault cMisaligned (toW ga) false
    else
      (s.readVa l.ctx k ga 64).map (fun r =>
        let ws := wordsOf r.1 8
        let img := TDesc.ofWords ws
        if 4095 < t ∨ r.2.tdescOk l.ctx img = false then (errW 1, r.2)
        else if img.reserve ≠ 0 ∧ r.2.stagingSize img.rport < r.2.stagingUsed img.rport l.ctx t + img.reserve then (errW 2, r.2)
        else (0, r.2.setCtx l.ctx (((r.2.ctxAt l.ctx).dropStage t).setTdesc t 0 ws))))

/-- An AP instruction that may also wait: `none` stalls it. -/
def State.apWait (s : State) (q : Rill) (srcs : List Nat) (d : Nat) (f : Nat → LCore → Option (Word × State)) : Out :=
  s.onStream fun w =>
    let u := useAp q srcs [d]
    s.issued w u (
      match w with
      | .sluice _ => s
      | .core _ _ k =>
        match f k (s.lcAt k) with
        | some r => r.2.commit w u d r.1 .next
        | none => s.stallOn w .sync)

/-- `tns.wait` (R320). -/
def execTnsWait (q : Rill) (d a : Nat) (s : State) : Out :=
  s.apWait q [a] d (fun _ l =>
    let ga := l.reg false a
    let t := (s.ctxAt l.ctx).tdesc (twDesc ga)
    if twReserved ga ∨ twCount ga = 0 then some (errW 1, s)
    else if t.v = false ∨ t.n < twFirst ga + twCount ga then some (errW 3, s)
    else if (List.range (twCount ga)).all (fun i => s.arrived l.ctx t (twFirst ga + i)) then some (0, s)
    else none)

/-- `tns.bits` (R320). -/
def execTnsBits (q : Rill) (d a b : Nat) (s : State) : Out :=
  s.apResult q [a, b] d (fun _ l =>
    let i := (l.reg false a).toNat
    let gb := l.reg false b
    let k := wf gb 27 0
    let t := (s.ctxAt l.ctx).tdesc i
    if 4095 < i ∨ wf gb 62 28 ≠ 0 then .ok (errW 1, s)
    else if t.v = false then .ok (errW 3, s)
    else if wbit gb 63 = false then
      .ok (toW ((List.range 64).foldl (fun v j =>
        if k + j < t.n ∧ s.arrived l.ctx t (k + j) then v + 2 ^ j else v) 0), s)
    else if t.mode = 0 then .ok (errW 3, s)
    else if t.n ≤ k then .ok (errW 1, s)
    else .ok (toW (ofBytes ((List.range 8).map (fun j => s.basinByte l.ctx (t.cmap + k * t.recLen + j)))), s))

/-- Contributor bit `c` of chunk `k` of descriptor `ti`: the contribution is staged, or the record in basin names it (DEDUCED:
R312 writes the record at completion, R313 makes its bits the duplicate filter; log entry 17). -/
def State.contributed (s : State) (ctx ti k c : Nat) : Bool :=
  let x := s.ctxAt ctx
  let t := x.tdesc ti
  s.basinBit ctx (t.cmap + k * t.recLen + 8) c ||
  (match x.stage.at? (chunkKey ti k) with
    | some st => st.bits.contains c
    | none => false)

/-! ## In-port reduction (R309 to R313) -/

/-- The elements of a dense payload: the value of each run of `n` bytes. -/
def elemsOf (n : Nat) (bs : List Byte) : List Nat := (List.range (bs.length / n)).map (fun i => uAt bs (n * i) n)

/-- The operation of a bank ALU for REDOP 1, 2 or 3. -/
def redAlu (redop : Nat) : AmoOp :=
  match redop with
  | 1 => .add
  | 2 => .min
  | _ => .max

/-- Records of `r` elements. -/
def recordsOf (r : Nat) : Nat → List Nat → List (List Nat)
  | 0, _ => []
  | fuel + 1, xs => if xs.isEmpty then [] else xs.take r :: recordsOf r fuel (xs.drop r)

/-- The value of a node of two dense children (Table 2). -/
def TDesc.joinDense (t : TDesc) (x y : List Nat) : List Nat :=
  if t.redop = 4 then
    ((recordsOf t.rlen x.length x).zip (recordsOf t.rlen y.length y)).flatMap (fun p => combine p.1 p.2)
  else (x.zip y).map (fun p => (redAlu t.redop).apply t.etype p.1 p.2 0)

/-- The pairs of a SPARSE payload (R311): index and value. -/
def TDesc.pairsOf (t : TDesc) (bs : List Byte) : List (Nat × Nat) :=
  let n := 4 + elemSize t.etype
  (List.range (bs.length / n)).map (fun i => (uAt bs (n * i) 4, uAt bs (n * i + 4) (elemSize t.etype)))

/-- The pairs up to the first index that does not ascend. -/
def ascending : List (Nat × Nat) → List (Nat × Nat)
  | [] => []
  | [p] => [p]
  | p :: q :: r => if p.1 < q.1 then p :: ascending (q :: r) else [p]

/-- The indices ascend strictly and lie in the chunk; at least one pair (R311). -/
def TDesc.sparseOk (t : TDesc) (bs : List Byte) : Bool :=
  let n := 4 + elemSize t.etype
  let ps := t.pairsOf bs
  decide (0 < bs.length) && bs.length % n == 0
  && (ps.zip ps.tail).all (fun p => decide (p.1.1 < p.2.1))
  && ps.all (fun p => decide (p.1 < t.csize / elemSize t.etype))

/-- The merge of two index lists: a value on one side keeps its bits, one on both sides is the sum (R311). -/
def TDesc.joinSparse (t : TDesc) (x y : SMap Nat) : SMap Nat :=
  y.foldl (fun m p =>
    match m.at? p.1 with
    | some v => m.ins p.1 (AmoOp.add.apply t.etype v p.2 0)
    | none => m.ins p.1 p.2) x

/-- The number of node `j` of level `h` in a chunk's staging. -/
def nodeKey (h j : Nat) : Nat := 65536 * h + j

/-- A node of the fixed tree (R310), level `h`, index `j`: a staged one as it is, another from its children. -/
def treeNode {α : Type} (staged : Nat → Option α) (join : α → α → α) : Nat → Nat → Option α
  | 0, j => staged j
  | h + 1, j =>
    match staged (nodeKey (h + 1) j) with
    | some x => some x
    | none =>
      match treeNode staged join h (2 * j), treeNode staged join h (2 * j + 1) with
      | some x, some y => some (join x y)
      | some x, none => some x
      | none, y => y

/-- log2 of the smallest power of two that is at least `n`. -/
def treeHeight (n : Nat) : Nat := if n ≤ 1 then 0 else (n - 1).log2 + 1

/-- The identity of Table 2 for an element at place `i` of a record. -/
def TDesc.identity (t : TDesc) (i : Nat) : Nat :=
  let f32 := t.etype == tyF32
  let float := f32 || t.etype == tyBf16
  let inf := if f32 then 0x7F800000 else 0x7F80
  let sign := if f32 then 2 ^ 31 else 2 ^ 15
  match t.redop with
  | 2 => if float then inf else tyPat t.etype (tyMax t.etype)
  | 3 => if float then inf + sign else tyPat t.etype (tyMin t.etype)
  | 4 => if i % t.rlen = 0 then inf + sign else 0
  | _ => 0

/-- The root of chunk `k` from its staged leaves, as bytes (R310 to R312). -/
def TDesc.root (t : TDesc) (k : Nat) (leaves : SMap (List Byte)) : List Byte :=
  let n := elemSize t.etype
  let count := t.chunkLen k / n
  let h := treeHeight t.ncontrib
  let vals : List Nat :=
    if t.mode = 2 then
      match treeNode (fun c => (leaves.at? c).map (fun b => ascending (t.pairsOf b))) t.joinSparse h 0 with
      | some m => (List.range count).map (fun i => SMap.atD m i 0)
      | none => List.replicate count 0
    else
      match treeNode (fun c => (leaves.at? c).map (elemsOf n)) t.joinDense h 0 with
      | some xs => xs
      | none => (List.range count).map t.identity
  vals.flatMap (bytesOf n)

/-- The contributor record of a completed chunk (R313). -/
def TDesc.record (t : TDesc) (early : Bool) (set : List Nat) : List Byte :=
  bytesOf 4 set.length ++ bytesOf 1 (if early then 1 else 0) ++ bytesOf 3 0
  ++ bytesOf (8 * ceilDiv t.ncontrib 64) (set.foldl (fun a c => a + 2 ^ c) 0)

/-- A placement, or a reduction (`red`), may write the run: its page is pinned, and for a reduction NORMAL or basin
(15_sluice.md R273 check 6, 08_memory.md R162). -/
def State.placeable (s : State) (red : Bool) (r : Run) : Bool :=
  match r.place with
  | .phys _ (some at_) => wbit (s.entry at_) 58 && (!red || wf (s.entry at_) 57 56 == 0)
  | .phys _ none => !red || decide (winBasin ≤ r.va)
  | .multicast _ => false

/-- Where a write of `n` bytes at `va` by a port goes, block by block: the runs, or what is wrong at the first failing
address (R273 check 6, R278). -/
def State.placement (s : State) (ctx : Nat) (red : Bool) : Nat → Nat → Nat → Except PlaceErr (List Run)
  | 0, _, _ => .ok []
  | fuel + 1, va, n =>
    if n = 0 then .ok []
    else
      let m := min n (4096 - va % 4096)
      match s.runs ctx (2 ^ 40) .store 2 va m with
      | .fault c a t => .error ⟨if c = cPageFault then cPageFault else cProtection, a.toNat, t⟩
      | .wait _ _ => .error ⟨cPageFault, va, false⟩
      | .ok rs =>
        if rs.all (s.placeable red) then
          match s.placement ctx red fuel (va + m) (n - m) with
          | .ok qs => .ok (rs ++ qs)
          | .error e => .error e
        else .error ⟨cProtection, va, false⟩

/-- The runs of chunk `k` of descriptor `t`. -/
def State.chunkPlace (s : State) (ctx : Nat) (t : TDesc) (k : Nat) : Except PlaceErr (List Run) :=
  s.placement ctx (t.mode != 0) (t.chunkLen k / 4096 + 2) (t.dest + k * t.csize) (t.chunkLen k)

/-- Write a payload at its home. -/
def State.place_ (s : State) (ctx : Nat) (rs : List Run) (bs : List Byte) : State := (s.writeMarks ctx rs).putRuns rs bs

/-- A placement of context `ctx` has failed at port `p` on chunk `k` of descriptor `ti`: REMOTE-FAULT at the port's Sluice
core, and the report to firmware (R278). -/
def State.placeFailed (s : State) (p ctx ti : Nat) (t : TDesc) (k : Nat) (e : PlaceErr) : State :=
  ((s.noteTable ctx e).portEvent p 15 ti e.cause e.addr (t.coordOf k)).report (.remoteFault ctx e.cause (toW e.addr))

/-- What completion of a staged chunk answers (R312): the root, the contributor record and the arrival bit written, or the
write of the root or of the record that fails. -/
def State.completion (s : State) (ctx ti k : Nat) (early : Bool) (st : Stage) : Except PlaceErr State :=
  let t := (s.ctxAt ctx).tdesc ti
  match s.chunkPlace ctx t k with
  | .error e => .error e
  | .ok rs =>
    let rec_ := t.cmap + k * t.recLen
    if s.inBasin ctx rec_ t.recLen = false then .error ⟨cProtection, rec_, false⟩
    else
      let s1 := (s.place_ ctx rs (t.root k st.leaves)).setBasins ctx rec_ (t.record early st.bits)
      let s2 := s1.setBasinBit ctx t.bitmap k
      let c := s2.ctxAt ctx
      .ok (s2.setCtx ctx { c with finished := c.finished.ins (chunkKey ti k) true })

/-- The staging of chunk `k` of descriptor `ti` is released. -/
def State.unstage (s : State) (ctx ti k : Nat) : State :=
  let c := s.ctxAt ctx
  s.setCtx ctx { c with stage := c.stage.del (chunkKey ti k) }

/-- A chunk of descriptor `ti` completes, or is released early (R312); a write that fails is a fatal error of the context. -/
def State.completeChunk (s : State) (ctx ti k : Nat) (early : Bool) (st : Stage) : State :=
  let s1 := s.unstage ctx ti k
  let t := (s.ctxAt ctx).tdesc ti
  match s1.completion ctx ti k early st with
  | .ok s2 => s2
  | .error e => s1.placeFailed t.rport ctx ti t k e

/-- Port `p` can raise an event of its own. -/
def State.portCan (s : State) (p : Nat) : Bool := s.canRaise (p / 3) (srcPort (p % 3))

/-- Completion of the chunk would fail, and its port cannot raise the event now. -/
def State.completionHeld (s : State) (ctx ti k : Nat) (early : Bool) (st : Stage) : Bool :=
  (match s.completion ctx ti k early st with
    | .ok _ => false
    | .error _ => true) && !s.portCan ((s.ctxAt ctx).tdesc ti).rport

/-- DEADLINE_RELEASE (R312). -/
def execDeadlineRelease (ctx tdesc chunk : Nat) (s : State) : Out :=
  let c := s.ctxAt ctx
  let t := c.tdesc tdesc
  match c.stage.at? (chunkKey tdesc chunk) with
  | none => s.nothing
  | some st =>
    if t.dline = 0 ∨ st.elapsed < t.dline ∨ c.frozen ∨ c.failed ∨ s.completionHeld ctx tdesc chunk true st then s.nothing
    else (s.completeChunk ctx tdesc chunk true st).happened

/-! ## The range table (R314, R322) -/

def Ctx.rangeV (c : Ctx) (r : Nat) : Bool := wbit (c.ranges.atD (3 * r) 0) 63

/-- The lowest free entry. -/
def Ctx.freeRange (c : Ctx) : Option Nat := (List.range 64).find? (fun r => !c.rangeV r)

def Ctx.setRange (c : Ctx) (r : Nat) (w0 w1 w2 : Word) : Ctx :=
  { c with ranges := ((c.ranges.put (3 * r) w0 0).put (3 * r + 1) w1 0).put (3 * r + 2) w2 0 }

def execRngSet (q : Rill) (d a b : Nat) (s : State) : Out :=
  s.apResult q [a, b] d (fun _ l =>
    let ga := (l.reg false a).toNat
    let gb := (l.reg false b).toNat
    let c := s.ctxAt l.ctx
    if gb = 0 then
      if 63 < ga then .ok (errW 1, s)
      else if c.rangeV ga = false ∨ wbit (c.ranges.atD (3 * ga) 0) 62 then .ok (errW 3, s)
      else .ok (0, s.setCtx l.ctx (c.setRange ga (setFld (c.ranges.atD (3 * ga) 0) 63 63 0) (c.ranges.atD (3 * ga + 1) 0)
        (c.ranges.atD (3 * ga + 2) 0)))
    else if 2 ^ 40 < gb ∨ 2 ^ 57 ≤ ga then .ok (errW 1, s)
    else
      match c.freeRange with
      | none => .ok (errW 2, s)
      | some r =>
        -- HANDLE keeps what it held: only `coll.start` and THAW change it (Table 3)
        .ok (toW r, s.setCtx l.ctx (c.setRange r (setFld (c.ranges.atD (3 * r) 0) 63 62 2) (toW ga) (toW gb))))

/-! ## Collective records (R315, R316) -/

/-- A field of a record, and a signed one. -/
def cF (r : List Byte) (o n : Nat) : Nat := uAt r o n
def cS (r : List Byte) (o n : Nat) : Int := sextZ (8 * n) (uAt r o n)

def cNlev (r : List Byte) : Nat := cF r 1 1
def cOp (r : List Byte) : Nat := cF r 2 1
def cGate (r : List Byte) : Bool := cF r 4 1 % 2 == 1
def cSelf (r : List Byte) : Bool := cF r 4 1 / 2 % 2 == 1
def cPort (r : List Byte) : Nat := cF r 5 1
def cTsz (r : List Byte) : Nat := cF r 0x0A 2
def cRank (r : List Byte) : Nat := cF r 0x0C 2
def cFlowbase (r : List Byte) : Nat := cF r 0x0E 2
def cCsize (r : List Byte) : Nat := cF r 0x14 2
def cNchunk (r : List Byte) : Nat := cF r 0x16 2
def cTb (r : List Byte) : Nat := cF r 0x18 8
def cAckmap (r : List Byte) : Nat := cF r 0x38 8

/-- Extent of level `i`; levels beyond nlev have extent 1 and no coefficient. -/
def cX (r : List Byte) (i : Nat) : Nat := if i < cNlev r then cF r (0x40 + 16 * i) 2 else 1
/-- Coefficient at offset `o` of level `i`. -/
def cCoef (r : List Byte) (i o n : Nat) : Int := if i < cNlev r then cS r (0x40 + 16 * i + o) n else 0

/-- Walk points of a record. -/
def cPoints (r : List Byte) : Nat := cX r 0 * cX r 1 * cX r 2 * cX r 3
/-- Indices i0 to i3 of walk point `w`, i3 fastest. -/
def cIdx (r : List Byte) (w : Nat) : List Nat :=
  [w / (cX r 1 * cX r 2 * cX r 3), w / (cX r 2 * cX r 3) % cX r 1, w / cX r 3 % cX r 2, w % cX r 3]

/-- The sum of a coefficient's products with the indices of point `w`. -/
def cSum (r : List Byte) (w o n : Nat) : Int :=
  let idx := cIdx r w
  (List.range 4).foldl (fun t i => t + cCoef r i o n * (idx.getD i 0 : Int)) 0

def cPeer (r : List Byte) (w : Nat) : Nat := (((cF r 0x36 2 : Nat) + cSum r w 2 2) % (max 1 (cTsz r) : Nat)).toNat
def cBase (r : List Byte) (w : Nat) : Nat := (ofZ ((cF r 0x20 8 : Nat) + cSum r w 4 4)).toNat
def cC0 (r : List Byte) (w : Nat) : Nat := (((cF r 0x28 2 : Nat) + cSum r w 8 2) % 65536).toNat
def cCtb (r : List Byte) (w : Nat) : Nat := (((cF r 0x34 2 : Nat) + cSum r w 12 2) % 65536).toNat
def cGateChunk (r : List Byte) (w : Nat) : Int := (cF r 0x30 4 : Nat) + cSum r w 10 2

/-- Point `w` emits no transfer. -/
def cSkip (r : List Byte) (w : Nat) : Bool := cSelf r && cPeer r w == cRank r

/-- Transfers that the walk emits. -/
def cTransfers (r : List Byte) : Nat := ((List.range (cPoints r)).filter (fun w => !cSkip r w)).length

/-- REDOP as the Seriz header carries it: 0 for a placement, else a code of Table 1. -/
def redopOk (op redop : Nat) : Bool := if op = 0 then redop == 0 else decide (redop ≤ 4)

/-- The first point from `w` on that emits a transfer, or the number of points. -/
def cNext (r : List Byte) : Nat → Nat → Nat
  | 0, w => w
  | fuel + 1, w => if w < cPoints r ∧ cSkip r w then cNext r fuel (w + 1) else w

/-- Where `n` bits of an acknowledgement bitmap may lie: SRAM, or basin within the grant (15_sluice.md R287). -/
def State.ackmapOk (s : State) (ctx va n : Nat) : Bool :=
  decide (va + ceilDiv n 8 ≤ sramSize) || s.inBasin ctx va (ceilDiv n 8)

/-- The record's fields are within Table 4 (R321). -/
def State.collOk (s : State) (ctx : Nat) (r : List Byte) : Bool :=
  cF r 0 1 == 1 && decide (1 ≤ cNlev r ∧ cNlev r ≤ 4) && decide (cOp r ≤ 2) && redopOk (cOp r) (cF r 3 1)
  && decide (cF r 4 1 < 4) && decide (cPort r ≤ 47) && decide (cF r 6 2 ≤ 4095)
  && (!cGate r || decide (cF r 8 2 ≤ 4095)) && decide (1 ≤ cTsz r ∧ cTsz r ≤ 4096) && decide (cRank r < cTsz r)
  && decide (cFlowbase r + cTsz r ≤ 512) && decide (1 ≤ cCsize r ∧ cCsize r ≤ 4096) && decide (1 ≤ cNchunk r)
  && decide ((cNchunk r - 1) * cCsize r < cTb r ∧ cTb r ≤ cNchunk r * cCsize r)
  && (List.range (cNlev r)).all (fun i => decide (1 ≤ cX r i) && cF r (0x40 + 16 * i + 14) 2 == 0)
  && (let x := s.slAt (cPort r / 3)
      x.bound && x.ctx == ctx)
  && s.ackmapOk ctx (cAckmap r) (cTransfers r * cNchunk r)

/-- The span of source bytes of the transfers that are emitted: lowest address and length. -/
def cSpan (r : List Byte) : Option (Nat × Nat) :=
  let bases := ((List.range (cPoints r)).filter (fun w => !cSkip r w)).map (cBase r)
  match bases with
  | [] => none
  | b :: bs =>
    let lo := bs.foldl min b
    let hi := bs.foldl max b + cTb r
    some (lo, hi - lo)

/-- The lowest free handle. -/
def Ctx.freeHandle (c : Ctx) : Option Nat := (List.range 256).find? (fun h => (c.colls.at? h).isNone)

/-- A collective completes when its walk has ended and its transfers have: range, state, COLL-DONE (R317). -/
def State.collDone (s : State) (ctx h : Nat) : Option State :=
  let c := s.ctxAt ctx
  match c.colls.at? h with
  | none => none
  | some x =>
    let n := cPort x.record / 3
    if x.state ≠ 1 ∨ x.walked < cPoints x.record ∨ x.completed < x.emitted ∨ s.canRaise n srcDist = false then none
    else
      let c1 := match x.range with
        | some r => c.setRange r (setFld (c.ranges.atD (3 * r) 0) 63 63 0) (c.ranges.atD (3 * r + 1) 0) (c.ranges.atD (3 * r + 2) 0)
        | none => c
      let c2 := { c1 with colls := c1.colls.ins h { x with state := if x.bad then 3 else 2 } }
      some ((s.setCtx ctx c2).raiseEv n srcDist 14 0xFF h (x.emitted % 2 ^ 32 + (if x.bad then 2 ^ 63 else 0)) 0 0)

/-- COLL_DONE. -/
def execCollDone (ctx handle : Nat) (s : State) : Out :=
  match s.collDone ctx handle with
  | some s1 => s1.happened
  | none => s.nothing

/-- `coll.start` (R321). -/
def execCollStart (q : Rill) (d a : Nat) (s : State) : Out :=
  s.onStream fun w =>
    let u := useAp q [a] [d]
    s.issued w u (
      match w with
      | .sluice _ => s
      | .core _ _ k =>
        let l := s.lcAt k
        s.afterAcc w 0 (s.readVa l.ctx k (l.reg false a).toNat 128) (fun p =>
          let r := p.1
          let s1 := p.2
          if s1.collOk l.ctx r = false then s1.commit w u d (errW 1) .next
          else
            let c := s1.ctxAt l.ctx
            let n := cPort r / 3
            match c.freeHandle, cSpan r, c.freeRange with
            | none, _, _ => s1.commit w u d (errW 2) .next
            | some _, some _, none => s1.commit w u d (errW 2) .next
            | some h, span, free =>
              if s1.canRaise n srcDist = false then s.stallOn w .sync
              else
                let c1 := match span, free with
                  | some (lo, len), some e => c.setRange e (toW (2 ^ 63 + 2 ^ 62 + h)) (toW lo) (toW len)
                  | _, _ => c
                let x : Coll :=
                  ⟨r, 1, cNext r (cPoints r) 0, 0, 0, 0, false, if span.isSome then free else none, k, l.node, c.collCount⟩
                let s2 := s1.setCtx l.ctx { c1 with colls := c1.colls.ins h x, collCount := c1.collCount + 1 }
                (s2.raiseEv n srcDist 1 0xFF h l.node 0 0).commit w u d (toW h) .next))

/-- `coll.stat` (R321). -/
def execCollStat (q : Rill) (d a : Nat) (s : State) : Out :=
  s.apResult q [a] d (fun _ l =>
    let h := (l.reg false a).toNat
    let c := s.ctxAt l.ctx
    if 255 < h then .ok (errW 1, s)
    else
      match c.colls.at? h with
      | none => .ok (0, s)
      | some x =>
        let v := toW (x.state * 2 ^ 62 + x.completed % 2 ^ 32)
        if x.state = 1 then .ok (v, s) else .ok (v, s.setCtx l.ctx { c with colls := c.colls.del h }))

end Sys2Proof.Machine
end

