-- ==== Sys2Proof/Machine/SluiceOps.lean ====
section
/-! DEFINITION. The Sluice instructions, majors 0x3C to 0x3E (15_sluice.md R286, R287), and what they share with the ports:
headers, transfers and queues of flows. -/

namespace Sys2Proof.Machine

/-! ## Headers (R272, Table 2) -/

/-- A Seriz header. -/
def serizHdr (op ctx tdesc redop flags coord contrib length gen handle chunk arg : Nat) : List Byte :=
  bytesOf 1 1 ++ bytesOf 1 op ++ bytesOf 2 ctx ++ bytesOf 2 tdesc ++ bytesOf 1 redop ++ bytesOf 1 flags ++ bytesOf 8 coord
  ++ bytesOf 2 contrib ++ bytesOf 2 length ++ bytesOf 4 gen ++ bytesOf 2 handle ++ bytesOf 2 chunk ++ bytesOf 4 arg

/-- A control header with operand `arg`. -/
def controlHdr (op ctx flags handle chunk arg : Nat) : List Byte := serizHdr op ctx 0 0 flags 0 0 0 0 handle chunk arg

/-! ## Flows (R275, R276) -/

def Sluice.flowV (x : Sluice) (f : Nat) : Bool := wbit (x.flow f 0) 63
def Sluice.flowHold (x : Sluice) (f : Nat) : Bool := wbit (x.flow f 0) 62
def Sluice.flowPort (x : Sluice) (f : Nat) : Nat := wf (x.flow f 0) 61 60
def Sluice.flowPctx (x : Sluice) (f : Nat) : Nat := wf (x.flow f 0) 59 44
def Sluice.flowSa (x : Sluice) (f : Nat) : Nat := wf (x.flow f 0) 43 32
def Sluice.flowEnt (x : Sluice) (f : Nat) : Nat := wf (x.flow f 0) 31 16
def Sluice.flowRto (x : Sluice) (f : Nat) : Nat := wf (x.flow f 2) 39 0
def Sluice.flowRate (x : Sluice) (f : Nat) : Nat := wf (x.flow f 3) 12 0
def Sluice.flowAddr (x : Sluice) (f : Nat) : Nat := (x.flow f 4).toNat * 2 ^ 64 + (x.flow f 5).toNat
def Sluice.flowDport (x : Sluice) (f : Nat) : Nat := wf (x.flow f 6) 15 0

def Sluice.setHold (x : Sluice) (f : Nat) (h : Bool) : Sluice := x.setFlow f 0 (setFld (x.flow f 0) 62 62 (if h then 1 else 0))

/-- The flows of a Sluice core, 0 to 511, and those whose W0 is listed (every valid one is). -/
def flowNums : List Nat := List.range 512
def Sluice.listed (x : Sluice) : List Nat := (x.flows.filter (fun p => p.1 % 8 == 0)).map (fun p => p.1 / 8)

def OutPkt.isRtx (p : OutPkt) : Bool :=
  match p with
  | .chunk _ _ r => r
  | .control _ => false

/-- Queue packets on a flow: a retransmission goes ahead of any new packet (R276). -/
def Sluice.queueOn (x : Sluice) (f : Nat) (ps : List OutPkt) : Sluice :=
  let st := x.fst f
  let rtx := st.queue.takeWhile OutPkt.isRtx
  let rest := st.queue.drop rtx.length
  x.setFst f { st with queue := rtx ++ ps.filter OutPkt.isRtx ++ rest ++ ps.filter (fun p => !p.isRtx) }

/-! ## Sending on a security association (R271) -/

/-- Bytes that a packet of `n` bytes after its transport headers takes from a bucket: its frame and 20 bytes (R276). -/
def frameSize (n : Nat) : Nat := min 224 Config.frameOverhead + n + 20

/-- The same of a packet with a Seriz header and `n` payload bytes. -/
def wireSize (n : Nat) : Nat := frameSize (32 + n)

/-- The limit of a transmit counter (R271). -/
def saLimit : Nat := 2 ^ 64 - 2 ^ 32

/-- Hold every flow that names SA `a`. -/
def Sluice.exhaust (x : Sluice) (a : Nat) : Sluice :=
  (flowNums.filter (fun f => x.flowSa f == a)).foldl (fun x f => (x.setHold f true).setFst f { x.fst f with exhausted := true }) x

/-- The next counter value of SA `a`, and the core after it; none when the core has no such SA or it is exhausted. -/
def Sluice.takeCounter (x : Sluice) (a : Nat) : Option (Nat × Sluice) :=
  match x.sas.at? a with
  | none => none
  | some k =>
    if saLimit ≤ k.counter then none
    else
      let y := { x with sas := x.sas.ins a { k with counter := k.counter + 1 } }
      some (k.counter, if k.counter + 1 = saLimit then y.exhaust a else y)

/-- Port `p` sends one packet of `b` bytes with a fresh counter value of SA `a` of Sluice core `n`: every transmission does. -/
def State.transmit (s : State) (n p a b : Nat) (mk : Nat → Sent) : Option State :=
  match (s.slAt n).takeCounter a with
  | none => none
  | some (c, x) =>
    let s1 := s.setSl n x
    let s2 := s1.setPort p { s1.portAt p with sent := (s1.portAt p).sent + (b - 20) }
    some { s2 with sent := s2.sent ++ [mk c] }

/-- The lowest flow that goes out at local port `i` to the peer of a connection. -/
def Sluice.flowFor (x : Sluice) (i : Nat) (c : Conn) : Option Nat :=
  flowNums.find? (fun f => x.flowPort f == i && x.flowAddr f == c.addr && x.flowDport f == c.udp && x.flowPctx f == c.ctx)

/-- Port `p` answers the peer of connection `c` with a control packet. It goes out on a flow, as every packet does (R275): the
lowest that names the peer; where no flow does, it leaves at once through the connection (DEDUCED: log entry 46). -/
def State.reply (s : State) (p : Nat) (c : Conn) (hdr : List Byte) : State :=
  match (s.slAt (p / 3)).flowFor (p % 3) c with
  | some f => s.setSl (p / 3) ((s.slAt (p / 3)).queueOn f [.control hdr])
  | none => (s.transmit (p / 3) p c.sa (wireSize 0) (fun k => .reply p c.addr c.udp c.sa k hdr)).getD s

/-! ## Transfers (R286, R287) -/

def Transfer.n (t : Transfer) : Nat := uAt t.desc 0x24 2
def Transfer.csize (t : Transfer) : Nat := uAt t.desc 0x1E 2
def Transfer.total (t : Transfer) : Nat := uAt t.desc 8 8
def Transfer.chunk (t : Transfer) (k : Nat) : Chunk := t.chunks.atD k Chunk.fresh
def Transfer.setChunk (t : Transfer) (k : Nat) (c : Chunk) : Transfer := { t with chunks := t.chunks.put k c Chunk.fresh }
def Transfer.len (t : Transfer) (k : Nat) : Nat := min t.csize (t.total - k * t.csize)
def Transfer.allAcked (t : Transfer) : Bool := (List.range t.n).all (fun k => (t.chunk k).acked)

/-- The lowest free handle after the one last allocated. -/
def Sluice.freeHandle (x : Sluice) : Option Nat :=
  ((List.range 4096).map (fun i => (x.lastHandle + 1 + i) % 4096)).find? (fun h => (x.transfers.at? h).isNone)

/-- Allocate handle `h` for a transfer and queue its chunks; gated ones wait. -/
def Sluice.startTransfer (x : Sluice) (h : Nat) (desc : List Byte) (f : Nat) (coll : Option Nat) (gate : Option (Nat × Int))
    (ackBit : Nat) : Sluice :=
  let n := uAt desc 0x24 2
  let chunks : SMap Chunk := match gate with
    | none => []
    | some _ => (List.range n).map (fun k => (k, { Chunk.fresh with gated := true }))
  let t : Transfer := ⟨desc, f, 1, chunks, coll, gate, ackBit, x.xferCount⟩
  let x1 := { x with transfers := x.transfers.ins h t, lastHandle := h, xferCount := x.xferCount + 1 }
  match gate with
  | some _ => x1
  | none => x1.queueOn f ((List.range n).map (fun k => OutPkt.chunk h k false))

/-- Transfer `h` of Sluice core `n` completes: the collective that it belongs to counts it; XFER-DONE is raised, for a
collective's transfer only when it failed (R287, R316). The handle is freed when XFER-DONE enters the queue, that of a
collective's transfer now. -/
def State.finishTransfer (s : State) (n h : Nat) (failed : Bool) : State :=
  let x := s.slAt n
  match x.transfers.at? h with
  | none => s
  | some t =>
    let st := x.flowSt.mapV (fun (f : FlowSt) => { f with queue := f.queue.filter (fun p =>
      match p with
      | .chunk h' _ _ => h' != h
      | .control _ => true) })
    let x1 := { x with flowSt := st, transfers := x.transfers.ins h { t with state := if failed then 3 else 2 } }
    let done (s : State) : State :=
      let p := x.flowPort t.flow
      s.raiseEv n (srcPort p) 2 (3 * n + p) h (t.n + (if failed then 2 ^ 63 else 0)) t.flow 0
    match t.coll with
    | none => done (s.setSl n x1)
    | some ch =>
      let s1 := s.setSl n { x1 with transfers := x1.transfers.del h }
      let c := s1.ctxAt x.ctx
      let s2 := match c.colls.at? ch with
        | some r => s1.setCtx x.ctx { c with colls := c.colls.ins ch { r with completed := r.completed + 1, bad := r.bad || failed } }
        | none => s1
      if failed then done s2 else s2

/-! ## The instructions -/

def useSl (srcs dsts : List Nat) : Use := ⟨Rill.none, false, false, false, true, srcs, dsts, false, 1⟩

/-- What a Sluice instruction ends in. -/
inductive SlRes where
  | ok (v : Word) (s : State)
  | wait
  | fault (cause : Nat) (addr : Word)

/-- A Sluice instruction: gd from ga and gb. -/
def execSl (d a b : Nat) (f : State → Nat → Sluice → Nat → Nat → SlRes) (s : State) : Out :=
  s.onStream fun w =>
    let u := useSl [a, b] [d]
    s.issued w u (
      match w with
      | .core _ _ _ => s.illegal w 1
      | .sluice n =>
        let x := s.slAt n
        match f s n x (x.reg a).toNat (x.reg b).toNat with
        | .ok v s1 => s1.commit w u d v .next
        | .wait => s.stallOn w .other
        | .fault c ad => s.raise w 1 c ad)

def SlRes.err (s : State) (n : Nat) : SlRes := .ok (errW n) s

/-- The SRAM address `va` of an operand of `n` bytes. -/
def slSram (va n : Nat) (f : SlRes) : SlRes :=
  if va % n ≠ 0 then .fault cMisaligned (toW va)
  else if sramSize < va + n then .fault cProtection (toW va)
  else f

/-- A record as 32 bytes. -/
def evBytes (r : List Word) : List Byte := r.flatMap (fun w => bytesOf 8 w.toNat)

def execEvPop (d a : Nat) (s : State) : Out :=
  execSl d a 0 (fun s n x ga _ => slSram ga 32 (
    match x.evq with
    | [] => .wait
    | r :: rest => .ok (toW (evType r)) (s.setSl n ({ x with evq := rest }.setSram ga (evBytes r))))) s

def execEvPeek (d a : Nat) (s : State) : Out :=
  execSl d a 0 (fun s n x ga _ => slSram ga 32 (
    match x.evq with
    | [] => .ok 0 s
    | r :: _ => .ok (toW (evType r)) (s.setSl n (x.setSram ga (evBytes r))))) s

/-- A send descriptor's fields are in order (Table 9); a redop that does not fit is the receiver's to reject
(17_collectives.md R309). -/
def State.sendOk (s : State) (ctx : Nat) (b : List Byte) : Bool :=
  let n := uAt b 0x24 2
  let cs := uAt b 0x1E 2
  decide (1 ≤ n) && decide (1 ≤ cs ∧ cs ≤ 4096) && n == ceilDiv (uAt b 8 8) cs && decide (uAt b 0x18 2 < 4096)
  && decide (uAt b 0x1A 1 ≤ 2) && uAt b 0x26 2 == 0 && uAt b 0x30 16 == 0
  && s.ackmapOk ctx (uAt b 0x28 8) n

def execPktSend (d a b : Nat) (s : State) : Out :=
  execSl d a b (fun s n x ga gb => slSram ga 64 (
    let desc := x.sramBytes ga 64
    if 511 < gb ∨ s.sendOk x.ctx desc = false then .err s 1
    else if x.flowV gb = false then .err s 3
    else
      match x.freeHandle with
      | none => .err s 2
      | some h => .ok (toW h) (s.setSl n (x.startTransfer h (desc.take 48) gb none none 0)))) s

def execPktResend (d a b : Nat) (s : State) : Out :=
  execSl d a b (fun s n x ga gb =>
    if 2 ^ 32 ≤ gb then .err s 1
    else
      match x.transfers.at? ga with
      | none => .err s 4
      | some t =>
        let first := gb % 65536
        let count := max 1 (gb / 65536)
        let ks := ((List.range count).map (first + ·)).filter (fun k =>
          decide (k < t.n) && !(t.chunk k).acked && !(t.chunk k).gated)
        .ok (toW ks.length) (s.setSl n (x.queueOn t.flow (ks.map (fun k => OutPkt.chunk ga k true))))) s

def execChkReq (d a b : Nat) (s : State) : Out :=
  execSl d a b (fun s n x ga gb => slSram ga 32 (
    let w := wordsOf (x.sramBytes ga 32) 4
    let port := wf (w.getD 0 0) 15 8
    let idx := wf (w.getD 2 0) 11 0
    if gb = 0 ∨ 65535 < gb ∨ wf (w.getD 0 0) 7 0 ≠ 4 ∨ port / 3 ≠ n then .err s 1
    else
      match (s.portAt port).conns.at? idx with
      | none => .err s 1
      | some c => .ok 0 (s.reply port c (controlHdr 3 c.ctx 0 (wf (w.getD 1 0) 47 32) (wf (w.getD 1 0) 15 0) gb)))) s

/-- A flow operand: −1 out of range, −3 invalid. -/
def slFlow (s : State) (x : Sluice) (f : Nat) (bad : Bool) (r : SlRes) : SlRes :=
  if 511 < f ∨ bad then .err s 1 else if x.flowV f = false then .err s 3 else r

def execPauseSnd (d a b : Nat) (s : State) : Out :=
  execSl d a b (fun s n x ga gb => slFlow s x ga (decide (1 < gb)) (
    .ok 0 (s.setSl n (x.queueOn ga [.control (controlHdr (4 + gb) (x.flowPctx ga) 0 0 0 0)])))) s

/-- `coll.step`: lets the walker of a running record that this core serves emit gb more transfers. -/
def execCollStep (d a b : Nat) (s : State) : Out :=
  execSl d a b (fun s n x ga gb =>
    if 65535 < gb then .err s 1
    else
      let c := s.ctxAt x.ctx
      match c.colls.at? ga with
      | none => .err s 4
      | some r =>
        if x.bound = false ∨ r.state ≠ 1 ∨ cPort r.record / 3 ≠ n then .err s 4
        else .ok (toW r.emitted) (s.setCtx x.ctx { c with colls := c.colls.ins ga { r with budget := r.budget + gb } })) s

/-- Packets sent on port `p` of the core and not acknowledged. -/
def Sluice.unacked (x : Sluice) (p : Nat) : Nat :=
  x.transfers.foldl (fun a t =>
    if x.flowPort t.2.flow = p then a + (t.2.chunks.filter (fun c => c.2.sent.isSome && !c.2.acked)).length else a) 0

/-- Port status word (Table 8, selector 0). -/
def State.portStatus (s : State) (p : Nat) : Nat :=
  let x := s.portAt p
  bit x.up 0 + bit x.slow 1 + bit (s.fencedPorts.contains p) 2

def execPortSt (d a b : Nat) (s : State) : Out :=
  execSl d a b (fun s n x ga gb =>
    if 2 < ga ∨ 3 < gb then .err s 1
    else
      let p := 3 * n + ga
      .ok (toW (match gb with
        | 0 => s.portStatus p
        | 1 => x.unacked ga
        | 2 => (s.portAt p).sent
        | _ => (s.portAt p).received)) s) s

/-! ### Bitmaps -/

/-- The byte of a bitmap at Sluice address `va`: SRAM or basin (R286). -/
def State.bmpByte (s : State) (n va : Nat) : Acc Byte :=
  (s.slPlace n va 1).bind (fun p =>
    match p with
    | .flow _ => .fault cProtection (toW va) false
    | .sram o => .ok ((s.slAt n).sram.atD o 0)
    | .basin pa => .ok (s.rawByte pa))

def State.setBmp (s : State) (n va : Nat) (b : Byte) : State :=
  match s.slPlace n va 1 with
  | .ok (.sram o) => s.setSl n ((s.slAt n).setSram o [b])
  | .ok (.basin pa) => s.setRaw pa b
  | _ => s

/-- A `bmp` instruction on one bit: the byte after the operation. -/
def execBmp (f : Byte → Nat → Byte) (d a b : Nat) (s : State) : Out :=
  execSl d a b (fun s n _ ga gb =>
    if 2 ^ 32 ≤ gb then .err s 1
    else
      let va := (ga + gb / 8) % 2 ^ 64
      match s.bmpByte n va with
      | .ok v => .ok (if v.getLsbD (gb % 8) then 1 else 0) (s.setBmp n va (f v (gb % 8)))
      | .fault c ad _ => .fault c ad
      | .wait _ _ => .wait) s

def execBmpSet (d a b : Nat) (s : State) : Out := execBmp (fun v i => v ||| BitVec.ofNat 8 (2 ^ i)) d a b s
def execBmpClr (d a b : Nat) (s : State) : Out := execBmp (fun v i => v &&& ~~~ BitVec.ofNat 8 (2 ^ i)) d a b s
def execBmpTest (d a b : Nat) (s : State) : Out := execBmp (fun v _ => v) d a b s

/-- The first clear bit from `i`, among `n` bits. -/
def State.bmpScan (s : State) (core ga : Nat) : Nat → Nat → SlRes
  | 0, i => .ok (toW i) s
  | n + 1, i =>
    match s.bmpByte core ((ga + i / 8) % 2 ^ 64) with
    | .ok v => if v.getLsbD (i % 8) then s.bmpScan core ga n (i + 1) else .ok (toW i) s
    | .fault c ad _ => .fault c ad
    | .wait _ _ => .wait

def execBmpScan (d a b : Nat) (s : State) : Out :=
  execSl d a b (fun s n _ ga gb =>
    let first := gb % 2 ^ 32
    let last := gb / 2 ^ 32
    if last ≤ first then .ok (toW last) s else s.bmpScan n ga (last - first) first) s

/-! ### Timers -/

def execTmrSet (d a b : Nat) (s : State) : Out :=
  execSl d a b (fun s n x ga gb =>
    if 255 < ga ∨ gb % 2 ^ 40 = 0 then .err s 1
    else .ok (if (x.timers.at? ga).isSome then 1 else 0)
      (s.setSl n { x with timers := x.timers.ins ga (gb % 2 ^ 40, gb / 2 ^ 40) })) s

def execTmrClr (d a : Nat) (s : State) : Out :=
  execSl d a 0 (fun s n x ga _ =>
    if 255 < ga then .err s 1
    else .ok (if (x.timers.at? ga).isSome then 1 else 0) (s.setSl n { x with timers := x.timers.del ga })) s

/-! ### Rates, paths, timeouts -/

/-- Write a field of a flow entry and return the old value. -/
def execFlowField (w hi lo limit : Nat) (d a b : Nat) (s : State) : Out :=
  execSl d a b (fun s n x ga gb => slFlow s x ga (decide (limit < gb)) (
    .ok (toW (wf (x.flow ga w) hi lo)) (s.setSl n (x.setFlow ga w (setFld (x.flow ga w) hi lo gb))))) s

def execRateSet (d a b : Nat) (s : State) : Out := execFlowField 3 12 0 8000 d a b s
def execPathSet (d a b : Nat) (s : State) : Out := execFlowField 1 63 0 (2 ^ 64 - 1) d a b s
def execRtoSet (d a b : Nat) (s : State) : Out := execFlowField 2 39 0 (2 ^ 40 - 1) d a b s

/-! ### Weir (R277) -/

def execWeirTake (d a b : Nat) (s : State) : Out :=
  execSl d a b (fun s n x ga gb => slFlow s x ga (decide (gb = 0 ∨ 2 ^ 40 < gb)) (
    .ok 0 (s.setSl n (x.queueOn ga [.control (controlHdr 6 (x.flowPctx ga) 0 0 0 (ceilDiv gb 4096))])))) s

def execWeirDone (d a b : Nat) (s : State) : Out :=
  execSl d a b (fun s n x ga gb => slFlow s x ga (decide (2 ^ 32 ≤ gb)) (
    .ok 0 (s.setSl n (x.queueOn ga [.control (controlHdr 9 (x.flowPctx ga) 0 0 0 gb)])))) s

/-- Call `k` tickets of port `p`, in order: each holder is sent a CALL. -/
def State.callTickets (s : State) (p : Nat) : Nat → State
  | 0 => s
  | k + 1 =>
    let x := s.portAt p
    let t := x.called
    let s1 := match x.holders[sub32 t x.base]? with
      | some h => s.reply p h.holder (controlHdr 8 h.holder.ctx 0 0 0 t)
      | none => s
    (s1.setPort p { s1.portAt p with called := (t + 1) % 2 ^ 32 }).callTickets p k

/-- `weir.call`: calls every issued ticket up to gb. -/
def execWeirCall (d a b : Nat) (s : State) : Out :=
  execSl d a b (fun s n _ ga gb =>
    if 2 < ga ∨ 2 ^ 32 ≤ gb then .err s 1
    else
      let p := 3 * n + ga
      let x := s.portAt p
      let ahead := sub32 gb x.called
      let k := if ahead < 2 ^ 31 then min (ahead + 1) (sub32 x.next x.called) else 0
      .ok (toW k) (s.callTickets p k)) s

end Sys2Proof.Machine
end

