-- ==== Sys2Proof/Machine/Ports.lean ====
section
/-! DEFINITION. What happens at the ports: packets that arrive, acknowledgements, transmission, timeouts, timers, links,
walkers (15_sluice.md R269 to R279, R284 to R287; 17_collectives.md R308 to R317). -/

namespace Sys2Proof.Machine

/-! ## Counters of a port (19_counters.md Table 5) -/

def satInc (v : Word) : Word := if v = BitVec.allOnes 64 then v else v + 1

def State.countDrop (s : State) (p : Nat) : State := s.setPort p { s.portAt p with drop := satInc (s.portAt p).drop }
def State.countReject (s : State) (p : Nat) : State := s.setPort p { s.portAt p with reject := satInc (s.portAt p).reject }
def State.countDup (s : State) (p : Nat) : State := s.setPort p { s.portAt p with dup := satInc (s.portAt p).dup }
def State.countLate (s : State) (p : Nat) : State := s.setPort p { s.portAt p with late := satInc (s.portAt p).late }

/-- A port that can raise its event does `f`; otherwise the packet is dropped and counted (R284). -/
def State.ifEvent (s : State) (p : Nat) (f : State) : State := if s.portCan p then f else s.countDrop p

/-! ## Headers of arriving packets -/

end Sys2Proof.Machine

namespace Sys2Proof
open Sys2Proof.Machine

def Packet.f (p : Packet) (o n : Nat) : Nat := uAt p.header o n
def Packet.op (p : Packet) : Nat := p.f 1 1
def Packet.context (p : Packet) : Nat := p.f 2 2
def Packet.tdesc (p : Packet) : Nat := p.f 4 2
def Packet.redop (p : Packet) : Nat := p.f 6 1
def Packet.flags (p : Packet) : Nat := p.f 7 1
def Packet.coord (p : Packet) : Nat := p.f 8 8
def Packet.coords (p : Packet) : List Nat := (List.range 4).map (fun i => p.f (8 + 2 * i) 2)
def Packet.contrib (p : Packet) : Nat := p.f 0x10 2
def Packet.length (p : Packet) : Nat := p.f 0x12 2
def Packet.gen (p : Packet) : Nat := p.f 0x14 4
def Packet.handle (p : Packet) : Nat := p.f 0x18 2
def Packet.chunk (p : Packet) : Nat := p.f 0x1A 2
def Packet.arg (p : Packet) : Nat := p.f 0x1C 4
/-- The sender, as a connection whose last packet came at `now`. -/
def Packet.peer (p : Packet) (now : Nat) : Conn := ⟨p.addr, p.udp, p.ctx, p.sa, now⟩

/-- The header keeps R272: version, op, reserved fields, and the payload it announces (a trimmed packet has lost its own). -/
def Packet.headerOk (p : Packet) : Bool :=
  p.header.length == 32 && p.f 0 1 == 1 && decide (p.op ≤ 11) && decide (p.tdesc < 4096)
  && decide (p.flags < (if p.op = 7 then 4 else 2)) && (decide (p.op ≤ 2) || p.length == 0)
  && (p.trimmed || p.payload.length == p.length) && (2 < p.op || decide (1 ≤ p.length ∧ p.length ≤ 4096))

end Sys2Proof

namespace Sys2Proof.Machine

/-- The counter value is in the window or below it (R271). -/
def Assoc.replayed (a : Assoc) (c : Nat) : Bool :=
  a.seen.contains c || (decide (2048 ≤ a.seen.length) && a.seen.all (fun v => decide (c < v)))

def insertDesc (c : Nat) : List Nat → List Nat
  | [] => [c]
  | v :: vs => if v < c then c :: v :: vs else v :: insertDesc c vs

def Assoc.accept (a : Assoc) (c : Nat) : Assoc := { a with seen := (insertDesc c a.seen).take 2048 }

/-- What the transport makes of an arriving packet (checks R270 to R273): dropped, or accepted with its window and its
connection brought up to date. -/
def State.receive (s : State) (p : Nat) (k : Packet) (f : State → State) : State :=
  let x := s.portAt p
  let sl := s.slAt (p / 3)
  if x.up = false ∨ s.fencedPorts.contains p then s
  else
    let s1 := s.setPort p { x with received := x.received + k.size }
    if k.supported = false then s1.countDrop p
    else
      let sec (why : Nat) : State :=
        if sl.canTake (srcPort (p % 3)) (evRecord 16 p why 1 k.sa 0 s.cycle) then s1.portEvent p 16 why 1 k.sa 0
        else s1.countDrop p
      match sl.sas.at? k.sa with
      | none => sec 1
      | some a =>
        if k.authentic = false then sec 1
        else if a.replayed k.counter then sec 2
        else
          let s2 := s1.setSl (p / 3) { sl with sas := sl.sas.ins k.sa (a.accept k.counter) }
          if k.headerOk = false then s2.countDrop p else f s2

/-- The connection of a packet is open, from now. -/
def State.touchConn (s : State) (p : Nat) (k : Packet) : State :=
  let x := s.portAt p
  s.setPort p { x with conns := x.conns.ins k.conn (k.peer s.slTicks) }

/-- Port `p` acknowledges a packet that arrived at port `via`, under the SA that it came on (R271, R274): an acknowledgement
has no Seriz header and leaves on no flow (DEDUCED: log entry 46). -/
def State.sendAck (s : State) (p via : Nat) (k : Packet) : State :=
  (s.transmit (via / 3) p k.sa (frameSize 0) (fun c => Sent.ack p via k.conn k.sa c k.handle k.chunk)).getD s

/-- The port that handles packet `k` from check 5 on: a contribution passes from port `a` to its descriptor's RPORT (R308). -/
def TDesc.homePort (t : TDesc) (a : Nat) (k : Packet) : Nat := if k.op = 0 then a else t.rport

/-! ## Data packets (R273, Table 3) -/

/-- Two packets claim the same chunk of the same descriptor, and for a reduction the same contributor. -/
def sameClaim (a b : Packet) : Bool :=
  a.context == b.context && a.tdesc == b.tdesc && a.coord == b.coord && (a.op == 0 || a.contrib == b.contrib)

/-- Check 6 has failed for packet `k` at port `p`: FAULT to the sender, REMOTE-FAULT here (R278). -/
def State.placeRefused (s : State) (p a : Nat) (k : Packet) (t : TDesc) (c : Nat) (e : PlaceErr) : State :=
  s.ifEvent p (
    let hdr := serizHdr 10 k.ctx k.tdesc 0 0 k.coord 0 0 0 k.handle k.chunk e.cause
    (s.reply a (k.peer s.slTicks) hdr).placeFailed p k.context k.tdesc t c e)

/-- Checks 6 and 7 of a placement: payload at its home, then the bit, then the acknowledgement. -/
def State.placeChunk (s : State) (a : Nat) (k : Packet) (t : TDesc) (c : Nat) : State :=
  match s.chunkPlace k.context t c with
  | .ok rs => ((s.place_ k.context rs k.payload).setBasinBit k.context t.bitmap c).sendAck a a k
  | .error e => s.placeRefused a a k t c e

/-- A number among rising ones. -/
def insertAsc (c : Nat) : List Nat → List Nat
  | [] => [c]
  | v :: vs => if c < v then c :: v :: vs else if c = v then v :: vs else v :: insertAsc c vs

/-- The staging of a chunk once contribution `c` with payload `bs` is staged. -/
def Stage.add (st : Stage) (c : Nat) (bs : List Byte) : Stage :=
  { st with bits := insertAsc c st.bits, leaves := st.leaves.ins c bs }

/-- A contribution is staged; with all contributors present the chunk completes (R308, R312). A packet whose chunk's
completion would have to raise an event that the port cannot raise is dropped and counted (R284). -/
def State.stageChunk (s : State) (a : Nat) (k : Packet) (t : TDesc) (c : Nat) : State :=
  let x := s.ctxAt k.context
  let key := chunkKey k.tdesc c
  let st := ((x.stage.at? key).getD ⟨0, [], []⟩).add k.contrib k.payload
  let full := st.bits.length == t.ncontrib
  if full && s.completionHeld k.context k.tdesc c false st then s.countDrop t.rport
  else
    let s1 := (s.setCtx k.context { x with stage := x.stage.ins key st }).sendAck t.rport a k
    if full then s1.completeChunk k.context k.tdesc c false st else s1

/-- The chunks of descriptor `ti` that are in flight, contributions under way to staging included (R308). -/
def Ctx.inFlight (c : Ctx) (ti : Nat) : List Nat :=
  ((c.stage.keys.filter (fun q => q / 2 ^ 28 == ti))
    ++ (c.claims.filter (fun d => isContrib ti d.packet)).map (fun d => chunkKey ti d.chunk)).eraseDups

/-- Checks 5 to 7 for a packet that arrived at port `a` and passed check 4 against the descriptor of words `ws`. -/
def State.claimChunk (s : State) (a : Nat) (k : Packet) (ws : List Word) (c : Nat) : State :=
  let t := TDesc.ofWords ws
  let p := t.homePort a k
  let x := s.ctxAt k.context
  let red := k.op != 0
  let key := chunkKey k.tdesc c
  if x.claims.any (fun d => sameClaim d.packet k) then s.setCtx k.context { x with waiting := x.waiting ++ [(a, k, ws)] }
  else if red && s.arrived k.context t c && (x.finished.at? key).isSome then (s.countLate p).sendAck p a k
  else if s.arrived k.context t c || (red && s.contributed k.context k.tdesc c k.contrib) then
    let s1 := (s.countDup p).sendAck p a k
    if t.dupc then s.ifEvent p (s1.portEvent p 7 k.tdesc (c + k.contrib * 2 ^ 32) 0 k.coord) else s1
  else if red && !(x.inFlight k.tdesc).contains key && decide (t.win ≤ (x.inFlight k.tdesc).length) then s.countDrop p
  else
    match s.chunkPlace k.context t c with
    | .error e => s.placeRefused p a k t c e
    | .ok _ =>
      if k.delay ≠ 0 then s.setCtx k.context { x with claims := x.claims ++ [⟨a, k, c, ws, s.ticks + k.delay⟩] }
      else if red then s.stageChunk a k t c
      else s.placeChunk a k t c

/-- A claimed chunk's payload is written; a contribution, which may find its chunk completed meanwhile, is checked again. -/
def State.landClaim (s : State) (d : Claim) : State :=
  if d.packet.op = 0 then s.placeChunk d.port d.packet (TDesc.ofWords d.tns) d.chunk
  else s.claimChunk d.port { d.packet with delay := 0 } d.tns d.chunk

/-- Land the claims that are due (R273). -/
def State.landClaims (s : State) : State :=
  s.ctxs.keys.foldl (fun s ctx =>
    let x := s.ctxAt ctx
    let due := x.claims.filter (fun d => decide (d.due ≤ s.ticks))
    if due = [] then s
    else due.foldl State.landClaim (s.setCtx ctx { x with claims := x.claims.filter (fun d => decide (s.ticks < d.due)) })) s

end Sys2Proof.Machine

namespace Sys2Proof
open Sys2Proof.Machine

/-- The code of check 4's failure: descriptor, coordinate, length, generation (R273, R309, R311). -/
def Packet.rejectCode (k : Packet) (t : TDesc) : Option Nat :=
  if t.v = false ∨ k.op ≠ t.mode ∨ k.redop ≠ (if k.op = 0 then 0 else t.redop) then some 1
  else
    match t.chunkOf k.coords with
    | none => some 2
    | some c =>
      if k.op ≠ 0 ∧ t.ncontrib ≤ k.contrib then some 2
      else if (if k.op = 2 then !t.sparseOk k.payload else k.length != t.chunkLen c) then some 3
      else if k.gen ≠ t.gen then some 4
      else none

end Sys2Proof

namespace Sys2Proof.Machine

/-- FABRIC_DATA_ARRIVAL (R273). -/
def execFabricDataArrival (port : Nat) (p : Packet) (s : State) : Out :=
  -- the other control packets have events of their own; an op above 11 is dropped and counted (R272)
  if 48 ≤ port ∨ (2 < p.op ∧ p.op ≤ 11) then s.nothing
  else
    (s.receive port p (fun s0 =>
      let s1 := s0.touchConn port p
      let x := s1.slAt (port / 3)
      if p.trimmed then
        s0.ifEvent port (s1.portEvent port 4 p.tdesc (p.chunk + 2 ^ 16 + p.handle * 2 ^ 32) p.conn p.coord)
      else
        let c := s1.ctxAt p.context
        if x.bound = false ∨ x.ctx ≠ p.context ∨ c.frozen ∨ c.failed
            ∨ (match c.freeze with
              | some z => z.drained
              | none => false) = true then s1.countDrop port
        else
          let t := c.tdesc p.tdesc
          match p.rejectCode t with
          | some code =>
            s1.ifEvent port (((s1.countReject port).sendAck port port p).portEvent port 19 p.tdesc code 0 p.coord)
          | none =>
            match t.chunkOf p.coords with
            | none => s1
            | some k => s1.claimChunk port p (c.tnsWords p.tdesc) k)).happened

/-- CLAIM_WAIT_END: waiting packet `n` of a context repeats check 5, once its chunk is no longer claimed. -/
def execClaimWaitEnd (ctx n : Nat) (s : State) : Out :=
  let x := s.ctxAt ctx
  match x.waiting[n]? with
  | none => s.nothing
  | some (p, k, ws) =>
    if x.claims.any (fun d => sameClaim d.packet k) then s.nothing
    else
      match (TDesc.ofWords ws).chunkOf k.coords with
      | none => s.nothing
      | some c => ((s.setCtx ctx { x with waiting := x.waiting.eraseIdx n }).claimChunk p k ws c).happened

/-! ## Acknowledgements (R274, R287) -/

/-- Set bit `i` of the acknowledgement bitmap at Sluice address `va`. -/
def State.setAck (s : State) (n va i : Nat) : State :=
  match s.bmpByte n (va + i / 8) with
  | .ok b => s.setBmp n (va + i / 8) (b ||| BitVec.ofNat 8 (2 ^ (i % 8)))
  | _ => s

/-- ACK_ARRIVAL: an acknowledgement of a chunk that awaits one sets its bit; the last one completes the transfer; a mark is
reported. Any other acknowledgement is discarded. One that would have to raise an event that the port cannot raise is dropped
and counted (R284). -/
def execAckArrival (port handle chunk path : Nat) (marked : Bool) (s : State) : Out :=
  let n := port / 3
  let x := s.slAt n
  match x.transfers.at? handle with
  | none => s.nothing
  | some t =>
    let k := t.chunk chunk
    let src := srcPort (port % 3)
    if 48 ≤ port ∨ t.state ≠ 1 ∨ t.n ≤ chunk ∨ k.sent = none ∨ k.acked ∨ x.flowPort t.flow ≠ port % 3 then s.nothing
    else
      let t1 := t.setChunk chunk { k with acked := true }
      let mark := evRecord 6 port t.flow 1 (2 ^ (path % 64)) 0 s.cycle
      let canMark := !marked || x.canTake src mark
      let x1 := if marked then x.raiseEv src mark else x
      let canDone := !t1.allAcked || t.coll.isSome || x1.canRaise src
      if !canMark || !canDone then (s.countDrop port).happened
      else
        let s1 := s.setSl n { x with transfers := x.transfers.ins handle t1 }
        let s2 := s1.setAck n (uAt t.desc 0x28 8) (t.ackBit + chunk)
        let s3 := if marked then s2.portEvent port 6 t.flow 1 (2 ^ (path % 64)) 0 else s2
        (if t1.allAcked then s3.finishTransfer n handle false else s3).happened

/-! ## Control packets -/

/-- The flows of Sluice core `n` that name an endpoint and a context (R286). -/
def Sluice.flowsTo (x : Sluice) (addr udp ctx : Nat) : List Nat :=
  flowNums.filter (fun f => x.flowAddr f == addr && x.flowDport f == udp && x.flowPctx f == ctx)

/-- A control packet of kind `op` arrives for the context that the port's Sluice core is bound to. -/
def State.controlArrives (s : State) (port op : Nat) (k : Packet) (f : State → State) : Out :=
  if 48 ≤ port ∨ k.op ≠ op then s.nothing
  else
    (s.receive port k (fun s0 =>
      let x := s0.slAt (port / 3)
      let c := s0.ctxAt k.context
      if x.bound = false ∨ x.ctx ≠ k.context ∨ c.frozen ∨ c.failed then s0.countDrop port
      else f s0)).happened

def execChkReqReceived (port : Nat) (p : Packet) (s : State) : Out :=
  s.controlArrives port 3 p (fun s => s.ifEvent port (
    (s.touchConn port p).portEvent port 5 p.handle (p.chunk + p.arg % 65536 * 65536) p.conn 0))

/-- PAUSE and RESUME set and clear HOLD on every matching flow. -/
def State.holdFlows (s : State) (port : Nat) (p : Packet) (hold : Bool) : State :=
  let n := port / 3
  let fs := (s.slAt n).flowsTo p.addr p.udp p.ctx
  let x := fs.foldl (fun x f => x.setHold f hold) (s.slAt n)
  let a := match fs with
    | [f] => f
    | _ => 0xFFFF
  s.ifEvent port (((s.setSl n x).touchConn port p).portEvent port 8 a (if hold then 0 else 1) p.conn 0)

def execPauseReceived (port : Nat) (p : Packet) (s : State) : Out := s.controlArrives port 4 p (fun s => s.holdFlows port p true)
def execResumeReceived (port : Nat) (p : Packet) (s : State) : Out := s.controlArrives port 5 p (fun s => s.holdFlows port p false)

/-- WEIR_REQ_RECEIVED: a ticket is issued, or refused when 256 are held; either way the block then raises WEIR-REQ (R277 in its
order; the number of a refused ticket is a free value: log entry 48). -/
def execWeirReqReceived (port : Nat) (p : Packet) (s : State) : Out :=
  s.controlArrives port 6 p (fun s => s.ifEvent port (
    let s1 := s.touchConn port p
    let x := s1.portAt port
    let from_ := p.peer s.slTicks
    if 256 ≤ sub32 x.next x.base then
      let t := (Config.refusedTicket s.free).toNat
      let s2 := s1.reply port from_ (controlHdr 7 p.ctx 2 p.handle p.chunk t)
      { s2.portEvent port 11 (port % 3) t p.arg p.conn with free := s.free + 1 }
    else
      let s2 := s1.setPort port { x with next := (x.next + 1) % 2 ^ 32, holders := x.holders ++ [⟨from_, false⟩] }
      let s3 := s2.reply port from_ (controlHdr 7 p.ctx 0 p.handle p.chunk x.next)
      s3.portEvent port 11 (port % 3) x.next p.arg p.conn))

/-- The flow that a packet from a target answers: the lowest that names its sender. -/
def State.flowFrom (s : State) (port : Nat) (p : Packet) : Nat :=
  ((s.slAt (port / 3)).flowsTo p.addr p.udp p.ctx).headD 0xFFFF

def execTicketReceived (port : Nat) (p : Packet) (s : State) : Out :=
  s.controlArrives port 7 p (fun s => s.ifEvent port (
    (s.touchConn port p).portEvent port 9 (s.flowFrom port p) (p.arg + (if p.flags / 2 % 2 = 1 then 2 ^ 63 else 0)) 0 0))

def execCallReceived (port : Nat) (p : Packet) (s : State) : Out :=
  s.controlArrives port 8 p (fun s => s.ifEvent port (
    (s.touchConn port p).portEvent port 10 (s.flowFrom port p) p.arg 0 0))

/-- BASE advances over consecutive done tickets. -/
def Port.advanceBase (x : Port) : Nat → Port
  | 0 => x
  | fuel + 1 =>
    match x.holders with
    | h :: r => if h.isDone then ({ x with base := (x.base + 1) % 2 ^ 32, holders := r } : Port).advanceBase fuel else x
    | [] => x

def execWeirDoneReceived (port : Nat) (p : Packet) (s : State) : Out :=
  s.controlArrives port 9 p (fun s =>
    let s1 := s.touchConn port p
    let x := s1.portAt port
    let i := sub32 p.arg x.base
    match x.holders[i]? with
    | none => s1
    | some h =>
      let x1 := { x with holders := x.holders.set i { h with isDone := true } }
      s.ifEvent port ((s1.setPort port (x1.advanceBase 257)).portEvent port 12 (port % 3) p.arg 0 p.conn))

/-- Transfer `h` of a Sluice core is being sent. -/
def Sluice.sending (x : Sluice) (h : Nat) : Bool :=
  match x.transfers.at? h with
  | some t => t.state == 1
  | none => false

/-- FAULT_RECEIVED: the sender raises REMOTE-FAULT and its transfer completes as failed, which raises XFER-DONE (R278). -/
def execFaultReceived (port : Nat) (p : Packet) (s : State) : Out :=
  s.controlArrives port 10 p (fun s =>
    let n := port / 3
    let ends := (s.slAt n).sending p.handle
    if ends && decide (256 ≤ (s.slAt n).evq.length) then s.countDrop port
    else s.ifEvent port (
      let s1 := ((s.touchConn port p).portEvent port 15 p.tdesc (p.arg % 256 + 2 ^ 63) p.va p.coord).report
        (.remoteFault p.context (p.arg % 256) (toW p.va))
      if ends then s1.finishTransfer n p.handle true else s1))

/-- The valid flows that hold the former endpoint of the sender of a NEWEP. The packet names its sender by connection and SA:
while the connection is open, its endpoint is the former one; once it has closed, the flows of the SA that name the sender's
context hold it (DEDUCED: log entry 46). -/
def State.newepFlows (s : State) (port : Nat) (p : Packet) : List Nat :=
  let x := s.slAt (port / 3)
  match (s.portAt port).conns.at? p.conn with
  | some old => (x.flowsTo old.addr old.udp p.ctx).filter x.flowV
  | none => flowNums.filter (fun f => x.flowV f && x.flowSa f == p.sa && x.flowPctx f == p.ctx)

/-- NEWEP_RECEIVED: the sender's new endpoint is written into every matching valid flow, whose HOLD clears (R279). -/
def execNewepReceived (port : Nat) (p : Packet) (s : State) : Out :=
  s.controlArrives port 11 p (fun s => s.ifEvent port (
    let n := port / 3
    let fs := s.newepFlows port p
    let x1 := fs.foldl (fun x f =>
      (((x.setFlow f 4 (toW (p.addr / 2 ^ 64))).setFlow f 5 (toW p.addr)).setFlow f 6 (setFld (x.flow f 6) 15 0 p.udp)).setHold f false)
      (s.slAt n)
    ((s.setSl n x1).touchConn port p).portEvent port 18 fs.length p.ctx p.conn 0))

/-! ## Sending (R276) -/

/-- The next set bit of `paths` after `last`, wrapping at 64. -/
def nextPath (paths : Word) (last : Nat) : Option Nat := ((List.range 64).map (fun i => (last + 1 + i) % 64)).find? (wbit paths)

/-- The coordinate of chunk `k` of a send descriptor, as the 64 bits of a header (R287). -/
def sentCoord (desc : List Byte) (k : Nat) : Nat := (uAt desc 0x10 2 + k) % 65536 + uAt desc 0x12 6 * 65536

/-- The header and payload of a queued packet, from the context's memory; `none` when a source byte has no translation:
the failing address and cause. -/
def State.packetOf (s : State) (x : Sluice) (f : Nat) (o : OutPkt) : Except PlaceErr (Option (List Byte × List Byte)) :=
  match o with
  | .control h => .ok (some (h, []))
  | .chunk h k rtx =>
    match x.transfers.at? h with
    | none => .ok none
    | some t =>
      if t.state ≠ 1 ∨ (t.chunk k).acked then .ok none
      else
        let b := t.desc
        let va := uAt b 0 8 + k * t.csize
        match s.runs x.ctx (2 ^ 40) .load (t.len k / 4096 + 2) (va % 2 ^ 64) (t.len k) with
        | .ok rs =>
          .ok (some (serizHdr (uAt b 0x1A 1) (x.flowPctx f) (uAt b 0x18 2) (uAt b 0x1B 1) (if rtx then 1 else 0) (sentCoord b k)
            (uAt b 0x1C 2) (t.len k) (uAt b 0x20 4) h k 0, s.runsBytes rs))
        | .fault c a t => .error ⟨if c = cPageFault then cPageFault else cProtection, a.toNat, t⟩
        | .wait _ _ => .error ⟨cPageFault, va, false⟩

/-- The packet that leaves marks its chunk as sent now, under the RTO that its flow has now. -/
def Sluice.markSent (x : Sluice) (o : OutPkt) (now : Nat) : Sluice :=
  match o with
  | .control _ => x
  | .chunk h k _ =>
    match x.transfers.at? h with
    | none => x
    | some t =>
      { x with transfers := x.transfers.ins h (t.setChunk k { t.chunk k with sent := some now, rto := x.flowRto t.flow }) }

/-- Payload bytes of the packet at the head of a flow's queue. -/
def Sluice.headLen (x : Sluice) (f : Nat) : Nat :=
  match (x.fst f).queue with
  | .chunk h k _ :: _ =>
    match x.transfers.at? h with
    | some t => t.len k
    | none => 0
  | _ => 0

/-- Flow `f` is ready to send: it is able, a packet waits, its SA is there and its bucket holds the packet (R276). -/
def Sluice.ready (x : Sluice) (f : Nat) : Bool :=
  x.flowAble f && !(x.fst f).queue.isEmpty && (x.sas.at? (x.flowSa f)).isSome
  && decide (176 * wireSize (x.headLen f) ≤ (x.fst f).bucket)

/-- The flow whose turn it is at port `p`: the next ready one after the flow that had the port last (R276). -/
def State.portTurn (s : State) (p : Nat) : Option Nat :=
  let x := s.slAt (p / 3)
  (flowNums.map (fun i => ((s.portAt p).turn + 1 + i) % 512)).find? (fun f => x.flowPort f == p % 3 && x.ready f)

/-- Flow `f` has had its turn at port `p`. -/
def State.tookTurn (s : State) (p f : Nat) : State := s.setPort p { s.portAt p with turn := f }

/-- PACKET_TRANSMIT: flow `flow` of Sluice core `core`, whose turn it is, sends the packet at the head of its queue. -/
def execPacketTransmit (core flow : Nat) (s : State) : Out :=
  let x := s.slAt core
  let st := x.fst flow
  let p := 3 * core + x.flowPort flow
  match st.queue with
  | [] => s.nothing
  | o :: rest =>
    if x.bound = false ∨ (s.portAt p).up = false ∨ s.fencedPorts.contains p ∨ s.portTurn p ≠ some flow then s.nothing
    else
      let x0 := x.setFst flow { st with queue := rest }
      match s.packetOf x flow o with
      | .ok none => ((s.setSl core x0).tookTurn p flow).happened
      | .error e =>
        -- a source byte that fails translation raises REMOTE-FAULT and XFER-DONE (R287)
        if x.canRaise (srcPort (p % 3)) = false ∨ 256 ≤ x.evq.length then (s.tookTurn p flow).happened
        else
          match o with
          | .control _ => s.nothing
          | .chunk h k _ =>
            let desc := (x.transfers.at? h).elim [] Transfer.desc
            ((((s.noteTable x.ctx e).setSl core x0).portEvent p 15 (uAt desc 0x18 2) (e.cause + 2 ^ 63) e.addr (sentCoord desc k)).finishTransfer
              core h true).happened
      | .ok (some (hdr, payload)) =>
        let b := wireSize payload.length
        match nextPath (x.flow flow 1) st.last with
        | none => s.nothing
        | some path =>
          let x1 := (x0.setFst flow { st with queue := rest, bucket := st.bucket - 176 * b, last := path }).markSent o s.slTicks
          let mk (c : Nat) : Sent := .packet p (x.flowAddr flow) (x.flowDport flow) ((x.flowEnt flow + path) % 65536)
            (x.flowSa flow) c hdr payload
          match (s.setSl core x1).transmit core p (x.flowSa flow) b mk with
          | some s1 => (s1.tookTurn p flow).happened
          | none => (s.setSl core (x.exhaust (x.flowSa flow))).happened

/-- TIMEOUT: chunk `chunk` of transfer `handle`, last sent more than its RTO ago, raises one TIMEOUT (R276). -/
def execTimeout (core handle chunk : Nat) (s : State) : Out :=
  let x := s.slAt core
  match x.transfers.at? handle with
  | none => s.nothing
  | some t =>
    let p := x.flowPort t.flow
    let k := t.chunk chunk
    match k.sent with
    | none => s.nothing
    | some at_ =>
      if t.state ≠ 1 ∨ k.acked ∨ k.rto = 0 ∨ s.slTicks - at_ ≤ k.rto ∨ x.canRaise (srcPort p) = false then s.nothing
      else
        let x1 := { x with transfers := x.transfers.ins handle (t.setChunk chunk { k with sent := some s.slTicks }) }
        ((s.setSl core x1).portEvent (3 * core + p) 3 handle (chunk + 65536) t.flow 0).happened

/-- TIMER: an armed timer that has run out raises TIMER and disarms (R286). -/
def execTimer (core t : Nat) (s : State) : Out :=
  let x := s.slAt core
  match x.timers.at? t with
  | none => s.nothing
  | some (left, tag) =>
    if left ≠ 0 ∨ x.canRaise t = false then s.nothing
    else ((s.setSl core { x with timers := x.timers.del t }).raiseEv core t 13 0xFF t tag 0 0).happened

/-- CONNECTION_CLOSE (R285). -/
def execConnectionClose (port index : Nat) (s : State) : Out :=
  let x := s.portAt port
  match x.conns.at? index with
  | none => s.nothing
  | some c =>
    if s.slTicks - c.last < 2 ^ 24 then s.nothing else (s.setPort port { x with conns := x.conns.del index }).happened

/-- LINK: a port's link goes up or down. It does so whether or not the port can raise the event now (log entry 47). -/
def execLink (port : Nat) (up : Bool) (s : State) : Out :=
  let x := s.portAt port
  if 48 ≤ port ∨ x.up = up then s.nothing
  else
    let s1 := s.setPort port { x with up := up }
    (s1.portEvent port 17 (port % 3) (s1.portStatus port) 0 0).happened

/-- SLUICE_TRAP_TIMEOUT (R282). -/
def execSluiceTrapTimeout (core : Nat) (s : State) : Out :=
  let x := s.slAt core
  if x.trapMode ∧ x.running ∧ 165000 ≤ x.trapCycles then
    ((s.setSl core { x with running := false }).report (.sluice core (wf x.scause 7 0))).happened
  else s.nothing

/-! ## Walkers (R316) -/

/-- The send descriptor of the transfer at walk point `w`. -/
def cDesc (r : List Byte) (w : Nat) : List Byte :=
  bytesOf 8 (cBase r w) ++ bytesOf 8 (cTb r) ++ bytesOf 2 (cC0 r w) ++ (r.drop 0x2A).take 6 ++ bytesOf 2 (cF r 6 2)
  ++ bytesOf 1 (cOp r) ++ bytesOf 1 (cF r 3 1) ++ bytesOf 2 (cCtb r w) ++ bytesOf 2 (cCsize r) ++ bytesOf 4 (cF r 0x10 4)
  ++ bytesOf 2 (cNchunk r) ++ bytesOf 2 0 ++ bytesOf 8 (cAckmap r)

/-- WALKER_EMIT: the walker of a running collective, having budget, emits its next transfer. -/
def execWalkerEmit (ctx handle : Nat) (s : State) : Out :=
  let c := s.ctxAt ctx
  match c.colls.at? handle with
  | none => s.nothing
  | some x =>
    let r := x.record
    let n := cPort r / 3
    let sl := s.slAt n
    match sl.freeHandle with
    | none => s.nothing
    | some h =>
      if x.state ≠ 1 ∨ cPoints r ≤ x.walked ∨ x.budget = 0 ∨ c.halted ∨ sl.bound = false ∨ sl.ctx ≠ ctx then s.nothing
      else
        let f := cFlowbase r + cPeer r x.walked
        let ok := sl.flowV f
        if ok = false ∧ s.canRaise n (srcPort (sl.flowPort f)) = false then s.nothing
        else
          let gate := if cGate r then some (cF r 8 2, cGateChunk r x.walked) else none
          let x1 := { x with walked := cNext r (cPoints r) (x.walked + 1), emitted := x.emitted + 1, budget := x.budget - 1 }
          let s1 := s.setCtx ctx { c with colls := c.colls.ins handle x1 }
          let s2 := s1.setSl n (sl.startTransfer h (cDesc r x.walked) f (some handle) gate (x.emitted * cNchunk r))
          (if ok then s2 else s2.finishTransfer n h true).happened

/-- Arrival bit `i` of a gate descriptor is set; a number that no chunk has is never set (log entry 49). -/
def State.gateOpen (s : State) (ctx : Nat) (d : TDesc) (i : Int) : Bool :=
  decide (0 ≤ i) && decide (i < d.n) && s.arrived ctx d i.toNat

/-- GATED_CHUNK_RELEASE: a gated chunk leaves once its gate descriptor's arrival bit is set. -/
def execGatedChunkRelease (core handle chunk : Nat) (s : State) : Out :=
  let x := s.slAt core
  match x.transfers.at? handle with
  | none => s.nothing
  | some t =>
    match t.gate with
    | none => s.nothing
    | some (g, k) =>
      let d := (s.ctxAt x.ctx).tdesc g
      if t.state ≠ 1 ∨ t.n ≤ chunk ∨ (t.chunk chunk).gated = false ∨ d.v = false ∨ s.gateOpen x.ctx d (k + chunk) = false
          ∨ (s.ctxAt x.ctx).halted then s.nothing
      else
        let x1 := { x with transfers := x.transfers.ins handle (t.setChunk chunk { t.chunk chunk with gated := false }) }
        (s.setSl core (x1.queueOn t.flow [.chunk handle chunk false])).happened

end Sys2Proof.Machine
end

