-- ==== Sys2Proof/Machine/MatrixStart.lean ====
section
/-! DEFINITION. The start of a matrix command and the wait of `mx.tw` (05_matrix.md R107, R110, R112). -/

namespace Sys2Proof.Machine

/-- The tensor wait of a head command: its descriptor, and whether the entry names chunks that exist (R107, Table 7). -/
def State.twRange (s : State) (l : LCore) (m : MxCmd) : Option TDesc :=
  let w := m.ops.getD 0 0
  let t := (s.ctxAt l.ctx).tdesc (twDesc w)
  if t.v ∧ twFirst w + twCount w ≤ t.n then some t else none

/-- Check 1 of Table 7 for `mx.tw`. -/
def State.twBad (s : State) (l : LCore) (m : MxCmd) : Bool :=
  let w := m.ops.getD 0 0
  twReserved w || twCount w == 0 || (s.twRange l m).isNone

/-- The head command has taken its waits. -/
def LCore.mxWaited (l : LCore) : LCore :=
  match l.mxFifo with
  | [] => l
  | m :: _ =>
    let l1 := (l.headWaits posM m.fields.q l.mxProg.waited).getD l
    { l1 with mxProg := { l1.mxProg with waited := true } }

/-- MX_COMMAND_START: waits at M, then checks 1 and 2. `mx.mask` and `mx.sync` have nothing left to do. -/
def execMxCommandStart (core : Nat) (s : State) : Out :=
  s.engine core LCore.mxInfo (fun k l => match l.mxFifo with
    | [] => .idle
    | m :: _ =>
      if l.mxProg.started then .idle
      else
        match l.headWaits posM m.fields.q l.mxProg.waited with
        | none => .idle
        | some _ =>
          if m.badOps || (m.fields.func == 7 && s.twBad l m) then .fault cMatrixOperand 0 false
          else
            match m.misaligned with
            | some a => .fault cMisaligned (toW a) false
            | none =>
              let l1 := l.mxWaited
              let done := l1.mxProg.done || m.fields.func == 6 || m.fields.func == 9
              .ok (s.setLc k { l1 with mxProg := { l1.mxProg with started := true, done := done } }))
    (fun cause l => LCore.mxFaulted cause l.mxWaited)

/-- MX_TW_SATISFIED: the chunks of a started `mx.tw` have all arrived, and the command completes; a descriptor that is no
longer valid, or no longer reaches them, stops it (R107). -/
def execMxTwSatisfied (core : Nat) (s : State) : Out :=
  s.mxEngine core (fun k l m =>
    if !l.mxProg.started || m.fields.func != 7 then .idle
    else
      match s.twRange l m with
      | none => .fault cMatrixOperand 0 false
      | some t =>
        let w := m.ops.getD 0 0
        if (List.range (twCount w)).all (fun i => s.arrived l.ctx t (twFirst w + i)) then s.mxEnd k l m else .idle)

end Sys2Proof.Machine
end

