-- ==== Sys2Proof/Machine/HostEvents.lean ====
section
/-! DEFINITION. Host queues: register writes and doorbells, the order in which packets start, and what each packet does
(14_host_queues.md R257 to R264, R266, R372; 16_distributor.md R291, R300; 21_prog_queue.md R360). FREEZE and THAW are in
ImageIO.lean. -/

namespace Sys2Proof.Machine

/-! ## Doorbells (R260) -/

/-- A doorbell that is not accepted. -/
def State.rejectDoorbell (s : State) (q value : Nat) : State :=
  let x := s.queueAt q
  (s.setQ q { x with errcnt := min 65535 (x.errcnt + 1) }).handler q hRingError 0 0 value x.latch x.prog

/-- Doorbell value `value` for queue `q`. -/
def State.doorbell (s : State) (q value : Nat) : State :=
  let x := s.queueAt q
  let t := value % 2 ^ 32
  if x.enabled = false then s.countErr 0
  else if x.isHandler then
    if sub32 t x.latch ≤ sub32 x.prog x.latch then (s.setQ q { x with latch := t }).flushOwed q (x.owed.length + 1)
    else s.rejectDoorbell q t
  else if sub32 x.latch x.prog ≤ sub32 t x.prog ∧ sub32 t x.prog ≤ x.size then s.setQ q { x with latch := t }
  else s.rejectDoorbell q t

/-- The device accepts host writes (19_counters.md R352: HSTATE below 2). -/
def State.accepts (s : State) : Bool := decide (s.hstate < 2)

/-- A doorbell write, which a device in HSTATE 2 rejects (19_counters.md R349, R352). -/
def State.ring (s : State) (q value : Nat) : State := if s.accepts then s.doorbell q value else s.countErr 0

def execSqDoorbell (q value : Nat) (s : State) : Out :=
  if 256 ≤ q ∨ (s.queueAt q).isHandler then s.nothing else (s.ring q value).happened

def execHqDoorbell (q value : Nat) (s : State) : Out :=
  if 256 ≤ q ∨ (s.queueAt q).isHandler = false then s.nothing else (s.ring q value).happened

/-! ## Queue descriptors (R259) -/

/-- Writable bits of W0, W1 and W2. -/
def queueMask (w : Nat) : Word :=
  match w with
  | 0 => 0xFFFFFFFFFFFFF00F
  | 1 => 0x000FFFFFFFFFFFF8
  | _ => 0xFFFFFF0000000000

/-- What setting EN checks. -/
def State.queueOk (s : State) (q : Nat) (x : HostQ) : Bool :=
  decide (16 ≤ x.size) && x.ring % (64 * x.size) == 0 && (s.ctxs.at? x.ctx).isSome
  && (x.isHandler ||
    (let h := s.queueAt x.sib
     x.sib != q && h.enabled && h.isHandler && h.ctx == x.ctx))

/-- Set EN with the other fields of `w0`: the descriptor is checked; a refusal sets ERR. -/
def State.enableQueue (s : State) (q : Nat) (w0 : Word) : State :=
  let x := { s.queueAt q with w0 := w0 &&& queueMask 0 }
  if s.queueOk q x then
    (s.setQ q { x with prog := 0, latch := 0, err := false, stopped := false, next := 0, started := [], gang := none }).flushOwed q
      (x.owed.length + 1)
  else s.setQ q { x with w0 := setFld x.w0 63 63 0, err := true }

/-- The conditions of a disabling write; only a handler queue is held by what it is owed. -/
def State.canDisable (s : State) (q : Nat) : Bool :=
  let x := s.queueAt q
  x.state == 0 && !s.hpend q && x.started.all (fun (p : Started) => p.completed) && (!x.isHandler || x.owed.isEmpty)

def State.disableQueue (s : State) (q : Nat) : State :=
  let x := s.queueAt q
  if s.canDisable q then s.setQ q { x with w0 := setFld x.w0 63 63 0 } else s.countErr 0

/-- A write of W0. -/
def State.writeW0 (s : State) (q : Nat) (v : Word) : State :=
  let x := s.queueAt q
  if x.enabled then if wbit v 63 then s else s.disableQueue q
  else if wbit v 63 then s.enableQueue q v
  else s.setQ q { x with w0 := v &&& queueMask 0 }

def execQueueEnable (q w0 : Nat) (s : State) : Out :=
  if 256 ≤ q ∨ (s.queueAt q).enabled ∨ wbit (toW w0) 63 = false ∨ s.accepts = false then s.nothing
  else (s.enableQueue q (toW w0)).happened

def execQueueDisable (q : Nat) (s : State) : Out :=
  if 256 ≤ q ∨ (s.queueAt q).enabled = false ∨ s.accepts = false then s.nothing else (s.disableQueue q).happened

/-- RESUME leaves STOPPED, unless a HANDLER of the queue waits (R266). -/
def State.resumeQueue (s : State) (q : Nat) : State :=
  let x := s.queueAt q
  if x.stopped ∧ s.hpend q = false then s.setQ q { x with stopped := false } else s

def execResume (q : Nat) (s : State) : Out :=
  if 256 ≤ q ∨ s.accepts = false then s.nothing else (s.resumeQueue q).happened

/-! ## BARRIER (R264) -/

/-- Values of the signals of a BARRIER, in list order. -/
def State.barrierValues (s : State) (ctx : Nat) (b : List Byte) : List Word :=
  (List.range (uAt b 0x10 1)).map (fun i =>
    match s.signalPa ctx (uAt b (0x18 + 8 * i) 8) with
    | some pa => s.readSignal pa
    | none => 0)

/-- Fail the BARRIER at `entry`: its queue is aborted, and a HANDLER tells why. -/
def State.failBarrier (s : State) (q entry : Nat) (word : Nat) (req : Nat) : State :=
  match (s.queueAt q).running entry with
  | none => s
  | some p => (s.abortQueue q entry).handler q hBarrierAbort p.id entry word req 0

/-- Evaluate the BARRIER at `entry`; `none` when it waits. -/
def State.evalBarrier (s : State) (q : Nat) (p : Started) : Option State :=
  let vs := s.barrierValues (s.queueAt q).ctx p.bytes
  match (List.range vs.length).find? (fun i => wbit (vs.getD i 0) 63) with
  | some i => some (s.failBarrier q p.entry i (vs.getD i 0).toNat)
  | none => if vs.all (· == 0) then some (s.completePacket q p.entry false) else none

/-- ABORT fails the BARRIER that waits at the head of the queue. -/
def State.abortHead (s : State) (q : Nat) : State :=
  let x := s.queueAt q
  match x.running x.prog with
  | some p => if p.kind = 2 then s.failBarrier q p.entry (uAt p.bytes 0x10 1) 0 else s
  | none => s

def execAbort (q : Nat) (s : State) : Out :=
  if 256 ≤ q ∨ s.accepts = false then s.nothing else (s.abortHead q).happened

/-- BARRIER_EVALUATION: the first waiting BARRIER that is decided; those of a frozen context wait for its THAW (R333). -/
def execBarrierEvaluation (q : Nat) (s : State) : Out :=
  let x := s.queueAt q
  if (s.ctxAt x.ctx).stopped then s.nothing
  else
    match (x.started.filter (fun p => p.kind == 2 && !p.completed)).findSome? (s.evalBarrier q) with
    | some s1 => s1.happened
    | none => s.nothing

/-! ## Register writes (00_scope.md R4, R257) -/

/-- Bytes of the mailboxes that only firmware writes: STATUS, CAUSE and RESULT; GO reads 0. -/
def controlFw (o : Nat) : Bool := decide (0x04 ≤ o ∧ o < 0x18)
def slotFw (o : Nat) : Bool := decide (0x20 ≤ o ∧ o < 0x28)

/-- Write bytes into a mailbox from offset `o`, but for the protected ones. -/
def fillBox (fw : Nat → Bool) (m : SMap Byte) (o : Nat) : List Byte → SMap Byte
  | [] => m
  | b :: bs => fillBox fw (if fw o then m else m.put o b 0) (o + 1) bs

/-- A field of a mailbox. -/
def boxField (m : SMap Byte) (o n : Nat) : Nat := ofBytes ((List.range n).map (fun i => m.atD (o + i) 0))
def setBox (m : SMap Byte) (o : Nat) (bs : List Byte) : SMap Byte := fillBox (fun _ => false) m o bs

/-- The write of `bs` at offset `o` gives the 4-byte field at `at_` the value 1. -/
def writesGo (o : Nat) (bs : List Byte) (at_ : Nat) : Bool :=
  decide (o ≤ at_ ∧ at_ + 4 ≤ o + bs.length) && uAt bs (at_ - o) 4 == 1

/-- The bytes of a kernel-slot request fail at once, for want of an operation: cause IMAGE (16_distributor.md Table 1). -/
def State.slotFail (s : State) (cause req avail : Nat) : State :=
  let q := boxField s.slotbox 6 1
  ({ s with slotbox := setBox s.slotbox 0x20 (bytesOf 4 3) }).owe q 256 (s.queueAt q).ctx
    (handlerBytes hSlotLoad 0 0 0 cause req avail s.cycle)

/-- GO of the slot-load mailbox (16_distributor.md R289): an EMPTY slot that is to be loaded is LOADING from then on (R290). -/
def State.slotGo (s : State) : State :=
  if boxField s.slotbox 0x20 4 = 1 then s.countErr 0
  else
    let op := boxField s.slotbox 1 1
    let slot := boxField s.slotbox 0 1
    let s1 := { s with slotbox := setBox s.slotbox 0x20 (bytesOf 4 1) }
    if op = 1 then
      if slot < 64 ∧ (s.slotAt slot).state = 0 then s1.setSlot slot { s.slotAt slot with state := 1 } else s1
    else if op = 2 then s1
    else s1.slotFail 9 1 0

/-- GO of the control mailbox (R267); an unknown request fails with cause OPERAND. -/
def State.controlGo (s : State) : State :=
  if boxField s.control 4 4 = 1 then s.countErr 0
  else
    let op := boxField s.control 0 1
    if 1 ≤ op ∧ op ≤ 7 then { s with control := setBox s.control 4 (bytesOf 4 1) }
    else
      let s1 := { s with control := setBox (setBox s.control 4 (bytesOf 4 3)) 0x0C (bytesOf 4 1) }
      if boxField s.control 1 1 % 2 = 1 then s1.sendMsix 254 else s1

/-- A write into the descriptor of queue `q`, word `w`, from its byte `o`. -/
def State.writeQueue (s : State) (q w o : Nat) (bs : List Byte) : State :=
  let x := s.queueAt q
  match w with
  | 0 => s.writeW0 q (overlay x.w0 o bs)
  | 1 => if x.enabled then s else s.setQ q { x with w1 := overlay x.w1 o bs &&& queueMask 1 }
  | 2 => if x.enabled then s else s.setQ q { x with w2 := overlay x.w2 o bs &&& queueMask 2 }
  | 4 =>
    let v := overlay 0 o bs
    let s1 := if wbit v 62 then s.abortHead q else s
    if wbit v 63 then s1.resumeQueue q else s1
  | _ => s

/-- A host write to HW0 at offset `off` (Table 1): the mailboxes and the queue descriptors take writes. -/
def State.writeHw0 (s : State) (off : Nat) (bs : List Byte) : State :=
  if 0x100 ≤ off ∧ off < 0x180 then
    let o := off - 0x100
    let s1 := { s with slotbox := fillBox slotFw s.slotbox o bs }
    if writesGo o bs 0x24 then s1.slotGo else s1
  else if 0x200 ≤ off ∧ off < 0x300 then
    let o := off - 0x200
    let s1 := { s with control := fillBox controlFw s.control o bs }
    if writesGo o bs 8 then s1.controlGo else s1
  else if 0x10000 ≤ off ∧ off < 0x14000 then
    s.writeQueue ((off - 0x10000) / 64) (off % 64 / 8) (off % 8) bs
  else s

/-- REGISTER_WRITE. -/
def execRegisterWrite (w : RegWrite) (s : State) : Out :=
  match w with
  | .hw0 off size value =>
    if 2 ^ 24 ≤ off then s.nothing
    else if (size ≠ 4 ∧ size ≠ 8) ∨ off % size ≠ 0 ∨ s.accepts = false then (s.countErr 0).happened
    else (s.writeHw0 off (bytesOf size value)).happened
  | .hw1 off size value =>
    if 2 ^ 20 ≤ off then s.nothing
    else if (size ≠ 4 ∧ size ≠ 8) ∨ off % 4096 ≠ 0 ∨ s.accepts = false then (s.countErr 0).happened
    else (s.ring (off / 4096) value).happened
  | .portSpeed port slow =>
    let x := s.portAt port
    if 48 ≤ port ∨ x.up then s.nothing else (s.setPort port { x with slow := slow }).happened
  | .portEndpoint port addr udp =>
    if 48 ≤ port ∨ 2 ^ 128 ≤ addr ∨ 2 ^ 16 ≤ udp then s.nothing
    else (s.setPort port { s.portAt port with addr := addr, udp := udp }).happened
  | .hw2Base base =>
    if base % 2 ^ 36 ≠ 0 ∨ 2 ^ 39 ≤ base then s.nothing else { s with hw2base := base }.happened

/-- HW2_APERTURE_WRITE: bytes stored into HBM through the aperture. -/
def execHw2ApertureWrite (off : Nat) (data : List (BitVec 8)) (s : State) : Out :=
  if 2 ^ 36 < off + data.length ∨ s.accepts = false then s.nothing else (s.setPhyss (s.hw2base + off) data).happened

/-! ## Residence (R261) -/

/-- QUEUE_SWITCH_IN: at most 64 queues are resident. -/
def execQueueSwitchIn (q : Nat) (s : State) : Out :=
  let x := s.queueAt q
  if 256 ≤ q ∨ x.enabled = false ∨ x.res ∨ 64 ≤ (s.queues.filter (fun p => p.2.res)).length then s.nothing
  else (s.setQ q { x with res := true }).happened

/-- QUEUE_SWITCH_OUT: between packets. -/
def execQueueSwitchOut (q : Nat) (s : State) : Out :=
  let x := s.queueAt q
  if x.res then (s.setQ q { x with res := false }).happened else s.nothing

/-! ## Which packet starts (R261, R263, R265) -/

/-- In a frozen queue: the first FREEZE or THAW from `n` on that has not started. -/
def State.passing (s : State) (q : Nat) : Nat → Nat → Option (Nat × List Byte)
  | 0, _ => none
  | fuel + 1, n =>
    let x := s.queueAt q
    if n = x.latch then none
    else
      match x.started.find? (fun p => p.entry == n) with
      | some p => s.passing q fuel ((n + p.len) % 2 ^ 32)
      | none =>
        let b := s.entryBytes q n
        if uAt b 0 1 = 6 ∨ uAt b 0 1 = 7 then some (n, b)
        else s.passing q fuel ((n + min (packetLen b) (sub32 x.latch n)) % 2 ^ 32)

/-- The packet of queue `q` that may start: its entry number and first 64 bytes. -/
def State.startable (s : State) (q : Nat) : Option (Nat × List Byte) :=
  let x := s.queueAt q
  if x.enabled = false ∨ x.isHandler ∨ x.res = false ∨ x.stopped ∨ s.accepts = false then none
  else if x.frozen then s.passing q (2 ^ 15 + 1) x.next
  else if x.started.any (fun p => p.isB && !p.completed) then none
  else
    let n := x.skipFrom (x.started.length + 1) x.next
    if n = x.latch then none
    else
      let b := s.entryBytes q n
      -- a FENCE waits for every earlier packet
      if uAt b 0 1 = 8 ∧ x.started.any (fun p => !p.completed) then none else some (n, b)

/-- How many queues of its wake core come before queue `q`, counted on from the one served last (R261). -/
def State.turnOf (s : State) (q : Nat) : Nat := (q + 255 - s.wakeTurn.atD (q % 6) 255) % 256

/-- A queue of the same wake core has a packet to start and goes first: it has a higher priority, or an equal one and an earlier
turn (R261). -/
def State.outranked (s : State) (q : Nat) : Bool :=
  s.queues.any (fun p => p.1 % 6 == q % 6 &&
    (decide ((s.queueAt q).prio < p.2.prio) || (p.2.prio == (s.queueAt q).prio && decide (s.turnOf p.1 < s.turnOf q))) &&
    (match s.startable p.1 with
     | none => false
     | some (_, b) => !(uAt b 0 1 == 1 && s.freeNode.isNone)))

/-- Start the packet of queue `q` whose type satisfies `is`, in its turn. -/
def State.starts (s : State) (q : Nat) (is : Nat → Bool) (f : Nat → List Byte → Out) : Out :=
  match s.startable q with
  | none => s.nothing
  | some (n, b) => if is (uAt b 0 1) = false ∨ s.outranked q then s.nothing else f n b

/-- Table 3's rules on the header, in ascending order of offset. -/
def State.headBad (s : State) (ctx entries : Nat) (b : List Byte) : Option Nat :=
  firstBad [bad (3 < uAt b 1 1) 1, bad (uAt b 2 1 != entries) 2, firstNonzero b 3 4,
    bad (uAt b 8 8 != 0 && s.badSignal ctx (uAt b 8 8)) 8]

/-- Begin the packet and, when a rule is broken, complete it as failed with MALFORMED; else go on. -/
def State.checked (s : State) (q n : Nat) (b : List Byte) (entries : Nat) (body : List (Option Nat)) (f : State → State) : Out :=
  let s1 := s.beginPacket q n b
  match firstBad (s.headBad (s.queueAt q).ctx entries b :: body) with
  | some o => (s1.failPacket q n hMalformed o 0 0).happened
  | none => (f s1).happened

/-! ## LAUNCH (16_distributor.md R291) -/

/-- The 256 bytes of a LAUNCH, whose entries may wrap around the end of the ring. -/
def State.launchBytes (s : State) (q n : Nat) : List Byte := (List.range 4).flatMap (fun i => s.entryBytes q (n + i))

/-- Consecutive LAUNCH packets of gang count `c` from entry `n` on, at most `k`: their images. -/
def State.gangAhead (s : State) (q c : Nat) : Nat → Nat → List (List Byte)
  | 0, _ => []
  | k + 1, n =>
    let b := s.launchBytes q n
    if sub32 (s.queueAt q).latch n < 4 ∨ uAt b 0 1 ≠ 1 ∨ lGang b ≠ c then []
    else b :: s.gangAhead q c k ((n + 4) % 2 ^ 32)

/-- Logical cores that a LAUNCH image asks for. -/
def State.teamOf (s : State) (b : List Byte) : Nat :=
  match (s.slotAt (lSlot b)).images[lKernel b]? with
  | some m => m.team b
  | none => 0

/-- Check 9: the gang's members are present, and fit together. The first member looks ahead; a later one counts those that
have entered and those still to be read. -/
def State.gangCheck (s : State) (q n : Nat) (b : List Byte) : Option Reject :=
  let c := lGang b
  if c < 2 then none
  else
    match (s.queueAt q).gang with
    | some (g, left, gone) =>
      let present := (s.nodes.filter (fun p => p.2.gang == some g && p.2.queue == q)).length + left + gone
      if present < c then some ⟨8, present, c⟩ else none
    | none =>
      let ms := s.gangAhead q c c n
      if ms.length < c ∨ 8 * s.workingCores < (ms.map s.teamOf).foldl (· + ·) 0 then some ⟨8, ms.length, c⟩ else none

/-- The gang being read from queue `q`, once the packet at entry `n`, of gang count `c`, has been read: the members that stand
after the first one. -/
def State.gangNext (s : State) (q n c : Nat) : Option (Nat × Nat × Nat) :=
  if c < 2 then none
  else
    match (s.queueAt q).gang with
    | some (g, left, gone) => if left ≤ 1 then none else some (g, left - 1, gone)
    | none =>
      let left := (s.gangAhead q c c n).length - 1
      if left = 0 then none else some (s.nodeOrder, left, 0)

/-- LAUNCH: the packet is checked, and its node enters the pool; while the pool is full it is not read. -/
def execLaunch (q : Nat) (s : State) : Out :=
  s.starts q (· == 1) (fun n b =>
    let x := s.queueAt q
    let m := s.launchBytes q n
    let c := lGang b
    let whole := decide (4 ≤ sub32 x.latch n)
    let s0 := s.setQ q { x with gang := s.gangNext q n c }
    match s.headBad x.ctx 4 b, launchBody b with
    | some o, _ => ((s0.beginPacket q n b).failPacket q n hMalformed (if whole then o else min o 2) 0 0).happened
    | none, some o => ((s0.beginPacket q n b).failPacket q n hMalformed (if whole then o else 2) 0 0).happened
    | none, none =>
      if whole = false then ((s0.beginPacket q n b).failPacket q n hMalformed 2 0 0).happened
      else
        match (s.launchChecks x.ctx true m).or (s.gangCheck q n m) with
        | some e => ((s0.beginPacket q n b).failPacket q n hLaunchRejected e.cause e.req e.avail).happened
        | none =>
          match s.freeNode with
          | none => s.nothing
          | some i =>
            let gang := if c < 2 then none else some (match x.gang with
              | some (g, _) => g
              | none => s.nodeOrder)
            let gone := match x.gang with
              | some (_, _, k) => k
              | none => 0
            (((s0.beginPacket q n b).enterNode i x.ctx m q n (uAt b 1 1) x.prio false gang (if c < 2 then 0 else c - gone)).settle).happened)

/-! ## The other packets (R262) -/

/-- The rules on the signal list of a BARRIER. -/
def State.barrierBad (s : State) (ctx : Nat) (b : List Byte) : List (Option Nat) :=
  [bad (3 < uAt b 0x10 1) 0x10, firstNonzero b 0x11 0x18]
  ++ (List.range 3).map (fun i =>
      let v := uAt b (0x18 + 8 * i) 8
      bad (if i < uAt b 0x10 1 then s.badSignal ctx v else v != 0) (0x18 + 8 * i))
  ++ [firstNonzero b 0x30 0x40]

def execBarrier (q : Nat) (s : State) : Out :=
  s.starts q (· == 2) (fun n b =>
    s.checked q n b 1 (s.barrierBad (s.queueAt q).ctx b) (fun s1 =>
      match (s1.queueAt q).running n with
      | some p => (s1.evalBarrier q p).getD s1
      | none => s1))

/-- SIGNAL: an add or a store at the signal's home. -/
def execSignal (q : Nat) (s : State) : Out :=
  s.starts q (· == 3) (fun n b =>
    let ctx := (s.queueAt q).ctx
    let va := uAt b 0x18 8
    s.checked q n b 1 [bad (1 < uAt b 0x10 1) 0x10, firstNonzero b 0x11 0x18, bad (s.badSignal ctx va) 0x18, firstNonzero b 0x28 0x40]
      (fun s1 =>
        let v := toW (uAt b 0x20 8)
        let s2 := match s1.signalPa ctx va with
          | some pa => s1.writeSignal pa (if uAt b 0x10 1 = 0 then s1.readSignal pa + v else v)
          | none => s1
        s2.completePacket q n false))

/-- COPY starts on the distributor's copy engine. -/
def execCopy (q : Nat) (s : State) : Out :=
  s.starts q (· == 4) (fun n b =>
    let len := uAt b 0x28 8
    s.checked q n b 1 [firstNonzero b 0x10 0x18, bad (len == 0 || decide (2 ^ 40 < len)) 0x28, firstNonzero b 0x30 0x40] id)

/-- A COPY whose HANDLER is appended completes as failed; its HANDLER stands for the queue's abort too (R360). -/
def State.copyFailed (s : State) (q : Nat) (p : Started) : State :=
  if p.isB then s.abortQueue q p.entry else s.completePacket q p.entry true

/-- Change the started packet at `entry` of queue `q`. -/
def State.setStarted (s : State) (q entry : Nat) (f : Started → Started) : State :=
  let x := s.queueAt q
  s.setQ q { x with started := x.started.map (fun (r : Started) => if r.entry == entry then f r else r) }

/-- A COPY stops at a chunk: its HANDLER is appended before its csig update, which waits while the sibling is full (R360). -/
def State.copyFault (s : State) (q : Nat) (p : Started) (e : PlaceErr) : State :=
  let s1 := (s.noteTable (s.queueAt q).ctx e).handler q hCopyFault p.id p.entry e.cause e.addr p.copied
  if s1.hpend q then s1.setStarted q p.entry (fun r => { r with failing := true }) else s1.copyFailed q p

/-- The first COPY of the queue that has started and not completed. -/
def HostQ.firstCopy (x : HostQ) : Option Started := x.started.find? (fun p => p.kind == 4 && !p.completed)

/-- The COPY at `entry` rests: its context is stopped, or is being frozen and records this one; another that has started
completes first (18_context_image.md R324, log entry 51). -/
def State.copyRests (s : State) (q entry : Nat) : Bool :=
  let x := s.queueAt q
  let c := s.ctxAt x.ctx
  c.halted || (c.stopped && x.firstCopy.any (fun p => p.entry == entry))

/-- COPY_PACKET_CHUNK: the next 4 KiB chunk of a COPY; a frozen context's COPY rests (18_context_image.md R324). -/
def execCopyPacketChunk (q entry : Nat) (s : State) : Out :=
  let x := s.queueAt q
  match x.running entry with
  | none => s.nothing
  | some p =>
    if p.kind ≠ 4 ∨ s.copyRests q entry then s.nothing
    else if p.failing then if s.hpend q then s.nothing else (s.copyFailed q p).happened
    else
      let len := uAt p.bytes 0x28 8
      let n := min 4096 (len - p.copied)
      match s.distRead x.ctx (uAt p.bytes 0x20 8 + p.copied) n with
      | .error e => (s.copyFault q p e).happened
      | .ok (bs, s1) =>
        match s1.distWrite x.ctx (uAt p.bytes 0x18 8 + p.copied) bs with
        | .error e => (s.copyFault q p e).happened
        | .ok s2 =>
          let s3 := s2.setStarted q entry (fun r => { r with copied := p.copied + n })
          (if len ≤ p.copied + n then s3.completePacket q entry false else s3).happened

/-- The words of a sequence entry that an ADMIT writes; W3, with ASTEP, keeps its value `w3` (16_distributor.md Table 6). -/
def seqWords (ctx slot : Nat) (x : ModelSlot) (list count : Nat) (w3 : Word) : List Word :=
  [toW (2 ^ 62 + slot % 64 * 2 ^ 56 + x.nstop % 32 * 2 ^ 51 + ctx % 2 ^ 16), toW list, toW (count % 2 ^ 32), w3]
  ++ (List.range 8).map (fun i => toW (x.stops.getD (2 * i) 0 + x.stops.getD (2 * i + 1) 0 * 2 ^ 32))

def State.setSeq (s : State) (e i : Nat) : List Word → State
  | [] => s
  | v :: vs => (s.setSeqWord e i v).setSeq e (i + 1) vs

/-- ADMIT (16_distributor.md R300). -/
def execAdmit (q : Nat) (s : State) : Out :=
  s.starts q (· == 5) (fun n b =>
    let ctx := (s.queueAt q).ctx
    let e := uAt b 0x10 2
    let slot := uAt b 0x12 1
    let x := s.slotAt slot
    s.checked q n b 1 [bad (decide (4095 < e) || wf (s.seqWord e 0) 63 62 != 0) 0x10,
        bad (decide (63 < slot) || x.state != 2 || x.ctx != ctx) 0x12, firstNonzero b 0x13 0x18, bad (uAt b 0x18 8 % 8 != 0) 0x18,
        firstNonzero b 0x24 0x40]
      (fun s1 => (s1.setSeq e 0 (seqWords ctx slot x (uAt b 0x18 8) (uAt b 0x20 4) (s1.seqWord e 3))).completePacket q n false))

/-- What a fence of scope `scope` for context `ctx` waits for: multicast stores, and with scope fabric the collectives of the
context that started before it, the first `bound` (10_consistency.md Table 3). -/
def State.ctxFencePending (s : State) (ctx scope bound : Nat) : Bool :=
  s.multicasts.any (fun m => (s.lcAt m.writer).ctx == ctx)
  || (scope == 4 && (s.ctxAt ctx).colls.any (fun p => p.2.state == 1 && decide (p.2.order < bound)))

/-- A started FENCE retires, once its fence has. -/
def State.fenceDone (s : State) (q : Nat) (p : Started) : Option State :=
  if p.kind = 8 ∧ p.completed = false ∧ s.ctxFencePending (s.queueAt q).ctx (uAt p.bytes 0x10 1) p.bound = false then
    some (s.completePacket q p.entry false)
  else none

/-- FENCE_PACKET: a FENCE of the queue starts, its earlier packets having completed; or a started one retires. -/
def execFencePacket (q : Nat) (s : State) : Out :=
  match (s.queueAt q).started.findSome? (s.fenceDone q) with
  | some s1 => s1.happened
  | none =>
    s.starts q (· == 8) (fun n b =>
      s.checked q n b 1 [bad (uAt b 0x10 1 != 3 && uAt b 0x10 1 != 4) 0x10, firstNonzero b 0x11 0x40] (fun s1 =>
        match (s1.queueAt q).running n with
        | some p => (s1.fenceDone q p).getD s1
        | none => s1))

/-- The packet at entry `n` is a HANDLER that the device has appended there, and no one has changed since (R262). -/
def State.deviceWrote (s : State) (q n : Nat) (b : List Byte) : Bool :=
  s.handlers.at? ((s.queueAt q).entryPa n) == some b

/-- HANDLER: one that the device wrote completes at once; one that the host wrote, and a packet of an unknown type, is
malformed. -/
def execHandler (q : Nat) (s : State) : Out :=
  s.starts q (fun t => t == 0 || decide (9 ≤ t)) (fun n b =>
    let s1 := s.beginPacket q n b
    if uAt b 0 1 = 9 ∧ s.deviceWrote q n b then (s1.completePacket q n false).happened
    else (s1.failPacket q n hMalformed 0 0 0).happened)

/-! ## Failing host accesses (R258) -/

/-- The physical address lies in host memory. -/
def isHostPa (pa : Nat) : Bool := decide (0x4000000000000 ≤ pa ∧ pa < 0x8000000000000)

/-- A running COPY whose next chunk touches physical address `pa`. -/
def State.copyTouches (s : State) (ctx pa : Nat) (p : Started) : Bool :=
  let n := min 4096 (uAt p.bytes 0x28 8 - p.copied)
  let touches (how : Access) (o : Nat) : Bool :=
    match s.runs ctx (2 ^ 40) how 4 (uAt p.bytes o 8 + p.copied) n with
    | .ok rs => rs.any (fun r => match r.place with
      | .phys a _ => decide (a ≤ pa ∧ pa < a + r.len)
      | .multicast _ => false)
    | _ => false
  p.kind == 4 && !p.completed && (touches .load 0x20 || touches .store 0x18)

end Sys2Proof.Machine
end

