-- ==== Sys2Proof/Machine/Firmware.lean ====
section
/-! DEFINITION. What firmware does for the host: the requests of the control mailbox (14_host_queues.md R267, R268), slot
loads and unloads (16_distributor.md R289 to R292; 02_encoding.md R51 to R57), and its own register writes
(08_memory.md R161, R163; 18_context_image.md R331). -/

namespace Sys2Proof.Machine

/-! ## HBM frames and page tables (08_memory.md R166, R167) -/

/-- The first group of `n` frames, from `b` on, of which none is taken. -/
def State.findFrames (s : State) (n : Nat) : Nat → Nat → Nat
  | 0, b => b
  | fuel + 1, b =>
    if (List.range n).any (fun i => (s.frames.at? (b + i)).isSome) then s.findFrames n fuel ((b + n) % 2 ^ 27) else b

/-- Take `n` frames, aligned to `n`, and zero them: the first frame, and the state. -/
def State.takeFrames (s : State) (owner n : Nat) : Nat × State :=
  let b := s.findFrames n (s.frames.length + 1) (Config.frameStart s.free % (2 ^ 27 / n) * n)
  (b, { s with
    free := s.free + 1
    frames := (List.range n).foldl (fun m i => m.ins (b + i) owner) s.frames
    mem := s.mem.filter (fun p => !(decide (4096 * b ≤ p.1) && decide (p.1 < 4096 * (b + n)))) })

/-- Give back the frames of an owner. -/
def State.freeFrames (s : State) (owner : Nat) : State := { s with frames := s.frames.filter (fun p => p.2 != owner) }

/-- The table that the entry at `at_` leads to, made of `n` frames when there is none. -/
def State.tableAt (s : State) (owner at_ n : Nat) : Nat × State :=
  let e := s.entry at_
  if wbit e 0 then (wf e 51 12 * 4096, s)
  else
    let (f, s1) := s.takeFrames owner n
    (4096 * f, s1.setRaws at_ (bytesOf 8 (1 + 4096 * f)))

/-- LE of a leaf that firmware creates (18_context_image.md R331). -/
def Ctx.leafEpoch (c : Ctx) : Nat := if c.dlE != c.dlArmed then 2 ^ 59 else 0

/-- Map the 4 KiB page at `va` to `frame`, with a leaf's `flags`. -/
def State.mapPage (s : State) (ctx va flags frame : Nat) : State :=
  let c := s.ctxAt ctx
  let (t2, s1) := s.tableAt ctx (c.ptroot + 8 * fld va 56 44) 32
  let (t1, s2) := s1.tableAt ctx (t2 + 8 * fld va 43 30) 1
  let (t0, s3) := s2.tableAt ctx (t1 + 8 * fld va 29 21) 1
  s3.setRaws (t0 + 8 * fld va 20 12) (bytesOf 8 (flags + 4096 * frame + c.leafEpoch))

/-- Leaf flags: V and LEAF, PN, then the permissions. -/
def leafR : Nat := 2 ^ 58 + 2 ^ 7 + 2 ^ 2 + 1
def leafRW : Nat := leafR + 2 ^ 3
def leafRX : Nat := leafR + 2 ^ 4

/-- Map `n` fresh pages from `va`, filled from `bs`; the pages before `ro` take `f1`, the others `f2`. -/
def State.mapFresh (s : State) (ctx owner ro f1 f2 : Nat) : Nat → Nat → List Byte → State
  | 0, _, _ => s
  | n + 1, va, bs =>
    let (f, s1) := s.takeFrames owner 1
    let s2 := (s1.setRaws (4096 * f) (bs.take 4096)).mapPage ctx va (if va < ro then f1 else f2) f
    s2.mapFresh ctx owner ro f1 f2 n (va + 4096) (bs.drop 4096)

/-- Pages of 4 KiB that the `n` bytes from `va` touch. -/
def pagesOf (va n : Nat) : Nat := if n = 0 then 0 else (va + n - 1) / 4096 - va / 4096 + 1

/-- Clear the leaf of the page at `va`. -/
def State.unmapPage (s : State) (ctx va : Nat) : State :=
  match s.walk ctx va with
  | .leaf at_ _ _ => s.setRaws at_ (bytesOf 8 0)
  | .fault _ => s

/-- Set or clear PN in the leaves of the `n` pages from the page of `va`. -/
def State.pinPages (s : State) (ctx : Nat) (on : Bool) : Nat → Nat → State
  | 0, _ => s
  | n + 1, va =>
    let s1 := match s.walk ctx va with
      | .leaf at_ e _ => s.setRaws at_ (bytesOf 8 (setFld e 58 58 (if on then 1 else 0)).toNat)
      | .fault _ => s
    s1.pinPages ctx on n (va + 4096)

/-! ## The control mailbox (R267, R268) -/

def causeOperand : Nat := 1
def causeCtx : Nat := 2
def causeBusy : Nat := 3
def causeNomem : Nat := 4
def causeSluice : Nat := 5

/-- Operand `i` of the request, and the grant words. -/
def State.opA (s : State) (i : Nat) : Nat := boxField s.control (0x18 + 8 * i) 8
def State.opCtx (s : State) : Nat := boxField s.control 2 2
def State.opGrants (s : State) : SMap Nat :=
  (List.range 8).foldl (fun m i => m.put i (boxField s.control (0x40 + 8 * i) 8) 0) []

/-- The bytes from `lo` up to `hi` of the block are zero. -/
def State.opZero (s : State) (lo hi : Nat) : Bool := s.control.all (fun p => !(decide (lo ≤ p.1) && decide (p.1 < hi)))

/-- Reserved fields, and the operands that the request does not use (`grants`, `block`, A from `a` on), are zero. -/
def State.opForm (s : State) (a : Nat) (grants : Bool) (block : Nat) : Bool :=
  decide (boxField s.control 1 1 < 2) && s.opZero (0x18 + 8 * a) 0x40 && (grants || s.opZero 0x40 0x80) && s.opZero (0x80 + block) 0x100

/-- Every grant is in order: multiples of 128 bytes, within the carve-out below its staging (08_memory.md R161; log entry 50). -/
def State.grantsOk (s : State) : Bool :=
  (List.range 4).all (fun d =>
    let base := s.opGrants.atD (2 * d) 0
    let size := s.opGrants.atD (2 * d + 1) 0
    base % 128 == 0 && size % 128 == 0 && decide (base + size ≤ s.carveouts.atD d 0 - s.stagingOf d))

/-- A request ends: with a result, or with a cause and nothing changed. -/
def State.answer (s : State) (r : Except Nat (Nat × State)) : State :=
  let irq (t : State) : State := if boxField s.control 1 1 % 2 = 1 then t.sendMsix 254 else t
  match r with
  | .ok (v, t) => irq { t with control := setBox (setBox t.control 0x10 (bytesOf 8 v)) 4 (bytesOf 4 2) }
  | .error c => irq { s with control := setBox (setBox s.control 0x0C (bytesOf 4 c)) 4 (bytesOf 4 3) }

/-- Carry out request `op`, when it is the one that GO started. -/
def State.request (s : State) (op : Nat) (r : State → Except Nat (Nat × State)) : Out :=
  if boxField s.control 4 4 = 1 ∧ boxField s.control 0 1 = op then (s.answer (r s)).happened else s.nothing

/-- The first cause whose condition holds. -/
def firstCause (cs : List (Bool × Nat)) (r : Nat × State) : Except Nat (Nat × State) :=
  match cs.find? (fun p => p.1) with
  | some p => .error p.2
  | none => .ok r

/-- The start of the slot-image range (08_memory.md R153). -/
def slotImages : Nat := 0x01FFFE0000000000

/-- Bytes of a sync-object table. -/
def sotabSize : Nat := 131072

/-- The state after CREATE. -/
def State.createCtx (s : State) (ctx ptroot sotab : Nat) (grants : SMap Nat) : State :=
  (s.setCtx ctx { Ctx.fresh with ptroot := ptroot, sotab := sotab, grants := grants }).mapFresh ctx ctx 0 leafRW leafRW 32 sotab []

def execCreate (s : State) : Out :=
  s.request 1 (fun s =>
    let ctx := s.opCtx
    let root := s.opA 0
    let so := s.opA 1
    firstCause [(!s.opForm 2 true 0 || root % 65536 != 0 || decide (2 ^ 39 ≤ root) || so % sotabSize != 0
        || decide (slotImages ≤ so) || !s.grantsOk, causeOperand),
      ((s.ctxs.at? ctx).isSome, causeCtx), (!Config.canAllocate s.free, causeNomem)]
      (so, s.createCtx ctx root so s.opGrants))

/-- A queue, slot, Sluice core or node of the context stands in the way of DESTROY. -/
def State.ctxInUse (s : State) (ctx : Nat) : Bool :=
  s.queues.any (fun p => p.2.enabled && p.2.ctx == ctx) || s.slots.any (fun p => p.2.state == 2 && p.2.ctx == ctx)
  || s.sluices.any (fun p => p.2.bound && p.2.ctx == ctx) || s.nodes.any (fun p => p.2.ctx == ctx)

/-- Free the sequence entries of a context. -/
def State.freeSeqs (s : State) (ctx : Nat) : State :=
  (List.range 4096).foldl (fun t e =>
    if wf (s.seqWord e 0) 63 62 ≠ 0 ∧ wf (s.seqWord e 0) 15 0 = ctx then t.setSeqWord e 0 (setFld (s.seqWord e 0) 63 62 0) else t) s

/-- The state after DESTROY. -/
def State.destroyCtx (s : State) (ctx : Nat) : State :=
  let s1 := (s.lcores.keysWhere (fun l => l.ctx == ctx)).foldl State.evictLcore s
  let s2 := (s1.freeSeqs ctx).freeFrames ctx
  { s2 with
    ctxs := s2.ctxs.del ctx
    lcores := s2.lcores.filter (fun p => p.2.ctx != ctx)
    retired := s2.retired.filter (fun p => p.2.ctx != ctx) }

def execDestroy (s : State) : Out :=
  s.request 2 (fun s =>
    let ctx := s.opCtx
    firstCause [(!s.opForm 0 false 0, causeOperand), ((s.ctxs.at? ctx).isNone, causeCtx), (s.ctxInUse ctx, causeBusy)]
      (0, s.destroyCtx ctx))

/-- Entry `e` is a valid leaf. -/
def leafEntry (e : Word) : Bool := wbit e 0 && wbit e 7

/-- Set LE to `e` in every valid leaf below the table at `base`; `lv` levels remain below it. -/
def State.settleTable (s : State) (e : Bool) : Nat → Nat → State
  | lv, base =>
    let n := match lv with
      | 3 => 8192
      | 2 => 16384
      | _ => 512
    (List.range n).foldl (fun t i =>
      let at_ := base + 8 * i
      let w := t.entry at_
      if !wbit w 0 then t
      else if wbit w 7 then t.setRaws at_ (bytesOf 8 (setFld w 59 59 (if e then 1 else 0)).toNat)
      else
        match lv with
        | 0 => t
        | lv' + 1 => t.settleTable e lv' (wf w 51 12 * 4096)) s

/-- Where the walk for `va` looks up its entry at level `lv`, 3 at the root; `none` when the tables do not lead there. -/
def State.entryAt (s : State) (ctx va lv : Nat) : Option Nat :=
  let next (at_ : Nat) : Option Nat :=
    let e := s.entry at_
    if wbit e 0 ∧ wbit e 7 = false ∧ pteReserved e = false ∧ pteNonLeafBad e = false then some (wf e 51 12 * 4096) else none
  let a3 := (s.ctxAt ctx).ptroot + 8 * fld va 56 44
  if lv = 3 then some a3
  else
    match next a3 with
    | none => none
    | some t2 =>
      let a2 := t2 + 8 * fld va 43 30
      if lv = 2 then some a2
      else
        match next a2 with
        | none => none
        | some t1 =>
          let a1 := t1 + 8 * fld va 29 21
          if lv = 1 then some a1 else (next a1).map (fun t0 => t0 + 8 * fld va 20 12)

/-- The new entry keeps A, D and LE of the old one; a leaf where none was valid is created, and takes the LE of a created
leaf (18_context_image.md R331, log entry 58). -/
def Ctx.mapEntry (c : Ctx) (old new : Word) : Word :=
  let keep : Word := 0x0800000000000060
  let e := (old &&& keep) ||| (new &&& ~~~ keep)
  if leafEntry e && !leafEntry old then setFld e 59 59 (c.leafEpoch / 2 ^ 59) else e

/-- A table that MAP links has its leaves created with it (log entry 58). -/
def State.linkTable (s : State) (ctx lv : Nat) (old new : Word) : State :=
  if lv = 0 ∨ wbit new 0 = false ∨ wbit new 7 ∨ (wbit old 0 ∧ wbit old 7 = false ∧ wf old 51 12 = wf new 51 12) then s
  else s.settleTable ((s.ctxAt ctx).dlE != (s.ctxAt ctx).dlArmed) (lv - 1) (wf new 51 12 * 4096)

def execMap (s : State) : Out :=
  s.request 3 (fun s =>
    let ctx := s.opCtx
    let va := s.opA 0
    let bad := !s.opForm 3 false 0 || decide (3 < s.opA 1) || decide (vaEnd ≤ va) || decide (slotImages ≤ va ∧ va < winLocal)
    if bad then .error causeOperand
    else if (s.ctxs.at? ctx).isNone then .error causeCtx
    else
      match s.entryAt ctx va (s.opA 1) with
      | none => .error causeOperand
      | some at_ =>
        let old := s.entry at_
        let e := (s.ctxAt ctx).mapEntry old (toW (s.opA 2))
        .ok (old.toNat, (s.setPhyss at_ (bytesOf 8 e.toNat)).linkTable ctx (s.opA 1) old e))

/-- What refuses a GRANT: a resident logical core, a valid descriptor, a running packet, a transfer or a collective. -/
def State.grantBusy (s : State) (ctx : Nat) : Bool :=
  let c := s.ctxAt ctx
  s.lcores.any (fun p => p.2.ctx == ctx && p.2.loc != .frozen) || c.tnsListed.any (fun t => (c.tdesc t).v)
  || s.queues.any (fun p => p.2.ctx == ctx && p.2.started.any (fun (r : Started) => !r.completed))
  || c.colls.any (fun p => p.2.state == 1)
  || s.sluices.any (fun p => p.2.bound && p.2.ctx == ctx && p.2.transfers.any (fun t => t.2.state == 1))

def execGrant (s : State) : Out :=
  s.request 4 (fun s =>
    let ctx := s.opCtx
    firstCause [(!s.opForm 0 true 0 || !s.grantsOk, causeOperand), ((s.ctxs.at? ctx).isNone, causeCtx),
      (s.grantBusy ctx, causeBusy)] (0, s.setCtx ctx { s.ctxAt ctx with grants := s.opGrants }))

/-- Some port of Sluice core `n` works. -/
def State.hasPort (s : State) (n : Nat) : Bool := (List.range 3).any (fun i => !s.fencedPorts.contains (3 * n + i))

/-- Flow-list entry `w` (eight words) is in order on a core whose SAs are `sas`: when V is set, PORT, SA, RATE and the
reserved fields are (Table 7). -/
def flowEntryOk (sas : SMap Assoc) (w : List Word) : Bool :=
  let g (i : Nat) := w.getD i 0
  !wbit (g 0) 63 || (decide (wf (g 0) 61 60 < 3) && (sas.at? (wf (g 0) 43 32)).isSome && decide (wf (g 3) 12 0 ≤ 8000)
    && wf (g 0) 15 0 == 0 && wf (g 2) 63 40 == 0 && wf (g 3) 63 13 == 0 && wf (g 6) 63 16 == 0 && g 7 == 0)

/-- Put a flow list into a table: HOLD is clear, reserved fields are zero. -/
def flowsOf : Nat → List (List Word) → SMap Word
  | _, [] => []
  | f, w :: ws =>
    let g (i : Nat) : Word := w.getD i 0
    let e : List Word := [g 0 &&& 0xBFFFFFFFFFFF0000, g 1, toW (wf (g 2) 39 0), toW (wf (g 3) 12 0), g 4, g 5, toW (wf (g 6) 15 0), 0]
    ((List.range 8).map (fun i => (8 * f + i, e.getD i 0))).filter (fun p => p.2 != 0) ++ flowsOf (f + 1) ws

/-- A Sluice core bound to `ctx` at the start of its program (15_sluice.md R281). -/
def boundSluice (n ctx : Nat) (sas : SMap Assoc) (text data : List Byte) (flows : SMap Word) : Sluice :=
  let off := roundUp text.length 64
  ({ Sluice.fresh with
    regs := (SMap.put [] 2 (toW n) 0).put 3 (toW off) 0
    flows := flows, sas := sas, ctx := ctx, bound := true, running := true } : Sluice).setSram 0
      (text ++ List.replicate (off - text.length) 0 ++ data)

/-- What a BIND reads: the Sluice binary and the data section of kernel `kernel` of slot `slot`, and a flow list; `none` when
the slot holds no such kernel with a Sluice binary. -/
def State.bindReads (s : State) (ctx slot kernel list count : Nat) :
    Option (Except PlaceErr (List Byte × List Byte × List Byte × State)) :=
  let sl := s.slotAt slot
  match (if sl.state = 2 ∧ sl.ctx = ctx then sl.images[kernel]? else none) with
  | none => none
  | some m =>
    if m.lopelFlags % 2 = 0 then none
    else some (do
      let (text, s1) ← s.distRead ctx (m.va + m.slOff) m.slSize
      let (data, s2) ← s1.distRead ctx (m.va + m.dataOff) m.dataSize
      let (fl, s3) ← s2.distRead ctx list (64 * count)
      pure (text, data, fl, s3))

/-- The state after BIND of core `n` to kernel `kernel` of slot `slot`. -/
def State.bindSluice (s : State) (ctx n slot kernel list count : Nat) : Except Nat (Nat × State) :=
  let x := s.slAt n
  let sas := x.sas.filter (fun p => p.2.ctx == ctx)
  match s.bindReads ctx slot kernel list count with
  | some (.ok (text, data, fl, s1)) =>
    let ws := (List.range count).map (fun i => wordsOf (fl.drop (64 * i)) 8)
    if ws.all (flowEntryOk sas) = false ∨ sramSize < roundUp text.length 64 + data.length then .error causeOperand
    else if x.bound ∨ s.hasPort n = false then .error causeSluice
    else .ok (0, s1.setSl n (boundSluice n ctx sas text data (flowsOf 0 ws)))
  | _ => .error causeOperand

/-- A BIND's operands have its form. -/
def State.bindForm (s : State) : Bool :=
  s.opForm 4 false 0 && decide (s.opA 0 ≤ 15) && decide (s.opA 1 ≤ 65535) && decide (s.opA 3 ≤ 512)

/-- The page-table error that a BIND's reads meet is reported (08_memory.md R154). -/
def State.bindNote (s : State) : State :=
  if s.bindForm then
    match s.bindReads s.opCtx (s.opA 1 % 256) (s.opA 1 / 256) (s.opA 2) (s.opA 3) with
    | some (.error e) => s.noteTable s.opCtx e
    | _ => s
  else s

/-- What BIND answers. -/
def State.bindResult (s : State) : Except Nat (Nat × State) :=
  let ctx := s.opCtx
  if s.bindForm = false then .error causeOperand
  else if (s.ctxs.at? ctx).isNone then .error causeCtx
  else s.bindSluice ctx (s.opA 0) (s.opA 1 % 256) (s.opA 1 / 256) (s.opA 2) (s.opA 3)

def execBind (s : State) : Out :=
  if boxField s.control 4 4 = 1 ∧ boxField s.control 0 1 = 5 then (s.bindNote.answer s.bindResult).happened else s.nothing

/-- A transfer or collective record of Sluice core `n` has not completed. -/
def State.sluiceBusy (s : State) (n : Nat) : Bool :=
  let x := s.slAt n
  x.transfers.any (fun t => t.2.state == 1)
  || (s.ctxAt x.ctx).colls.any (fun p => p.2.state == 1 && cPort p.2.record / 3 == n)

/-- A Sluice core once it is free: stopped, its flow table, timers, events and SAs gone. -/
def Sluice.unbind (x : Sluice) : Sluice :=
  { x with
    bound := false, running := false, flows := [], flowSt := [], timers := [], evq := [], pending := [], sas := [],
    transfers := [], stall := none }

def execUnbind (s : State) : Out :=
  s.request 6 (fun s =>
    let n := s.opA 0
    firstCause [(!s.opForm 1 false 0 || decide (15 < n) || s.opCtx != 0, causeOperand), (!(s.slAt n).bound, causeSluice),
      (s.sluiceBusy n, causeBusy)] (0, s.setSl n (s.slAt n).unbind))

/-- Install SA `a` on a core: the flows that an exhausted counter of it held go on. -/
def Sluice.installSa (x : Sluice) (a : Nat) (v : Assoc) : Sluice :=
  (x.listed.filter (fun f => x.flowSa f == a && (x.fst f).exhausted)).foldl
    (fun x f =>
      let y := x.setHold f false
      y.setFst f { y.fst f with exhausted := false }) { x with sas := x.sas.ins a v }

def execSa (s : State) : Out :=
  s.request 7 (fun s =>
    let ctx := s.opCtx
    let n := s.opA 0
    let x := s.slAt n
    let key := (List.range 32).map (fun i => s.control.atD (0x80 + i) 0)
    let t := s.setSl n (x.installSa (s.opA 1) ⟨ctx, key, s.opA 2, []⟩)
    firstCause [(!s.opForm 3 false 32 || decide (15 < n) || decide (4095 < s.opA 1), causeOperand),
      ((s.ctxs.at? ctx).isNone, causeCtx), (x.bound && x.ctx != ctx, causeSluice)]
      (0, { t with control := t.control.filter (fun p => decide (p.1 < 0x80)) }))

/-! ## Slot loads (R289 to R292; 02_encoding.md R51 to R57) -/

/-- A refusal of an image at header offset `o`. -/
def imageBad (c : Bool) (o : Nat) : Option Reject := if c then some ⟨9, o, 0⟩ else none

/-- A size above its limit. -/
def overLimit (cause v limit : Nat) : Option Reject := if limit < v then some ⟨cause, v, limit⟩ else none

/-- The first failure. -/
def firstReject : List (Option Reject) → Option Reject
  | [] => none
  | some r :: _ => some r
  | none :: rs => firstReject rs

/-- A part of an image: nothing, or at a multiple of 64 after what comes before it, inside the image. -/
def partOk (prev size off len : Nat) : Bool := off % 64 == 0 && (len == 0 || decide (prev ≤ off ∧ off + len ≤ size))

/-- The checks of the header fields, in ascending order of offset, on the bytes `b` of an image that the directory gives
`size` bytes (Tables 16 and 17, R56). Where a part does not lie inside the image after the part before it, its offset field
is the offending one; an lstore both too large and no multiple of 16 KiB fails as too large; a part of size 0 has no place in
the order (log entry 57). -/
def headerChecks (b : List Byte) (size : Nat) : List (Option Reject) :=
  let u := uAt b
  let fl := u 6 2
  let apEnd := u 0x0C 4 + u 0x10 4
  let epEnd := u 0x14 4 + u 0x18 4
  let slEnd := if fl % 2 = 1 ∧ u 0x20 4 ≠ 0 then u 0x1C 4 + u 0x20 4 else epEnd
  let dataEnd := if u 0x28 4 = 0 then slEnd else u 0x24 4 + u 0x28 4
  [imageBad (u 0 4 != 0x4C504F4C) 0, imageBad (u 4 2 != 0x0100) 4, imageBad (decide (3 < fl)) 6,
   imageBad (u 8 4 != size || decide (size < 160)) 8,
   imageBad (!partOk 160 size (u 0x0C 4) (u 0x10 4)) 0x0C, imageBad (u 0x10 4 == 0 || u 0x10 4 % 4 != 0) 0x10,
   imageBad (!partOk apEnd size (u 0x14 4) (u 0x18 4)) 0x14,
   imageBad (u 0x18 4 == 0 || u 0x18 4 % 4 != 0 || !bit27 (u (epEnd - 4) 4)) 0x18,
   imageBad (if fl % 2 = 1 then !partOk epEnd size (u 0x1C 4) (u 0x20 4) else u 0x1C 4 != 0) 0x1C,
   imageBad (fl % 2 == 0 && u 0x20 4 != 0) 0x20,
   imageBad (!partOk slEnd size (u 0x24 4) (u 0x28 4)) 0x24,
   imageBad (!partOk dataEnd size (u 0x2C 4) (16 * u 0x30 2)) 0x2C, imageBad (decide (64 < u 0x30 2)) 0x30,
   imageBad (u 0x32 2 != 0) 0x32, imageBad (u 0x34 4 % 4096 != 0 || decide (u 0x28 4 < u 0x34 4)) 0x34,
   imageBad (u 0x38 8 != 0) 0x38,
   overLimit 4 (u 0x40 4) (2 ^ 21), imageBad (u 0x40 4 % 16384 != 0) 0x40, imageBad (u 0x44 4 % 128 != 0) 0x44,
   overLimit 11 (u 0x48 2) 1024, overLimit 12 (u 0x4A 2) 4096, overLimit 13 (u 0x4C 1) 16, overLimit 14 (u 0x4D 1) 64,
   imageBad (decide (15 < u 0x4E 1)) 0x4E, imageBad (decide (7 < u 0x4F 1)) 0x4F, overLimit 15 (u 0x50 4) 64,
   imageBad (decide (7 < u 0x58 1)) 0x58, imageBad (firstNonzero b 0x59 0x60).isSome 0x59]

/-- The product of the immediate extents of kind `kind` of levels 0 to `i`. -/
def immProduct (b : List Byte) (kind i : Nat) : Nat :=
  (List.range (i + 1)).foldl (fun a j =>
    if uAt b (0x60 + 8 * j) 1 = kind ∧ uAt b (0x61 + 8 * j) 1 = 0 then a * uAt b (0x64 + 8 * j) 4 else a) 1

/-- Loop-table entry `i` is malformed (R52). -/
def levelMalformed (b : List Byte) (i : Nat) : Bool :=
  let o := 0x60 + 8 * i
  let kind := uAt b o 1
  if kind = 0 ∨ (List.range i).any (fun j => uAt b (0x60 + 8 * j) 1 == 0) then (firstNonzero b o (o + 8)).isSome
  else decide (3 < kind) || decide (1 < uAt b (o + 1) 1) || decide (7 < uAt b (o + 2) 1) || uAt b (o + 3) 1 != 0 || uAt b (o + 4) 4 == 0

/-- Level `i` breaks the nest: a D level inside a C level, a T level outside a spatial one that is in use, or an immediate
extent beyond the limits of R53 (R292). -/
def levelMisplaced (b : List Byte) (i : Nat) : Bool :=
  let kind (j : Nat) := uAt b (0x60 + 8 * j) 1
  let spatial (j : Nat) := (kind j == 2 || kind j == 3) && (List.range j).all (fun m => kind m != 0)
  (kind i == 3 && ((List.range i).any (fun j => kind j == 2) || decide (4 < immProduct b 3 i)))
  || (kind i == 2 && decide (512 < immProduct b 2 i))
  || (kind i == 1 && (List.range 8).any (fun j => decide (i < j) && spatial j))

def loopChecks (b : List Byte) : List (Option Reject) :=
  (List.range 8).map (fun i => if levelMalformed b i || levelMisplaced b i then some ⟨10, i, 0⟩ else none)

/-- Relocation entry at image offset `o` (R55); a shape index above 7 is out of range also where the entry does not use it
(log entry 57). -/
def relocBad (b : List Byte) (o : Nat) : Option Reject :=
  match firstBad [bad (15 < uAt b o 1) o, bad (uAt b (o + 1) 1 == 0 || decide (3 < uAt b (o + 1) 1)) (o + 1),
    bad (3 < uAt b (o + 2) 1) (o + 2), bad (7 < uAt b (o + 3) 1) (o + 3), bad (uAt b (o + 4) 4 != 0) (o + 4)] with
  | some x => some ⟨9, x, 0⟩
  | none => none

/-- All checks of one image. -/
def imageChecks (b : List Byte) (size : Nat) : Option Reject :=
  firstReject (headerChecks b size ++ loopChecks b ++
    (List.range (uAt b 0x30 2)).map (fun i => relocBad b (uAt b 0x2C 4 + 16 * i)))

/-- A slot load that cannot read context memory: RESIDENCY with the failing VA (the model's choice: log entry 57). -/
def State.unreadable (s : State) (ctx : Nat) (e : PlaceErr) : Reject × State := (⟨6, e.addr, 0⟩, s.noteTable ctx e)

/-- The images of a directory, read and checked in order: VA, size and bytes of each, and the state after the reads. -/
def State.readImages (s : State) (ctx dir : Nat) : Nat → Except (Reject × State) (List (Nat × Nat × List Byte) × State)
  | 0 => .ok ([], s)
  | n + 1 =>
    match s.distRead ctx dir 16 with
    | .error e => .error (s.unreadable ctx e)
    | .ok (e, s1) =>
      let va := uAt e 0 8
      let size := uAt e 8 8
      match s1.distRead ctx va size with
      | .error e => .error (s1.unreadable ctx e)
      | .ok (b, s2) =>
        match imageChecks b size with
        | some r => .error (r, s2)
        | none => (s2.readImages ctx (dir + 16) n).map (fun t => ((va, size, b) :: t.1, t.2))

/-- The parts that are mapped of an image, laid out from `va`: bases of the AP binary, the EP binary and the data section,
and the end. -/
def layOut (b : List Byte) (va : Nat) : Nat × Nat × Nat × Nat :=
  let ap := roundUp va 65536
  let ep := roundUp (ap + uAt b 0x10 4) 65536
  let data := roundUp (ep + uAt b 0x18 4) 65536
  (ap, ep, data, data + uAt b 0x28 4)

/-- Images laid out in directory order: what the slot entry holds, and the end. -/
def layImages : Nat → List (Nat × Nat × List Byte) → List Image × Nat
  | va, [] => ([], va)
  | va, (at_, _, b) :: r =>
    let (ap, ep, data, end_) := layOut b va
    let relocs := (List.range (uAt b 0x30 2)).map (fun i => (b.drop (uAt b 0x2C 4 + 16 * i)).take 16)
    let (ms, e) := layImages end_ r
    (⟨at_, b.take 160, relocs, ap, ep, data⟩ :: ms, e)

/-- Map the parts of one image. -/
def State.mapImage (s : State) (ctx slot : Nat) (m : Image) (b : List Byte) : State :=
  let own := 65536 + slot
  let part (o n : Nat) : List Byte := (b.drop (uAt b o 4)).take (uAt b n 4)
  let s1 := s.mapFresh ctx own 0 leafRX leafRX (ceilDiv m.apSize 4096) m.apBase (part 0x0C 0x10)
  let s2 := s1.mapFresh ctx own 0 leafRX leafRX (ceilDiv m.epSize 4096) m.epBase (part 0x14 0x18)
  s2.mapFresh ctx own (m.dataBase + uAt b 0x34 4) leafR leafRW (ceilDiv m.dataSize 4096) m.dataBase (part 0x24 0x28)

def State.mapImages (s : State) (ctx slot : Nat) : List Image → List (Nat × Nat × List Byte) → State
  | m :: ms, (va, size, b) :: r =>
    ((s.pinPages ctx true (pagesOf va size) (va / 4096 * 4096)).mapImage ctx slot m b).mapImages ctx slot ms r
  | _, _ => s

/-- What the mailbox asks of a load, beside its slot and context: the first field that is out of range. -/
def State.slotRequestBad (s : State) : Option Nat :=
  let nk := boxField s.slotbox 4 1
  let nstop := boxField s.slotbox 5 1
  firstBad [bad (nk == 0 || decide (64 < nk)) 4, bad (decide (16 < nstop)) 5, bad (boxField s.slotbox 7 1 != 0) 7,
    (List.range 24).findSome? (fun i => bad (s.slotbox.atD (0x28 + i) 0 != 0) (0x28 + i)),
    (List.range 16).findSome? (fun i => bad (decide (nstop ≤ i) && boxField s.slotbox (0x40 + 4 * i) 4 != 0) (0x40 + 4 * i))]

/-- The request ends well. -/
def State.slotDone (s : State) : State := { s with slotbox := setBox s.slotbox 0x20 (bytesOf 4 2) }

/-- The slot entry that a load writes (Table 2). -/
def State.slotEntry (s : State) (ctx : Nat) (ms : List Image) : ModelSlot where
  state := 2
  nk := boxField s.slotbox 4 1
  nstop := boxField s.slotbox 5 1
  ctx := ctx
  freering := boxField s.slotbox 0x10 8
  retring := boxField s.slotbox 0x18 8
  stepno := 0
  steps := []
  stops := (List.range 16).map (fun i => boxField s.slotbox (0x40 + 4 * i) 4)
  images := ms

/-- A load of slot `slot`. -/
def State.loadSlot (s : State) (slot ctx : Nat) : State :=
  match s.slotRequestBad with
  | some o => s.slotFail 9 o 0
  | none =>
    match s.readImages ctx (boxField s.slotbox 8 8) (boxField s.slotbox 4 1) with
    | .error (r, s1) => s1.slotFail r.cause r.req r.avail
    | .ok (is, s1) =>
      let start := slotImages + slot * 2 ^ 34
      let (ms, end_) := layImages start is
      if start + 2 ^ 34 < end_ then s1.slotFail 9 8 0
      else ((s1.mapImages ctx slot ms is).setSlot slot (s.slotEntry ctx ms)).slotDone

/-- The slot that GO set LOADING is EMPTY again (R289, R290): what follows leaves it so, or LOADED. -/
def State.notLoading (s : State) : State :=
  { s with slots := s.slots.map (fun p => if p.2.state = 1 then (p.1, { p.2 with state := 0 }) else p) }

/-- The op that GO started is `op`. -/
def State.slotPending (s : State) (op : Nat) : Bool := boxField s.slotbox 0x20 4 == 1 && boxField s.slotbox 1 1 == op

/-- SLOT_LOAD. -/
def execSlotLoad (s : State) : Out :=
  let slot := boxField s.slotbox 0 1
  let ctx := boxField s.slotbox 2 2
  if s.slotPending 1 = false then s.nothing
  else if 63 < slot then (s.notLoading.slotFail 1 slot 0).happened
  else if (s.ctxs.at? ctx).isNone then (s.notLoading.slotFail 19 ctx 0).happened
  else if (s.slotAt slot).state = 2 then (s.notLoading.slotFail 16 slot 0).happened
  else (s.notLoading.loadSlot slot ctx).happened

/-- A node of the slot is in the pool, or a sequence entry names it. -/
def State.slotInUse (s : State) (slot : Nat) : Bool :=
  s.nodes.any (fun p => p.2.slot == slot)
  || (List.range 4096).any (fun e => wf (s.seqWord e 0) 63 62 != 0 && wf (s.seqWord e 0) 61 56 == slot)

/-- An image of another slot of context `ctx` lies in the 4 KiB page `page`. -/
def State.imageIn (s : State) (slot ctx page : Nat) : Bool :=
  s.slots.any (fun p => p.1 != slot && p.2.ctx == ctx && p.2.images.any (fun m =>
    decide (m.va / 4096 ≤ page ∧ page < m.va / 4096 + pagesOf m.va (m.at_ 8 4))))

/-- Unpin the image `m` of slot `slot`, but for what it shares with an image of another slot (log entry 57). -/
def State.unpinImage (s : State) (slot ctx : Nat) (m : Image) : State :=
  (List.range (pagesOf m.va (m.at_ 8 4))).foldl (fun t i =>
    if s.imageIn slot ctx (m.va / 4096 + i) then t else t.pinPages ctx false 1 (4096 * (m.va / 4096 + i))) s

/-- Unpin and unmap the images of slot `slot`, and leave it EMPTY; the other fields of its entry stay (R290). -/
def State.unloadSlot (s : State) (slot : Nat) : State :=
  let x := s.slotAt slot
  let s1 := x.images.foldl (fun t m =>
    let t1 := t.unpinImage slot x.ctx m
    [(m.apBase, m.apSize), (m.epBase, m.epSize), (m.dataBase, m.dataSize)].foldl (fun t p =>
      (List.range (ceilDiv p.2 4096)).foldl (fun t i => t.unmapPage x.ctx (p.1 + 4096 * i)) t) t1) s
  (s1.freeFrames (65536 + slot)).setSlot slot { x with state := 0, images := [] }

/-- SLOT_UNLOAD. -/
def execSlotUnload (s : State) : Out :=
  let slot := boxField s.slotbox 0 1
  let ctx := boxField s.slotbox 2 2
  if s.slotPending 2 = false then s.nothing
  else if 63 < slot then (s.slotFail 1 slot 0).happened
  else if (s.ctxs.at? ctx).isNone then (s.slotFail 19 ctx 0).happened
  else if s.slotInUse slot then (s.slotFail 16 slot 0).happened
  else (s.unloadSlot slot).slotDone.happened

/-! ## Registers that firmware writes -/

/-- SETTLE_END (18_context_image.md R331). -/
def execSettleEnd (ctx : Nat) (s : State) : Out :=
  match s.ctxs.at? ctx with
  | none => s.nothing
  | some c =>
    if c.dlSettling = false then s.nothing
    else
      let s1 := s.settleTable c.dlE 3 c.ptroot
      (s1.setCtx ctx { s1.ctxAt ctx with dlSettling := false }).happened

/-- STORAGE_FORMAT_WRITE (08_memory.md Table 4, R163). -/
def execStorageFormatWrite (n w0 w1 w2 w3 : Nat) (s : State) : Out :=
  if 64 ≤ n then s.nothing
  else
    let put (m : SMap Word) (i : Nat) (v : Word) : SMap Word := m.put (4 * n + i) v 0
    let lo (w : Nat) : Word := toW w &&& 0xFFFFFFFFFF
    let v0 : Word := toW w0 &&& 0x8F0000FFFFFFFFFF
    let s1 := (s.dropLines (wf (s.fmtWord n 0) 39 0) (wf (s.fmtWord n 1) 39 0)).dropLines (wf v0 39 0) (lo w1).toNat
    { s1 with formats := put (put (put (put s.formats 0 v0) 1 (lo w1)) 2 (lo w2)) 3 (lo w3) }.happened

/-- Enable reduction on the first ports of die `die` that the implementation chooses, while 8 MiB each fit in `size` bytes
(17_collectives.md R308, log entry 50). -/
def State.setReduces (s : State) (die size : Nat) : State :=
  let on (n : Nat) : Bool := Config.reduces s.free (12 * die + n)
  let s1 := (List.range 12).foldl (fun t n =>
    t.setPort (12 * die + n) { t.portAt (12 * die + n) with
      reduces := on n && decide (8 * 2 ^ 20 * (((List.range n).filter on).length + 1) ≤ size) }) s
  { s1 with free := s.free + 1 }

/-- A descriptor holds staging at a port of die `die`. -/
def State.stagingHeld (s : State) (die : Nat) : Bool :=
  (List.range 12).any (fun n => s.stagingUsed (12 * die + n) 65536 0 != 0)

/-- BASIN_CARVEOUT_SET (08_memory.md R161): in steps of 16 MiB, while no context holds a grant, nor staging, on the die. -/
def execBasinCarveoutSet (die size : Nat) (s : State) : Out :=
  if 4 ≤ die ∨ 2 ^ 27 < size ∨ size % 2 ^ 24 ≠ 0 ∨ s.ctxs.any (fun p => p.2.grantSize die != 0) ∨ s.stagingHeld die = true then
    s.nothing
  else ({ s with carveouts := s.carveouts.put die size 0 }.setReduces die size).happened

end Sys2Proof.Machine
end

