-- ==== Sys2Proof/Machine/Bundle.lean ====
section
/-! DEFINITION. How a stream runs its next word or bundle (02_encoding.md R30 to R34; 04_scalar.md R74, R86), and one beat
of a vector syllable (11_vector_arith.md R208). The meaning of an instruction is a parameter here. -/

namespace Sys2Proof

open Sys2Proof.Machine

/-- The vector syllable that a V word stands for. -/
def Instr.vop : Instr → Option VOp
  | .vadd q e rm d a b ty => some (vaddOp q e rm d a b ty)
  | .vsub q e rm d a b ty => some (vsubOp q e rm d a b ty)
  | .vmul q e rm d a b ty => some (vmulOp q e rm d a b ty)
  | .vmac q e rm d a b ty => some (vmacOp q e rm d a b ty)
  | .vmin q e d a b ty => some (vminOp q e d a b ty)
  | .vmax q e d a b ty => some (vmaxOp q e d a b ty)
  | .vabs q e d a ty => some (vabsOp q e d a ty)
  | .vneg q e d a ty => some (vnegOp q e d a ty)
  | .vexp2 q e rm d a ty => some (vexp2Op q e rm d a ty)
  | .vlog2 q e rm d a ty => some (vlog2Op q e rm d a ty)
  | .vrcp q e rm d a ty => some (vrcpOp q e rm d a ty)
  | .vrsqrt q e rm d a ty => some (vrsqrtOp q e rm d a ty)
  | .vcmpEq q e d a b ty => some (vcmpOp .eq q e d a b ty)
  | .vcmpNe q e d a b ty => some (vcmpOp .ne q e d a b ty)
  | .vcmpLt q e d a b ty => some (vcmpOp .lt q e d a b ty)
  | .vcmpLe q e d a b ty => some (vcmpOp .le q e d a b ty)
  | .vsel q e d a b ty => some (vselOp q e d a b ty)
  | .vsum q e rm d a ty => some (vsumOp q e rm d a ty)
  | .vrmax q e d a ty => some (vrmaxOp q e d a ty)
  | .vrmin q e d a ty => some (vrminOp q e d a ty)
  | .vcvt q e d a m g h sat => some (vcvtOp q e d a m g h sat)
  | .vadds q e d a g ty => some (vaddsOp q e d a g ty)
  | .vmuls q e d a g ty => some (vmulsOp q e d a g ty)
  | .vmacs q e d a g ty => some (vmacsOp q e d a g ty)
  | .vmins q e d a g ty => some (vminsOp q e d a g ty)
  | .vmaxs q e d a g ty => some (vmaxsOp q e d a g ty)
  | .vfill q e d g ty => some (vfillOp q e d g ty)
  | .vseti q e d imm => some (vsetiOp q e d imm)
  | .vsetf q e d imm => some (vsetfOp q e d imm)
  | .vand q e d a b ty => some (vandOp q e d a b ty)
  | .vor q e d a b ty => some (vorOp q e d a b ty)
  | .vxor q e d a b ty => some (vxorOp q e d a b ty)
  | .vnot q e d a ty => some (vnotOp q e d a ty)
  | .vshl q e d a b ty => some (vshlOp q e d a b ty)
  | .vshr q e d a b ty => some (vshrOp q e d a b ty)
  | .vsra q e d a b ty => some (vsraOp q e d a b ty)
  | .vmulh q e d a b ty => some (vmulhOp q e d a b ty)
  | .vperm q e d a b ty => some (vpermOp q e d a b ty)
  | .vcompact q e d a b ty => some (vcompactOp q e d a b ty)
  | .vexpand q e d a b ty => some (vexpandOp q e d a b ty)
  | .vscanAdd q e d a ty => some (vscanAddOp q e d a ty)
  | .vscanMax q e d a ty => some (vscanMaxOp q e d a ty)
  | .vcolsel q e d a b ty => some (vcolselOp q e d a b ty)
  | .vprobe q e d a b => some (vprobeOp q e d a b)
  | .vstop q e d a b => some (vstopOp q e d a b)
  | .vmov q e d a ty => some (vmovOp q e d a ty)
  | .vmovDescriptor q e d n => some (vmovDescriptorOp q e d n)
  | .vshift q e d a g ty => some (vshiftOp q e d a g ty)
  | .vrotl q e d a g ty => some (vrotlOp q e d a g ty)
  | .vbcast q e d a g ty => some (vbcastOp q e d a g ty)
  | .vamoAdd q e d a g ty => some (vamoOp .add q e d a g ty)
  | .vamoMin q e d a g ty => some (vamoOp .min q e d a g ty)
  | .vamoMax q e d a g ty => some (vamoOp .max q e d a g ty)
  | .vamoComb q e d a g => some (vamoCombOp q e d a g)
  | _ => none

/-- Registers and queues that a syllable names: sources and destinations. -/
def Instr.regs : Instr → List Nat × List Nat
  | .add _ _ d a b => ([a, b], [d])
  | .sub _ _ d a b => ([a, b], [d])
  | .and _ _ d a b => ([a, b], [d])
  | .or _ _ d a b => ([a, b], [d])
  | .xor _ _ d a b => ([a, b], [d])
  | .sll _ _ d a b => ([a, b], [d])
  | .srl _ _ d a b => ([a, b], [d])
  | .sra _ _ d a b => ([a, b], [d])
  | .slt _ _ d a b => ([a, b], [d])
  | .sltu _ _ d a b => ([a, b], [d])
  | .min _ _ d a b => ([a, b], [d])
  | .max _ _ d a b => ([a, b], [d])
  | .minu _ _ d a b => ([a, b], [d])
  | .maxu _ _ d a b => ([a, b], [d])
  | .addw _ _ d a b => ([a, b], [d])
  | .subw _ _ d a b => ([a, b], [d])
  | .mul _ _ d a b => ([a, b], [d])
  | .mulh _ _ d a b => ([a, b], [d])
  | .mulhu _ _ d a b => ([a, b], [d])
  | .div _ _ d a b => ([a, b], [d])
  | .divu _ _ d a b => ([a, b], [d])
  | .rem _ _ d a b => ([a, b], [d])
  | .remu _ _ d a b => ([a, b], [d])
  | .addi _ _ d a _ => ([a], [d])
  | .andi _ _ d a _ => ([a], [d])
  | .ori _ _ d a _ => ([a], [d])
  | .xori _ _ d a _ => ([a], [d])
  | .slli _ _ d a _ => ([a], [d])
  | .srli _ _ d a _ => ([a], [d])
  | .srai _ _ d a _ => ([a], [d])
  | .slti _ _ d a _ => ([a], [d])
  | .sltiu _ _ d a _ => ([a], [d])
  | .li _ _ d _ => ([], [d])
  | .lsh _ _ d _ => ([d], [d])
  | .beqz _ _ a _ => ([a], [])
  | .bnez _ _ a _ => ([a], [])
  | .bltz _ _ a _ => ([a], [])
  | .bgez _ _ a _ => ([a], [])
  | .bgtz _ _ a _ => ([a], [])
  | .blez _ _ a _ => ([a], [])
  | .call _ _ _ => ([], [1])
  | .loop _ _ _ a _ => ([a], [])
  | .mfsr _ _ d _ => ([], [d])
  | .mtsr _ _ a _ => ([a], [])
  | .jr _ _ d a => ([a], [d])
  | .cyc _ _ d => ([], [d])
  | .acq _ _ a => ([a], [])
  | .rel _ _ a => ([a], [])
  | .acqGen _ _ a b => ([a, b], [])
  | .soGen _ _ d a => ([a], [d])
  | .mxMac _ _ _ _ a b => ([24 + a, 24 + b], [])
  | .mxMacz _ _ _ _ a b => ([24 + a, 24 + b], [])
  | .mxLd _ _ _ a => ([24 + a], [])
  | .mxSt _ _ _ a => ([24 + a], [])
  | .mxStc _ _ _ _ a => ([24 + a], [])
  | .mxMask _ _ a => ([24 + a], [])
  | .mxTw _ _ a => ([24 + a], [])
  | .sigAdd _ _ d a b => ([a, b], [d])
  | .sigRd _ _ d a => ([a], [d])
  | .sigWait _ _ d a b => ([a, b], [d])
  | .flagAdd _ _ d a b => ([a, b], [d])
  | .flagMset _ _ d a b => ([a, b], [d])
  | .flagWait _ _ d a b => ([a, b], [d])
  | .ctrRd _ _ d a => ([a], [d])
  | i =>
    match i.vop with
    | some v => (v.srcs, v.dsts)
    | none => ([], [])

end Sys2Proof

namespace Sys2Proof.Machine

/-! ## Bundles (R32, R33) -/

/-- A syllable of a bundle: its index, its word, and the instruction; a word that does not decode raises ILLEGAL. -/
structure Syl where
  i : Nat
  word : Nat
  instr : Instr
  deriving DecidableEq, Repr

def sylsOf (ws : List Nat) : List Syl :=
  (List.range ws.length).map (fun i =>
    let w := ws.getD i 0
    ⟨i, w, match decodeWord w with
      | .ok x => x
      | .error _ => .illegal i⟩)

def Syl.slot (x : Syl) : Slot := slotOf x.word

/-- Some number from `lo` up to `hi` stands in both lists. -/
def meet (lo hi : Nat) (a b : List Nat) : Bool := a.any (fun n => decide (lo ≤ n ∧ n < hi) && b.contains n)

/-- The rill bits of both words overlap. -/
def Rill.meets (q r : Rill) : Bool := (q.wp && r.wp) || (q.wn && r.wn) || (q.sp && r.sp) || (q.sn && r.sn)

/-- Two syllables break R32 together. -/
def Syl.clash (x y : Syl) : Bool :=
  let (xs, xd) := x.instr.regs
  let (ys, yd) := y.instr.regs
  x.slot == y.slot || meet 24 32 xs ys || meet 24 32 xd yd || meet 1 24 xd yd
  || ((x.slot == .s || x.slot == .v) && (y.slot == .s || y.slot == .v) && Rill.meets (rillOf x.word) (rillOf y.word))

/-- A syllable breaks R32 alone: it names a queue twice. In an M syllable that is a fault of its own fields (R46, Table 14),
which its meaning raises. -/
def Syl.clashes (x : Syl) : Bool := x.slot != .m && (namedTwice x.instr.regs.1 || namedTwice x.instr.regs.2)

/-- The lowest syllable involved in a fault of the bundle as a whole (R32, 07_traps.md R138). -/
def bundleFault (ws : List Nat) : Option Nat :=
  let xs := sylsOf ws
  match xs.find? (fun x => x.clashes || xs.any (fun y => decide (x.i < y.i) && x.clash y)) with
  | some x => some x.i
  | none => if 4 ≤ ws.length ∧ bit27 (ws.getD 3 0) = false then some 3 else none

/-- A meaning of instructions. -/
abbrev Meaning := Instr → State → Out

/-- Select syllable `x` of the bundle, `left` more to follow. -/
def State.atSyl (s : State) (x : Syl) (left : Nat) : State := { s with cur := { s.cur with syl := x.i, left := left } }

/-- Syllable `x` tried on the state in which the bundle reads: the state that it would leave, were it not the last. -/
def State.trySyl (ex : Meaning) (s : State) (x : Syl) : Out := ex x.instr (s.atSyl x 1)

def outState (s : State) (o : Out) : State :=
  match o with
  | .next t => t
  | _ => s

/-- The bundle's syllables that end in `v` when tried on `s`, in the order of their units. -/
def State.triedAs (ex : Meaning) (s : State) (xs : List Syl) (v : Verdict) : List (Syl × State) :=
  (xs.map (fun x => (x, outState s (s.trySyl ex x)))).filter (fun p => p.2.cur.verdict == v)

/-- Run the syllables `xs` for real, in turn; the last one closes the bundle unless `open_`. -/
def State.runSyls (ex : Meaning) (open_ : Bool) : List Syl → State → Out
  | [], s => .next s
  | x :: xs, s =>
    match ex x.instr (s.atSyl x (xs.length + (if open_ then 1 else 0))) with
    | .next t => t.runSyls ex open_ xs
    | o => o

def ofSlot (xs : List Syl) (sl : Slot) : List Syl := xs.filter (fun x => x.slot == sl)

/-- The trap of the trial `t` is ILLEGAL. -/
def State.triedIllegal (t : State) (k : Nat) : Bool := wf (t.lcAt k).tcause 7 0 == cIllegal

/-- What keeps the syllables of a bundle from going on together: the first trap in the order of the units, the vector unit's
element faults after the others' issue; then a stall; then how the vector syllable stops. -/
def State.bundleStop (ex : Meaning) (s : State) (k : Nat) (xs : List Syl) : Option State :=
  let vs := ofSlot xs .v
  let os := ofSlot xs .s ++ ofSlot xs .m ++ ofSlot xs .g
  let trap (ys : List Syl) : Option State := (s.triedAs ex ys .trapped).head?.map Prod.snd
  let vIllegal : Option State := ((s.triedAs ex vs .trapped).filter (fun p => p.2.triedIllegal k)).head?.map Prod.snd
  (trap (ofSlot xs .s)).or (vIllegal.or ((trap (ofSlot xs .m)).or ((trap (ofSlot xs .g)).or
    (((s.triedAs ex os .stalled).head?.map Prod.snd).or
      ((trap vs).or ((s.triedAs ex vs .stalled).head?.map Prod.snd))))))

/-- A bundle of several syllables that keeps R32: all of them go on, or none (R33). With `halt` the others act first, and
the bundle retires once the engines have drained (07_traps.md R148). -/
def State.runMany (ex : Meaning) (s : State) (k : Nat) (xs : List Syl) : Out :=
  let others := ofSlot xs .v ++ ofSlot xs .m ++ ofSlot xs .g
  let halts := xs.any (fun x => match x.instr with
    | .halt _ _ => true
    | _ => false)
  if halts then
    if (s.lcAt k).ep.handed then
      let rill := ((ofSlot xs .v).map (fun x => rillOf x.word)).headD Rill.none
      ({ s with cur := { s.cur with rill := rill } }).runSyls ex false (ofSlot xs .s)
    else
      match s.bundleStop ex k others with
      | some t => .next t
      | none =>
        match s.runSyls ex true others with
        | .next t =>
          let l := t.lcAt k
          let l := match t.cur.regWrite with
            | some (d, v) => l.setReg true d v
            | none => l
          let l := match t.cur.descWrite with
            | some (d, v) => { l with descs := l.descs.put d v 0 }
            | none => l
          .next ((t.setLc k { l with ep := { l.ep with handed := true, stall := some .drain } }).verdict .stalled)
        | o => o
  else
    match s.bundleStop ex k xs with
    | some t => .next t
    | none => s.runSyls ex false (others ++ ofSlot xs .s)

/-- Run the bundle of words `ws` at the cursor. -/
def State.runBundle (ex : Meaning) (s : State) (k : Nat) (ws : List Nat) : Out :=
  match bundleFault ws with
  | some i => ex (.illegal i) { s with cur := { s.cur with syl := i, bundle := true } }
  | none =>
    match sylsOf ws with
    | [x] => ex x.instr (s.atSyl x 0)
    | xs => s.runMany ex k xs

/-! ## Streams -/

/-- Put the cursor on an instruction of `n` words at `pc`. -/
def State.aim (s : State) (a : Agent) (pc : Word) (n : Nat) (vector : Bool) : State :=
  { s with cur := ⟨some a, pc, pc + toW (4 * n), 0, 0, none, none, vector, false, Rill.none, .idle⟩ }

/-- The logical core whose stream may run on physical core `c` (07_traps.md R140, R143, R147, R150). -/
def State.streamLc (s : State) (ep : Bool) (c : Nat) : Option Nat :=
  let p := s.coreAt c
  match p.active with
  | none => none
  | some k =>
    let l := s.lcAt k
    if p.runs && !s.mcDue && l.trapReq.isNone && l.esc.isNone && !l.ended && !l.deadlocked && !(s.ctxAt l.ctx).halted
        && (if ep then !l.trapMode && !l.ep.halted else l.trapMode || !l.ap.halted) then some k
    else none

/-- Sluice core `n` may run (15_sluice.md R281). -/
def State.sluiceRuns (s : State) (n : Nat) : Bool :=
  let x := s.slAt n
  x.bound && x.running && !(s.ctxAt x.ctx).halted

/-- The stream that agent `a` runs, and the address of its next instruction. -/
def State.streamOf (s : State) (a : Agent) : Option (Who × Word) :=
  match a with
  | .ap c => (s.streamLc false c).map (fun k => (.core false c k, (s.lcAt k).ap.pc))
  | .ep c => (s.streamLc true c).map (fun k => (.core true c k, (s.lcAt k).ep.pc))
  | .sluice n => if s.sluiceRuns n then some (.sluice n, (s.slAt n).pc) else none

/-- Go on with what a fetch gives: a fault is the instruction's, a page not present is waited for. -/
def State.fetched {α : Type} (s : State) (w : Who) (x : Acc (α × State)) (f : α → State → Out) : Out :=
  match x with
  | .ok (v, s1) => f v s1
  | .fault c a t => .next (s.raiseAcc w 1 c a t)
  | .wait j p => .next (s.stallOn w (.page j p))

/-- The instruction that a word, with the literal after it, stands for outside the EP; ILLEGAL when it does not decode. -/
def decodedAs (w : Nat) (lit : Option Nat) : Instr × Nat :=
  match decodeWords false w lit with
  | .ok r => r
  | .error _ => (.illegal 0, 1)

/-- Run the next word of an AP or a Sluice core, with its literal. -/
def State.runWord (ex : Meaning) (s : State) (a : Agent) (w : Who) (pc : Word) : Out :=
  let s0 := s.aim a pc 1 false
  s0.fetched w (s0.fetchWord w pc) (fun x s1 =>
    if bit27 x && takesLiteral x then
      s1.fetched w (s1.fetchWord w (pc + 4)) (fun y s2 =>
        let (i, n) := decodedAs x (some y)
        ex i (s2.aim a pc n false))
    else ex (decodedAs x none).1 s1)

/-- The bundle holds a vector syllable. -/
def hasVector (ws : List Nat) : Bool := ws.any (fun w => slotOf w == .v)

/-- Run the next bundle of an EP. -/
def State.runEp (ex : Meaning) (s : State) (c k : Nat) (pc : Word) : Out :=
  let w := Who.core true c k
  let s0 := s.aim (.ep c) pc 1 false
  s0.fetched w (s0.fetchBundle k pc 4) (fun ws s1 => (s1.aim (.ep c) pc ws.length (hasVector ws)).runBundle ex k ws)

/-- Agent `a` runs its next instruction; with none to run, nothing happens. -/
def State.runAgent (ex : Meaning) (s : State) (a : Agent) : Out :=
  match s.streamOf a with
  | none => s.nothing
  | some (w, pc) =>
    match w with
    | .core true c k => s.runEp ex c k pc
    | _ => s.runWord ex a w pc

/-! ## One beat of a vector syllable -/

/-- Put the cursor on the vector syllable of the next bundle of physical core `c`'s EP, when the bundle keeps R32 and its
other syllables can go on; its verdict says whether. -/
def State.aimBeat (ex : Meaning) (s : State) (c : Nat) : State :=
  match s.streamOf (.ep c) with
  | some (.core true _ k, pc) =>
    match (s.aim (.ep c) pc 1 false).fetchBundle k pc 4 with
    | .ok (ws, s1) =>
      let s2 := s1.aim (.ep c) pc ws.length true
      let xs := sylsOf ws
      let vs := ofSlot xs .v
      let os := xs.filter (fun x => x.slot != .v)
      match bundleFault ws, vs with
      | none, [v] =>
        if (os.all (fun x => (outState s2 (s2.trySyl ex x)).cur.verdict == .done)) && !(s2.lcAt k).ep.handed then
          (s2.atSyl v 1).verdict .done
        else s.verdict .idle
      | _, _ => s.verdict .idle
    | _ => s.verdict .idle
  | _ => s.verdict .idle

/-- One beat of vector syllable `v`. -/
def State.beat (s : State) (w : Who) (k : Nat) (v : VOp) : Out :=
  let l := s.lcAt k
  if v.illegal l then .next (s.illegal w 2)
  else
    match s.issue w v.use with
    | .illegal => .next (s.illegal w 2)
    | .stall _ => s.nothing
    | .go =>
      if (v.short l).isSome ∨ v.work l ≤ l.vdone then s.nothing
      else if v.operand l then .next (s.raise w 2 cVectorOperand 0)
      else
        match s.vstep k v with
        | .ok s1 steps flags nan mag pos => (s1.vcommit k v.num steps flags nan mag pos).happened
        | .fault c a t => .next (s.raiseAcc w 2 c a t)
        | .wait j p => .next (s.stallOn w (.page j p))
        | .assist => .next (s.raise w 2 cSubnormalAssist 0)

/-- VECTOR_BEAT: the EP of physical core `core` carries out the next beat of its vector syllable, which the step has put the
cursor on. -/
def execVectorBeat (core : Nat) (s : State) : Out :=
  match s.who with
  | some (.core true c k) =>
    if c = core ∧ s.cur.verdict = .done then
      match s.fetchCore k s.wordPc with
      | .ok (x, _) =>
        match decodeWord x with
        | .ok i =>
          match i.vop with
          | some v => s.beat (.core true c k) k v
          | none => s.nothing
        | .error _ => s.nothing
      | _ => s.nothing
    else s.nothing
  | _ => s.nothing

/-! ## ILLEGAL -/

/-- ILLEGAL: the running stream's word, or syllable `syl` of its bundle, raises ILLEGAL (R46, 07_traps.md R138). A fault of
the whole bundle carries UNIT 1. -/
def execIllegal (syl : Nat) (s : State) : Out :=
  match s.who with
  | some w =>
    let s1 := { s with cur := { s.cur with syl := syl } }
    match w with
    | .core true _ k =>
      let unit := if s.cur.bundle then 1 else
        match s.fetchCore k (s.cur.pc + toW (4 * syl)) with
        | .ok (x, _) => (slotOf x).unit
        | _ => 1
      .next (s1.illegal w unit)
    | _ => .next (s1.illegal w 1)
  | none => s.nothing

end Sys2Proof.Machine
end

