-- ==== Sys2Proof/Machine/Swap.lean ====
section
/-! DEFINITION. Trap entry and escalation as events of a core, bank swaps, the spill engine, rotation, the pages of the
local store, and mutual blocking (07_traps.md R140 to R152, R371; 08_memory.md R157, R159; 13_streams.md R243, R244). -/

namespace Sys2Proof.Machine

/-! ## Traps (R141, R143, R147) -/

/-- TRAP_ENTRY: the units of physical core `core` have stopped for a detected fault; the trap is taken. -/
def execTrapEntry (core : Nat) (s : State) : Out :=
  match (s.coreAt core).active with
  | none => s.nothing
  | some k =>
    match (s.lcAt k).trapReq with
    | none => s.nothing
    | some t => (s.takeTrap core k t).happened

/-- ESCALATION: the trap of the active logical core goes to firmware, and its suspension by a swap is requested. -/
def execEscalation (core : Nat) (s : State) : Out :=
  let p := s.coreAt core
  match p.active with
  | none => s.nothing
  | some k =>
    match (s.lcAt k).esc with
    | none => s.nothing
    | some e =>
      if e.passed then s.nothing
      else
        let s1 := s.setLc k { s.lcAt k with esc := some { e with passed := true } }
        let p1 := { p with swapReq := if 1 < p.rot.length then p.swapReq.or (some .escalate) else p.swapReq }
        ((s1.setCore core p1).report (.escalation k e.reason e.info.cause)).happened

/-- Cycles of a quantum (R152). -/
def quantumLen : Nat := 165000

/-- Set flags bit 1 of the current record of physical core `c` (R144). -/
def State.markOverrun (s : State) (c k : Nat) : State :=
  let pa := paFault (s.lcAt k).ctx + 256 * c + 5
  s.setRaws pa [s.rawByte pa ||| 2]

/-- HANDLER_OVERRUN: a handler in trap mode for a quantum escalates, with flags bit 1 of the record set (R144). -/
def execHandlerOverrun (core : Nat) (s : State) : Out :=
  match (s.coreAt core).active with
  | none => s.nothing
  | some k =>
    let l := s.lcAt k
    if l.trapMode ∧ l.esc = none ∧ quantumLen ≤ l.trapCycles then
      ((s.markOverrun core k).escalate k .overrun l.trapInfo).happened
    else s.nothing

/-- The handler-registration service of an escalated TRAP 31 (R147): g2 of the AP becomes TVEC when it is an aligned address
in the kernel's AP binary, and 0 otherwise. -/
def LCore.registerHandler (l : LCore) : LCore :=
  let g2 := l.ap.regs.atD 2 0
  if g2.toNat % 4 = 0 ∧ l.kern.apBase ≤ g2.toNat ∧ g2.toNat < l.kern.apBase + l.kern.apSize then { l with tvec := g2 }
  else { l with ap := { l.ap with regs := l.ap.regs.put 2 0 0 } }

/-- The trap is a PAGE-FAULT on an entry of the local-store map that is not allotted (08_memory.md R157). -/
def LCore.unallotted (l : LCore) (t : TrapInfo) : Bool :=
  let a := t.addr.toNat
  t.cause == cPageFault && decide (winLocal ≤ a ∧ a < winLocal + 2 ^ 21) && !l.lsAllotted ((a - winLocal) / 16384)

/-- FIRMWARE_RESUME: firmware ends an escalation. It resumes the logical core as `rett` would, or fails its context, as it must
where the page can never be allotted. -/
def execFirmwareResume (lc : Nat) (s : State) : Out :=
  match s.lcores.at? lc with
  | none => s.nothing
  | some l =>
    match l.esc with
    | none => s.nothing
    | some e =>
      if e.passed = false ∨ (s.ctxAt l.ctx).halted then s.nothing
      else if l.unallotted e.info then (s.failCtx l.ctx e.info.cause).happened
      else
        let l1 := if e.info.cause = 47 then l.registerHandler else l
        (s.setLc lc l1.resume).happened

/-- FIRMWARE_HANDLER_RETURN: after `escal`, the handler goes on with TSTATUS.ESC set. -/
def execFirmwareHandlerReturn (lc : Nat) (s : State) : Out :=
  match s.lcores.at? lc with
  | none => s.nothing
  | some l =>
    match l.esc with
    | some ⟨.escal _, t, true⟩ =>
      if (s.ctxAt l.ctx).halted then s.nothing
      else if l.unallotted t then (s.failCtx l.ctx t.cause).happened
      else (s.setLc lc { l with tstatus := l.tstatus ||| 4, esc := none, trapCycles := 0 }).happened
    | _ => s.nothing

/-! ## Local-store pages (08_memory.md R157) -/

/-- Physical pages of core `c` that a resident logical core holds. -/
def LCore.pages (l : LCore) : List Nat := ((List.range 128).filter l.lsPresent).map l.lsPage

def State.pageTaken (s : State) (c n : Nat) : Bool := (s.coreAt c).rot.any (fun k => (s.lcAt k).pages.contains n)

/-- The lowest free physical page of core `c`. -/
def State.freePage (s : State) (c : Nat) : Option Nat := (List.range 128).find? (fun n => !s.pageTaken c n)

/-- The logical cores whose pages may be evicted for logical core `k`, the first choice first: the non-active ones of core `c`,
the one that becomes active last first. While a swap brings `k` in, the outgoing one comes last (DEDUCED, log entry 54). -/
def State.givers (s : State) (c k : Nat) : List Nat :=
  let p := s.coreAt c
  match p.active with
  | some a => if a = k then (p.after k).reverse else ((p.after a).filter (· != k)).reverse ++ [a]
  | none => (p.after k).reverse

/-- The page to evict when none is free: the highest entry of the first of the givers that has a present page. -/
def State.victim (s : State) (c k : Nat) : Option (Nat × Nat) :=
  match (s.givers c k).find? (fun j => decide ((s.lcAt j).pages ≠ [])) with
  | none => none
  | some j => ((List.range 128).reverse.find? (s.lcAt j).lsPresent).map (fun v => (j, v))

/-- Write entry `v` of a local-store map: allotted, and present at `page` when given. -/
def LCore.setEntry (l : LCore) (v : Nat) (page : Option Nat) : LCore :=
  let e := match page with
    | some n => 0xC000 + n % 128
    | none => 0x8000
  { l with lsmap := l.lsmap.put v (BitVec.ofNat 16 e) 0 }

/-- Evict present page `v` of logical core `j` on core `c` into its saved copy. -/
def State.evictPage (s : State) (c j v : Nat) : State :=
  let l := s.lcAt j
  let pa := paLocal c + l.lsPage v * 16384
  let bytes := (SMap.cut s.mem pa (pa + 16384)).move pa (16384 * v)
  s.setLc j { (l.setEntry v none) with saved := SMap.splice l.saved (16384 * v) (16384 * v + 16384) bytes 0 }

/-- Put page `v` of logical core `k` at physical page `n` of core `c`: its saved copy, or, the first time, undefined bytes. -/
def State.fillPage (s : State) (c k v n : Nat) : State :=
  let l := s.lcAt k
  let pa := paLocal c + n * 16384
  let bytes := if l.lsused.atD v false then (SMap.cut l.saved (16384 * v) (16384 * v + 16384)).move (16384 * v) pa
    else freshPage s.free pa
  let l1 := { (l.setEntry v (some n)) with
    lsused := l.lsused.put v true false
    saved := SMap.splice l.saved (16384 * v) (16384 * v + 16384) [] 0 }
  { s.setLc k l1 with mem := SMap.splice s.mem pa (pa + 16384) bytes 0, free := if l.lsused.atD v false then s.free else s.free + 1 }

/-- Assign page `v` of logical core `k`, resident on core `c`, after any eviction. -/
def State.assignPage (s : State) (c k v : Nat) : State :=
  match s.freePage c with
  | some n => s.fillPage c k v n
  | none =>
    match s.victim c k with
    | none => s
    | some (j, w) => (s.evictPage c j w).fillPage c k v ((s.lcAt j).lsPage w)

/-- LS_PAGE_ASSIGN: an allotted page of an active logical core is assigned. -/
def execLsPageAssign (lc page : Nat) (s : State) : Out :=
  match s.lcores.at? lc with
  | none => s.nothing
  | some l =>
    match l.loc with
    | .banked c =>
      if (s.coreAt c).active = some lc ∧ page < 128 ∧ l.lsAllotted page ∧ l.lsPresent page = false
          ∧ ((s.freePage c).isSome ∨ (s.victim c lc).isSome) then (s.assignPage c lc page).happened
      else s.nothing
    | _ => s.nothing

/-- The evicted pages of logical core `k` come back before its swap completes. -/
def State.refillPages (s : State) (c k : Nat) : State :=
  (List.range 128).foldl (fun s v =>
    let l := s.lcAt k
    if l.lsAllotted v && l.lsused.atD v false && !l.lsPresent v then s.assignPage c k v else s) s

/-! ## Bank swap (R150) -/

/-- A trap of logical core `k` is in progress: a swap waits for its end, but not for one that firmware holds (R144, R147). -/
def State.trapping (s : State) (k : Nat) : Bool :=
  let l := s.lcAt k
  l.trapReq.isSome || l.deadlocked ||
  (match l.esc with
    | some e => !e.passed
    | none => l.trapMode)

/-- BANK_SWAP: a requested swap starts, once the incoming logical core is in the shadow bank and no trap is in progress. A
request with no logical core to bring in does nothing. -/
def execBankSwap (core : Nat) (s : State) : Out :=
  let p := s.coreAt core
  if p.swapReq = none ∨ p.swapping ≠ none ∨ p.power ≠ .awake then s.nothing
  else
    match s.nextIn core with
    | none => (s.setCore core { p with swapReq := none }).happened
    | some k =>
      if p.shadow ≠ some k ∨ p.held ∨ p.busy then s.nothing
      else
        let go (s : State) : Out := (s.setCore core { p with swapping := some 64, swapReq := none }).happened
        match p.active with
        | none => go s
        | some a =>
          if s.trapping a then s.nothing
          else go (s.setLc a (((s.lcAt a).stopVector false).stopEngines))

/-- The incoming logical core is active: a held status goes to its token register (R60), and its streams test their
conditions again. -/
def LCore.activate (l : LCore) : LCore :=
  let l2 := (l.cgRelease false).cgRelease true
  { l2 with
    ap := { l2.ap with stall := none, stallCycles := 0 }
    ep := { l2.ep with stall := none, stallCycles := 0 }
    twWait := 0
    epBusy := false
    spare := [] }

/-- BANK_SWAP_END: after 64 core cycles the banks have changed roles; the spill of the outgoing logical core begins. -/
def execBankSwapEnd (core : Nat) (s : State) : Out :=
  let p := s.coreAt core
  match p.swapping, p.shadow with
  | some 0, some k =>
    let s1 := s.refillPages core k
    let s2 := s1.setLc k ((s1.lcAt k).activate.count 13 1)
    (s2.setCore core { p with
      active := some k
      shadow := p.active
      swapping := none
      quantum := 0
      busy := p.active.isSome
      held := false
      offset := 0 }).happened
  | _, _ => s.nothing

/-! ## The spill engine (R151) -/

/-- The inactive bank is to be emptied: it is being spilled, or a swap waits for another logical core than it holds. -/
def State.spills (s : State) (c : Nat) : Bool :=
  let p := s.coreAt c
  p.shadow.isSome && !p.held && p.swapping.isNone
    && (p.busy || (p.swapReq.isSome && (match s.nextIn c with
      | some k => p.shadow != some k
      | none => false)))

/-- The spill engine writes bytes `off` up to `off + n` of the record of logical core `k` into its save area. -/
def State.saveBytes (s : State) (k off n : Nat) : State := s.setRaws (paSave k + off) ((((s.lcAt k).record 0).drop off).take n)

/-- SPILL_STORE: the spill engine writes the next bytes of the record, in ascending order; or a save store faults at `faulted`,
which holds the spill and is reported as a pinning error. -/
def execSpillStore (core bytes : Nat) (faulted : Option Nat) (s : State) : Out :=
  if s.spills core = false then s.nothing
  else
    let p := s.coreAt core
    let off := if p.busy then p.offset else 0
    if recSize ≤ off then s.nothing
    else
      match faulted with
      | some va =>
        let ctx := ((p.shadow.map (fun k => (s.lcAt k).ctx)).getD 0)
        ((s.setCore core { p with busy := true, held := true, offset := off }).report (.pinning ctx (toW va))).happened
      | none =>
        if bytes = 0 then s.nothing
        else
          let n := min bytes (recSize - off)
          let s1 := match p.shadow with
            | some k => s.saveBytes k off n
            | none => s
          (s1.setCore core { p with busy := true, offset := off + n }).happened

/-- SPILL_RESUME: firmware has mapped the page; the spill goes on from OFFSET. -/
def execSpillResume (core : Nat) (s : State) : Out :=
  let p := s.coreAt core
  if p.held then (s.setCore core { p with held := false }).happened else s.nothing

/-- SPILL_END: the last byte is written; the bank is empty. -/
def execSpillEnd (core : Nat) (s : State) : Out :=
  let p := s.coreAt core
  match p.shadow with
  | none => s.nothing
  | some k =>
    if p.busy ∧ p.held = false ∧ p.offset = recSize then
      ((s.setCore core { p with busy := false, shadow := none }).setLc k { s.lcAt k with loc := .spilled core }).happened
    else s.nothing

/-- SHADOW_FILL_END: the free bank has been filled from the record of the next logical core. -/
def execShadowFillEnd (core : Nat) (s : State) : Out :=
  let p := s.coreAt core
  if p.shadow ≠ none ∨ p.busy ∨ p.held ∨ p.swapping ≠ none then s.nothing
  else
    match s.nextIn core with
    | none => s.nothing
    | some k => ((s.setCore core { p with shadow := some k }).setLc k { s.lcAt k with loc := .banked core }).happened

/-! ## Rotation (R152, R371) -/

/-- QUANTUM_EXPIRY. A quantum that has run out while the logical core was alone stays expired: rotation comes as soon as another
one arrives (DESIGN CHOICE: the spec does not say whether it starts again; log entry 55). -/
def execQuantumExpiry (core : Nat) (s : State) : Out :=
  let p := s.coreAt core
  if p.active.isSome ∧ quantumLen ≤ p.quantum ∧ 1 < p.rot.length ∧ p.swapReq = none ∧ p.swapping = none then (s.askRotate core).happened else s.nothing

/-- The logical core has reached a blocking wait. -/
def LCore.blocked (l : LCore) : Bool :=
  decide (4096 < l.ap.stallCycles) || decide (4096 < l.ep.stallCycles) || decide (4096 < l.twWait)

/-- BLOCKING_WAIT: the active logical core has reached a blocking wait, and rotation is requested. -/
def execBlockingWait (core : Nat) (s : State) : Out :=
  let p := s.coreAt core
  match p.active with
  | none => s.nothing
  | some k =>
    if (s.lcAt k).blocked ∧ 1 < p.rot.length ∧ p.swapReq = none ∧ p.swapping = none then (s.askRotate core).happened else s.nothing

/-! ## Multicast (08_memory.md R159) -/

/-- MULTICAST_LAND: the multicast stores that are due land, in the order of `State.multicasts`. -/
def State.landMulticasts (s : State) : State :=
  let due := s.multicasts.filter (fun m => decide (m.at_ ≤ s.ticks))
  due.foldl State.mcLand { s with multicasts := s.multicasts.filter (fun m => decide (s.ticks < m.at_)) }

def execMulticastLand (s : State) : Out := if s.mcDue then s.landMulticasts.happened else s.nothing

/-! ## Mutual blocking (13_streams.md R244) -/

/-- Syllable `x` names what the EP stalls on. -/
def Syl.names (x : Syl) (why : StallOn) : Bool :=
  match why with
  | .queueEmpty n _ => x.instr.regs.1.contains (24 + n)
  | .queueFull n => x.instr.regs.2.contains (24 + n)
  | .cqEmpty => match x.instr with
    | .bcq _ _ _ => true
    | .bncq _ _ _ => true
    | _ => false
  | .rillNext => (x.slot == .s || x.slot == .v) && (rillOf x.word).wn
  | _ => false

/-- The first syllable of the EP's bundle that names what it stalls on. -/
def State.blockingSyl (s : State) (k : Nat) : Nat :=
  let l := s.lcAt k
  match l.ep.stall, s.fetchBundle k l.ep.pc 4 with
  | some why, .ok (ws, _) => (((sylsOf ws).find? (fun x => x.names why)).map Syl.i).getD 0
  | _, _ => 0

/-- The EP of logical core `k` raises QUEUE-DEADLOCK, and DLCNT returns to 0. -/
def State.raiseDeadlock (s : State) (k : Nat) : State :=
  let l := s.lcAt k
  (s.setLc k { l with dlcnt := 0 }).detect k ⟨cQueueDeadlock, 1, s.blockingSyl k, true, l.ep.pc, 0⟩ false

/-- The logical core of physical core `core` on which QUEUE-DEADLOCK is due. -/
def State.deadlockOn (s : State) (core : Nat) : Option Nat :=
  (s.engineLc core).filter (fun k => (s.lcAt k).deadlocked && (s.lcAt k).trapReq.isNone)

/-- QUEUE_DEADLOCK: DLCNT has reached 2^20. -/
def execQueueDeadlock (core : Nat) (s : State) : Out :=
  match s.deadlockOn core with
  | none => s.nothing
  | some k => (s.raiseDeadlock k).happened

/-! ## What the next core cycle cannot wait for -/

/-- The trap of physical core `core` whose units have had their 64 core cycles to stop (07_traps.md R140). -/
def State.trapDue (s : State) (core : Nat) : Option (Nat × TrapInfo) :=
  match (s.coreAt core).active with
  | none => none
  | some k =>
    match (s.lcAt k).trapReq with
    | none => none
    | some t => if 64 ≤ (s.cycle - (s.lcAt k).trapAt).toNat then some (k, t) else none

/-- A QUEUE-DEADLOCK that is due on physical core `core` is raised, and a trap whose time is up is taken. -/
def State.settleTraps (s : State) (core : Nat) : State :=
  let s1 := match s.deadlockOn core with
    | some k => s.raiseDeadlock k
    | none => s
  match s1.trapDue core with
  | some (k, t) => s1.takeTrap core k t
  | none => s1

end Sys2Proof.Machine
end

