-- ==== Sys2Proof/Machine/ImageIO.lean ====
section
/-! DEFINITION. FREEZE: how a context is stopped, and the image that is written of it (18_context_image.md R323 to R333;
15_sluice.md R279). -/

namespace Sys2Proof.Machine

/-! ## Packets that leave at once -/

/-- Flow `f` of Sluice core `n` sends a control packet now, whatever holds the flow (R279). -/
def State.sendNow (s : State) (n f op : Nat) : State :=
  let x := s.slAt n
  let p := 3 * n + x.flowPort f
  let path := (nextPath (x.flow f 1) (x.fst f).last).getD 0
  let s1 := s.setSl n (x.setFst f { x.fst f with last := path })
  (s1.transmit n p (x.flowSa f) (wireSize 0) (fun c => Sent.packet p (x.flowAddr f) (x.flowDport f)
    ((x.flowEnt f + path) % 65536) (x.flowSa f) c (controlHdr op (x.flowPctx f) 0 0 0 0) [])).getD s

/-- The Sluice cores bound to a context. -/
def State.sluicesOf (s : State) (ctx : Nat) : List Nat := (s.sluices.filter (fun p => p.2.bound && p.2.ctx == ctx)).map Prod.fst

/-- Every valid flow of the context sends a control packet. -/
def State.sendAll (s : State) (ctx op : Nat) : State :=
  (s.sluicesOf ctx).foldl (fun s n => ((s.slAt n).listed.filter (s.slAt n).flowV).foldl (fun s f => s.sendNow n f op) s) s

/-! ## The parts of a context -/

/-- Pad or cut to `n` bytes. -/
def padTo (n : Nat) (bs : List Byte) : List Byte := bs.take n ++ List.replicate (n - bs.length) 0

/-- Dispatched nodes of a context, in node-number order: the teams of its image. -/
def State.teamsOf (s : State) (ctx : Nat) : List (Nat × Node) := s.nodes.filter (fun p => p.2.ctx == ctx && p.2.dispatched)

def insertNode (p : Nat × Node) : List (Nat × Node) → List (Nat × Node)
  | [] => [p]
  | r :: rs => if p.2.order < r.2.order then p :: r :: rs else r :: insertNode p rs

/-- Nodes of a context that are not dispatched, in pool-entry order. -/
def State.poolOf (s : State) (ctx : Nat) : List (Nat × Node) :=
  (s.nodes.filter (fun p => p.2.ctx == ctx && !p.2.dispatched)).foldl (fun l p => insertNode p l) []

/-- The logical cores of a context's teams, in the order of the CORE section. -/
def State.coreKeys (s : State) (ctx : Nat) : List Nat :=
  (s.teamsOf ctx).flatMap (fun p => (List.range p.2.lcount).map (lcKey p.1))

/-- Pages of a logical core that the PAGES section records. -/
def LCore.recorded (l : LCore) : List Nat := (List.range 128).filter l.pageRecorded

def State.queuesOf (s : State) (ctx : Nat) : List Nat := (s.queues.filter (fun p => p.2.enabled && p.2.ctx == ctx)).map Prod.fst
def State.slotsOf (s : State) (ctx : Nat) : List Nat := (s.slots.filter (fun p => p.2.state != 0 && p.2.ctx == ctx)).map Prod.fst
def State.seqsOf (s : State) (ctx : Nat) : List Nat :=
  (List.range 4096).filter (fun e => wf (s.seqWord e 0) 63 62 != 0 && wf (s.seqWord e 0) 15 0 == ctx)
def Ctx.runningColls (c : Ctx) : List (Nat × Coll) := c.colls.filter (fun p => p.2.state == 1)
/-- Dies on which the context has a grant. -/
def Ctx.dies (c : Ctx) : List Nat := (List.range 4).filter (fun d => c.grantSize d != 0)

/-- Bytes at a virtual address of the context, as its translation gives them; 0 where it gives none. -/
def State.virtBytes (s : State) (ctx va n : Nat) : List Byte :=
  (List.range (n / 4096)).flatMap (fun i =>
    match s.place ctx (2 ^ 40) .load (va + 4096 * i) with
    | .ok (.phys pa _) => s.physBytes pa 4096
    | _ => List.replicate 4096 0)

/-! ## Sizes (R329) -/

/-- A section: type, count, entry size (0 for variable), size. -/
structure Section where
  kind : Nat
  count : Nat
  entsize : Nat
  size : Nat
  deriving DecidableEq, Repr

def Section.fixed (kind count entsize : Nat) : Section := ⟨kind, count, entsize, count * entsize⟩

/-- The CSIZE-byte slices of a staged node's bytes: a SPARSE one may take several (log entry 59). -/
def TDesc.slices (t : TDesc) (bs : List Byte) : List (List Byte) :=
  (List.range (max 1 (ceilDiv bs.length t.csize))).map (fun i => padTo t.csize (bs.drop (i * t.csize)))

/-- The nodes of a STAGE entry: each slice with the key of its node. -/
def TDesc.staged (t : TDesc) (st : Stage) : List (Nat × List Byte) :=
  st.leaves.flatMap (fun l => (t.slices l.2).map (fun b => (l.1, b)))

/-- The length of a STAGE entry. -/
def stageLen (t : TDesc) (st : Stage) : Nat := 20 + 8 * ceilDiv t.ncontrib 64 + (t.staged st).length * (3 + t.csize)

/-- The CALLs that wait on flow `f` of Sluice core `n` (R333, type 4): the object names the core and the flow, the argument is the
ticket. -/
def Sluice.owedCalls (x : Sluice) (n : Nat) : List Trig :=
  x.flowSt.flatMap (fun p => p.2.queue.filterMap (fun o =>
    match o with
    | .control h => if uAt h 1 1 = 8 then some ⟨4, p.1 + n * 2 ^ 16, uAt h 0x1C 4⟩ else none
    | .chunk _ _ _ => none))

/-- The trigger list of the context: what has been decided and has not fired, and BARRIERs under evaluation (R333). -/
def State.triggersOf (s : State) (ctx : Nat) : List Trig :=
  ((s.sluicesOf ctx).flatMap (fun n =>
    (s.slAt n).transfers.flatMap (fun p =>
      match p.2.gate with
      | none => []
      | some (g, k) =>
        let d := (s.ctxAt ctx).tdesc g
        if p.2.state = 1 then
          ((List.range p.2.n).filter (fun i => (p.2.chunk i).gated && d.v && s.gateOpen ctx d (k + i))).map
            (fun i => ⟨1, i + p.1 * 2 ^ 16 + n * 2 ^ 32, 0⟩)
        else [])))
  ++ (s.queuesOf ctx).flatMap (fun q =>
      ((s.queueAt q).started.filter (fun p => p.kind == 2 && !p.completed)).map (fun p => ⟨2, q + p.entry * 2 ^ 32, 0⟩))
  ++ ((s.teamsOf ctx).filter (fun p => s.teamHalted p.1)).map (fun p => ⟨3, p.1, 0⟩)
  ++ (s.sluicesOf ctx).flatMap (fun n => (s.slAt n).owedCalls n)

/-- The sections of the context's image, in ascending type order; only CORE and SYNC stand without an entry (R327, R328). -/
def State.sections (s : State) (ctx : Nat) : List Section :=
  let c := s.ctxAt ctx
  let keys := s.coreKeys ctx
  let stage := c.stage.map (fun p => stageLen (c.tdesc (p.1 / 2 ^ 28)) p.2)
  let all : List Section := [
    .fixed 1 keys.length 32768,
    .fixed 2 (s.teamsOf ctx).length 64,
    .fixed 3 (s.poolOf ctx).length 320,
    .fixed 4 ((keys.map (fun k => (s.lcAt k).recorded.length)).foldl (· + ·) 0) 16384,
    .fixed 5 1 131072,
    .fixed 6 (if c.tnsListed.any (fun t => (c.tdesc t).v) then 1 else 0) 262144,
    .fixed 7 (if (List.range 64).any c.rangeV then 1 else 0) 1536,
    .fixed 8 c.runningColls.length 256,
    ⟨9, stage.length, 0, stage.foldl (· + ·) 0⟩,
    ⟨10, c.dies.length, 0, (c.dies.map (fun d => 24 + c.grantSize d)).foldl (· + ·) 0⟩,
    .fixed 11 (s.triggersOf ctx).length 32,
    .fixed 12 (s.sluicesOf ctx).length 1048576,
    .fixed 13 (s.queuesOf ctx).length 64,
    .fixed 14 (s.seqsOf ctx).length 128,
    .fixed 15 (s.slotsOf ctx).length 8256]
  all.filter (fun x => x.count != 0 || x.kind == 1)

/-- The next 4 KiB boundary. -/
def alignPage (n : Nat) : Nat := ceilDiv n 4096 * 4096

/-- Offsets of the sections, the first one at 0x1000. -/
def place4k : Nat → List Section → List (Nat × Section)
  | _, [] => []
  | o, x :: xs => (o, x) :: place4k (alignPage (o + x.size)) xs

/-- The image size: the end of the last section (R329). -/
def imageSize (xs : List Section) : Nat := ((place4k 4096 xs).getLast?.map (fun p => p.1 + p.2.size)).getD 4096

def State.imageSizeOf (s : State) (ctx : Nat) : Nat := imageSize (s.sections ctx)

/-! ## Section bodies (Table 2) -/

def u8 (n : Nat) : List Byte := bytesOf 1 n
def u16 (n : Nat) : List Byte := bytesOf 2 n
def u32 (n : Nat) : List Byte := bytesOf 4 n
def u64 (n : Nat) : List Byte := bytesOf 8 n

/-- The CORE section: PAGES entries are numbered in the same order. -/
def State.coreBody (s : State) : Nat → List Nat → List Byte
  | _, [] => []
  | base, k :: ks => (s.lcAt k).record base ++ s.coreBody (base + (s.lcAt k).recorded.length) ks

def State.teamBody (s : State) : Nat → List (Nat × Node) → List Byte
  | _, [] => []
  | first, (n, x) :: r =>
    u16 n ++ u8 x.slot ++ u8 x.kernel ++ u8 x.prio ++ u8 (lGang x.image) ++ u8 x.queue ++ u8 x.origin ++ u32 x.lcount
    ++ u32 first ++ u64 (lCsig x.image) ++ u64 (lRecord x.image) ++ u64 x.dstamp ++ x.lvl.flatMap u16 ++ u32 x.entry ++ u32 x.id
    ++ s.teamBody (first + x.lcount) r

def poolEntry (p : Nat × Node) : List Byte :=
  let x := p.2
  padTo 256 x.image ++ u16 p.1 ++ u8 (if x.held then 1 else 0) ++ u8 (if x.pred.isSome then 1 else 0) ++ u8 x.queue ++ u8 x.origin
  ++ u16 0 ++ u32 x.entry ++ padTo 52 []

def pageBody (l : LCore) : List Byte :=
  l.recorded.flatMap (fun v => (List.range 16384).map (fun o => l.saved.atD (16384 * v + o) 0))

def collEntry (p : Nat × Coll) : List Byte :=
  padTo 256 (padTo 128 p.2.record ++ u8 p.1 ++ u8 p.2.state ++ (cIdx p.2.record p.2.walked).flatMap u16
    ++ u32 p.2.emitted ++ u32 p.2.completed ++ u32 p.2.budget)

def Ctx.stageEntry (c : Ctx) (p : Nat × Stage) : List Byte :=
  let t := c.tdesc (p.1 / 2 ^ 28)
  u32 (stageLen t p.2) ++ u16 (p.1 / 2 ^ 28) ++ u16 0 ++ u32 (p.1 % 2 ^ 28) ++ u64 p.2.elapsed
  ++ bytesOf (8 * ceilDiv t.ncontrib 64) (p.2.bits.foldl (fun a i => a + 2 ^ i) 0)
  ++ (t.staged p.2).flatMap (fun l => u8 (l.1 / 65536) ++ u16 (l.1 % 65536) ++ l.2)

def State.basinEntry (s : State) (c : Ctx) (d : Nat) : List Byte :=
  u64 (24 + c.grantSize d) ++ u8 d ++ padTo 7 [] ++ u64 (c.grantSize d) ++ s.rawBytes (paBasin d + c.grantBase d) (c.grantSize d)

def Trig.bytes (t : Trig) : List Byte := u16 t.kind ++ padTo 6 [] ++ u64 t.object ++ bytesOf 16 t.arg

def eventBytes (r : List Word) : List Byte := (List.range 4).flatMap (fun i => u64 (r.getD i 0).toNat)

/-- A transfer of Table 4. -/
def Transfer.bytes (t : Transfer) : List Byte := padTo 64 (padTo 48 t.desc ++ u16 t.flow ++ u8 t.state)

/-- A SLUICE entry (Table 4). -/
def Sluice.imageBytes (n : Nat) (x : Sluice) : List Byte :=
  padTo 0x10000 (u64 n ++ u64 x.pc.toNat ++ (List.range 31).flatMap (fun i => u64 (x.reg (i + 1)).toNat)
    ++ [x.svec, x.sepc, x.scause, x.staddr, x.sstatus, x.sscratch].flatMap (fun w => u64 w.toNat))
  ++ padTo 0x10000 ((List.range 4096).flatMap (fun i => u64 (x.flows.atD i 0).toNat))
  ++ (List.range 256).flatMap (fun i => match x.timers.at? i with
    | some (left, tag) => u64 (left % 2 ^ 63 + 2 ^ 63) ++ u64 tag
    | none => padTo 16 [])
  ++ padTo (0x40000 - 0x21000) (u64 x.evq.length ++ padTo 24 [] ++ padTo 8192 (x.evq.flatMap eventBytes)
    ++ (List.range 260).flatMap (fun i => match x.pending.at? i with
      | some r => eventBytes r
      | none => padTo 32 []))
  ++ (List.range 4096).flatMap (fun h => match x.transfers.at? h with
    | some t => t.bytes
    | none => padTo 64 [])
  ++ x.sramBytes 0 262144 ++ padTo 0x40000 []

/-- W3 and W4 of a queue (14_host_queues.md Table 2). -/
def State.queueW3 (s : State) (q : Nat) : Nat := (s.queueAt q).prog * 2 ^ 32 + (s.queueAt q).latch % 2 ^ 32
def State.queueW4 (s : State) (q : Nat) : Nat :=
  let x := s.queueAt q
  x.errcnt * 65536 + bit x.err 5 + bit (s.hpend q) 4 + bit x.frozen 3 + bit x.res 2 + x.state

/-- The COPY of the queue that has stopped: bytes done and entry. -/
def HostQ.copyAt (x : HostQ) : Nat × Nat :=
  match x.firstCopy with
  | some p => (p.copied, p.entry)
  | none => (0, 0)

def State.queueEntry (s : State) (q : Nat) : List Byte :=
  let x := s.queueAt q
  u8 q ++ padTo 7 [] ++ u64 x.w0.toNat ++ u64 x.w1.toNat ++ u64 x.w2.toNat ++ u64 (s.queueW3 q) ++ u64 (s.queueW4 q)
  ++ u64 x.copyAt.1 ++ u32 x.copyAt.2 ++ u32 x.next

def State.seqEntry (s : State) (e : Nat) : List Byte :=
  u16 e ++ padTo 30 [] ++ (List.range 12).flatMap (fun i => u64 (s.seqWord e i).toNat)

def State.slotRecord (s : State) (i : Nat) : List Byte :=
  let x := s.slotAt i
  u8 i ++ u8 x.nk ++ padTo 6 [] ++ u64 (x.stepno * 2 ^ 32 + x.steps.length) ++ padTo 8192 (x.steps.flatMap u16) ++ padTo 48 []

/-- The body of a section; `after` is the state in which FREEZE has completed, for the queues. -/
def State.sectionBody (s after : State) (ctx kind : Nat) : List Byte :=
  let c := s.ctxAt ctx
  match kind with
  | 1 => s.coreBody 0 (s.coreKeys ctx)
  | 2 => s.teamBody 0 (s.teamsOf ctx)
  | 3 => (s.poolOf ctx).flatMap poolEntry
  | 4 => (s.coreKeys ctx).flatMap (fun k => pageBody (s.lcAt k))
  | 5 => s.virtBytes ctx c.sotab 131072
  | 6 => (List.range 32768).flatMap (fun i => u64 (c.tns.atD i 0).toNat)
  | 7 => (List.range 192).flatMap (fun i => u64 (c.ranges.atD i 0).toNat)
  | 8 => c.runningColls.flatMap collEntry
  | 9 => c.stage.flatMap c.stageEntry
  | 10 => c.dies.flatMap (s.basinEntry c)
  | 11 => (s.triggersOf ctx).flatMap Trig.bytes
  | 12 => (s.sluicesOf ctx).flatMap (fun n => (s.slAt n).imageBytes n)
  | 13 => (s.queuesOf ctx).flatMap after.queueEntry
  | 14 => (s.seqsOf ctx).flatMap s.seqEntry
  | _ => (s.slotsOf ctx).flatMap s.slotRecord

/-! ## The header (Table 1) -/

/-- head and OVF of the context's dirty-log control block. -/
def State.dlogBlock (s : State) (ctx : Nat) : Nat × Bool :=
  match s.place ctx (2 ^ 40) .load (s.ctxAt ctx).dlPtr with
  | .ok (.phys pa _) => (ofBytes (s.physBytes (pa + 8) 4), (s.physByte (pa + 17)).getLsbD 0)
  | _ => (0, false)

def dirEntry (p : Nat × Section) : List Byte :=
  u16 p.2.kind ++ u16 1 ++ u32 p.2.count ++ u64 p.1 ++ u64 p.2.size ++ u32 p.2.entsize ++ u32 0

def State.imageHeader (s : State) (ctx : Nat) (xs : List Section) : List Byte :=
  let c := s.ctxAt ctx
  let teams := s.teamsOf ctx
  let (head, ovf) := if c.dlPtr = 0 then (0, false) else s.dlogBlock ctx
  let keys := s.coreKeys ctx
  let flags := bit (keys.any (fun k => (s.lcAt k).kern.timed)) 0 + bit ovf 1 + bit (keys.any (fun k => (s.lcAt k).esc.isSome)) 2
  padTo 4096 (padTo 256 (u32 0x43564844 ++ u16 0x0100 ++ u16 flags ++ u64 (imageSize xs) ++ u16 ctx ++ u16 xs.length ++ u32 keys.length
    ++ u32 ((teams.map (fun p => ceilDiv p.2.lcount 8)).foldl (· + ·) 0) ++ u32 teams.length ++ u64 s.cycle.toNat ++ u64 c.dlPtr
    ++ u32 head ++ u8 (bit c.dlArmed 0 + bit c.dlE 1))
  ++ (place4k 4096 xs).flatMap dirEntry)

/-- The sections' bytes by offset, each filled up with zeros to the next one; the image ends with the last (R329). -/
def sectionPieces (body : Nat → List Byte) : List (Nat × Section) → List (Nat × List Byte)
  | [] => []
  | [p] => [(p.1, padTo p.2.size (body p.2.kind))]
  | p :: r => (p.1, padTo (alignPage p.2.size) (body p.2.kind)) :: sectionPieces body r

/-- The pieces of the image: offset and bytes. -/
def State.imagePieces (s after : State) (ctx : Nat) : List (Nat × List Byte) :=
  let xs := s.sections ctx
  (0, s.imageHeader ctx xs) :: sectionPieces (s.sectionBody after ctx) (place4k 4096 xs)

/-- Write the image at physical address `pa`; bytes between sections are zero (R2). -/
def State.writeImage (s after : State) (ctx pa : Nat) : State :=
  (s.imagePieces after ctx).foldl (fun t p => t.setPhyss (pa + p.1) p.2) after

/-! ## FREEZE (R324) -/

/-- The pages of a logical core leave the local store for its save area. -/
def State.savePages (s : State) (c k : Nat) : State :=
  ((List.range 128).filter (s.lcAt k).lsPresent).foldl (fun s v => s.evictPage c k v) s

/-- A logical core is swapped out and spilled, to be at `loc`: its record is in its save area, and SPILLPOS of the core whose bank
it left shows a finished spill (03_registers.md R66). -/
def State.spillOut (s : State) (k : Nat) (loc : Loc) : State :=
  let l := s.lcAt k
  let s1 := s.savePages l.core k
  let l1 := ((s1.lcAt k).stopVector false).stopEngines
  let s2 := (s1.setLc k { l1 with loc := loc }).evictLcore k
  match l.loc with
  | .banked c => (s2.saveBytes k 0 recSize).setCore c { s2.coreAt c with held := false, busy := false, offset := recSize }
  | _ => s2

/-- Step 2: a logical core of a context that is being frozen is swapped out. -/
def State.swapOut (s : State) (k : Nat) : State := s.spillOut k .frozen

/-- The logical cores of a context. -/
def State.lcoresOf (s : State) (ctx : Nat) : List Nat := s.lcores.keysWhere (fun l => l.ctx == ctx)

/-- Nothing keeps the logical cores of the context from being swapped out: no handler runs, no spill is held, no swap is in
progress on their cores, and every packet that must complete first has. -/
def State.canSwapOut (s : State) (ctx : Nat) : Bool :=
  (s.lcoresOf ctx).all (fun k => !s.trapping k)
  && s.cores.all (fun p => !(p.2.rot.any (fun k => (s.lcAt k).ctx == ctx)) || (!p.2.held && p.2.swapping.isNone))
  && (s.queuesOf ctx).all (fun q => (s.queueAt q).started.all (fun p =>
      p.completed || (p.kind != 8 && (p.kind != 4 || (s.queueAt q).firstCopy == some p))))

/-- The largest RTO of the flows of a context's Sluice cores, or 2^24 when every RTO is 0 (R279). -/
def State.drainTime (s : State) (ctx : Nat) : Nat :=
  let rto := (s.sluicesOf ctx).foldl (fun a n => flowNums.foldl (fun b f => max b ((s.slAt n).flowRto f)) a) 0
  if rto = 0 then 2 ^ 24 else rto

/-- Every flow of a Sluice core sets HOLD. -/
def Sluice.holdAll (x : Sluice) : Sluice := flowNums.foldl (fun x f => x.setHold f true) x

/-- Step 2, and the first step of R279. -/
def State.freezeStop (s : State) (ctx : Nat) (z : Freeze) : State :=
  let s1 := (s.lcoresOf ctx).foldl State.swapOut s
  let sl := s1.sluicesOf ctx
  let s2 := sl.foldl (fun s n => s.setSl n (s.slAt n).holdAll) s1
  let c := s2.ctxAt ctx
  s2.setCtx ctx { c with
    freeze := some { z with swapped := true, until_ := s2.slTicks + (if sl = [] then 0 else s2.drainTime ctx), drained := sl.isEmpty } }

/-- Set or clear FROZEN in every queue of a context (R265). -/
def State.setFrozen (s : State) (ctx : Nat) (on : Bool) : State :=
  (s.queuesOf ctx).foldl (fun s q => s.setQ q { s.queueAt q with frozen := on }) s

/-- A FREEZE packet that keeps the rules begins, its size known. -/
def State.startFreeze (s : State) (q n : Nat) : State :=
  let ctx := (s.queueAt q).ctx
  let c := s.ctxAt ctx
  if c.frozen then s.setCtx ctx { c with freeze := some ⟨q, n, true, 0, true⟩ }
  else
    let z : Freeze := ⟨q, n, false, 0, false⟩
    let s1 := (s.setFrozen ctx true).setCtx ctx { c with freeze := some z }
    if s1.canSwapOut ctx then s1.freezeStop ctx z else s1

/-- FREEZE: a FREEZE packet starts (one with too small a capacity fails without acting); or one that waits for handlers,
spills or packets stops its logical cores and Sluice cores. -/
def execFreeze (q : Nat) (s : State) : Out :=
  let ctx := (s.queueAt q).ctx
  match (s.ctxAt ctx).freeze with
  | some z => if z.swapped = false ∧ z.queue = q ∧ s.canSwapOut ctx then (s.freezeStop ctx z).happened else s.nothing
  | none =>
    s.starts q (· == 6) (fun n b =>
      s.checked q n b 1 [firstNonzero b 0x10 0x18, bad (uAt b 0x18 8 % 65536 != 0) 0x18,
          bad (decide (uAt b 0x20 8 < s.imageSizeOf ctx)) 0x20, firstNonzero b 0x28 0x40]
        (fun s1 => s1.startFreeze q n))

/-- FREEZE_DRAIN_TIMEOUT: the wait for acknowledgements ends, and PAUSE leaves on every valid flow (R279). -/
def execFreezeDrainTimeout (ctx : Nat) (s : State) : Out :=
  let c := s.ctxAt ctx
  match c.freeze with
  | none => s.nothing
  | some z =>
    if z.swapped = false ∨ z.drained ∨ s.slTicks < z.until_ then s.nothing
    else
      let s1 := s.sendAll ctx 4
      (s1.setCtx ctx { s1.ctxAt ctx with freeze := some { z with drained := true } }).happened

/-- The FREEZE of the context has come to step 5: all that was under way has been performed (R325). -/
def State.readyToWrite (s : State) (ctx : Nat) : Option Freeze :=
  let c := s.ctxAt ctx
  match c.freeze with
  | none => none
  | some z =>
    if z.drained && c.claims.isEmpty && c.waiting.isEmpty && s.multicasts.all (fun m => (s.lcAt m.writer).ctx != ctx) then some z
    else none

/-- The context is frozen; its FREEZE is no longer in progress. -/
def State.markFrozen (s : State) (ctx : Nat) : State := s.setCtx ctx { s.ctxAt ctx with freeze := none, frozen := true }

/-- FREEZE_IMAGE_WRITTEN: steps 5 and 6. -/
def execFreezeImageWritten (ctx : Nat) (s : State) : Out :=
  match s.readyToWrite ctx with
  | none => s.nothing
  | some z =>
    let pa := match (s.queueAt z.queue).running z.entry with
      | some p => uAt p.bytes 0x18 8
      | none => 0
    ((s.writeImage ((s.markFrozen ctx).completePacket z.queue z.entry false) ctx pa)).happened

end Sys2Proof.Machine
end

