-- ==== Sys2Proof/Machine/Thaw.lean ====
section
/-! DEFINITION. THAW: the checks of an image and the restoration of a context from it (18_context_image.md R328, R334 to R337;
22_prog_fabric.md R369). -/

namespace Sys2Proof.Machine

/-! ## Reading an image -/

/-- The field of `n` bytes at offset `o` of the image at `pa`. -/
def State.im (s : State) (pa o n : Nat) : Nat := ofBytes (s.physBytes (pa + o) n)

/-- A directory entry (Table 1). -/
structure Dir where
  kind : Nat
  flags : Nat
  count : Nat
  off : Nat
  size : Nat
  entsize : Nat
  deriving DecidableEq, Repr

def State.dirAt (s : State) (pa i : Nat) : Dir :=
  let o := 0x100 + 32 * i
  ⟨s.im pa o 2, s.im pa (o + 2) 2, s.im pa (o + 4) 4, s.im pa (o + 8) 8, s.im pa (o + 16) 8, s.im pa (o + 24) 4⟩

def State.dirsOf (s : State) (pa : Nat) : List Dir := (List.range (s.im pa 0x12 2)).map (s.dirAt pa)

/-- An image as it is read: where it lies and its directory. -/
structure Img where
  pa : Nat
  dirs : List Dir
  deriving DecidableEq, Repr

def State.imgAt (s : State) (pa : Nat) : Img := ⟨pa, s.dirsOf pa⟩

def Img.sec (m : Img) (kind : Nat) : Option Dir := m.dirs.find? (fun d => d.kind == kind)

/-- Where entry `i` of the fixed-size section `kind` begins. -/
def Img.entryPa (m : Img) (kind i : Nat) : Nat :=
  match m.sec kind with
  | some d => m.pa + d.off + i * d.entsize
  | none => m.pa

def Img.count (m : Img) (kind : Nat) : Nat := (m.sec kind).elim 0 Dir.count

/-- The entries of a section of fixed-size entries. -/
def State.entriesOf (s : State) (m : Img) (kind : Nat) : List (List Byte) :=
  match m.sec kind with
  | some d => (List.range d.count).map (fun i => s.physBytes (m.entryPa kind i) d.entsize)
  | none => []

/-- The entries of a section whose entries begin with their length in `w` bytes. -/
def State.varEntries (s : State) (w : Nat) : Nat → Nat → List (List Byte)
  | 0, _ => []
  | n + 1, at_ =>
    let len := ofBytes (s.physBytes at_ w)
    s.physBytes at_ len :: s.varEntries w n (at_ + len)

def State.varOf (s : State) (m : Img) (kind w : Nat) : List (List Byte) :=
  match m.sec kind with
  | some d => s.varEntries w d.count (m.pa + d.off)
  | none => []

/-- Entry sizes of Table 2. -/
def entsizes : List Nat := [32768, 64, 320, 16384, 131072, 262144, 1536, 256, 0, 0, 32, 1048576, 64, 128, 8256]

/-- End of the range that a device can read from `pa`. -/
def readEnd (pa : Nat) : Nat := if pa < 2 ^ 39 then 2 ^ 39 else if isHostPa pa then 0x8000000000000 else 0

/-- The first bad field of directory entry `i`. -/
def Dir.badAt (d : Dir) (size i : Nat) : Option Nat :=
  let o := 0x100 + 32 * i
  match entsizes[d.kind - 1]? with
  | some e =>
    if d.kind = 0 then (if d.flags % 2 = 1 then some o else none)
    else firstBad [bad (d.off % 4096 != 0 || decide (d.off < 4096)) (o + 8), bad (decide (size < d.off + d.size)) (o + 16),
      bad (d.entsize != e || (e != 0 && d.size != d.count * e)) (o + 24)]
  | none => if d.flags % 2 = 1 then some o else none

/-- Check 1: the offset of the first bad field. -/
def State.badImage (s : State) (pa : Nat) : Option Nat :=
  let m := s.imgAt pa
  let size := s.im pa 8 8
  firstBad ([bad (s.im pa 0 4 != 0x43564844) 0, bad (s.im pa 4 2 != 0x0100) 4, bad (decide (size < 4096 ∨ readEnd pa < pa + size)) 8,
      bad (decide (m.dirs = [] ∨ 120 < m.dirs.length)) 0x12]
    ++ (List.range m.dirs.length).map (fun i => (s.dirAt pa i).badAt size i)
    ++ [bad ((m.sec 1).isNone || (m.sec 5).isNone) 0x12])

/-! ## Teams and their placement (R335 step 3) -/

/-- A TEAM entry. -/
structure TeamIn where
  node : Nat
  slot : Nat
  kernel : Nat
  prio : Nat
  gang : Nat
  queue : Nat
  origin : Nat
  lcount : Nat
  first : Nat
  csig : Nat
  record : Nat
  dstamp : Nat
  lvl : List Nat
  entry : Nat
  id : Nat
  deriving DecidableEq, Repr

def TeamIn.of (b : List Byte) : TeamIn :=
  ⟨uAt b 0 2, uAt b 2 1, uAt b 3 1, uAt b 4 1, uAt b 5 1, uAt b 6 1, uAt b 7 1, uAt b 8 4, uAt b 12 4, uAt b 16 8, uAt b 24 8,
    uAt b 32 8, (List.range 8).map (fun i => uAt b (40 + 2 * i) 2), uAt b 56 4, uAt b 60 4⟩

def State.teamsIn (s : State) (m : Img) : List TeamIn := (s.entriesOf m 2).map TeamIn.of

/-- A terrace group: its kernel's units, the die it prefers, and its logical cores. -/
structure Group where
  units : Nat
  die : Nat
  n : Nat
  deriving DecidableEq, Repr

def State.groupsIn (s : State) (ts : List TeamIn) : List Group :=
  ts.flatMap (fun t =>
    (List.range (ceilDiv t.lcount 8)).map (fun g =>
      match (s.slotAt t.slot).images[t.kernel]? with
      | some m => ⟨m.at_ 0x4F 1, dPoint m t.lvl (8 * g) % 4, min 8 (t.lcount - 8 * g)⟩
      | none => ⟨0, 0, min 8 (t.lcount - 8 * g)⟩))

/-- Cores that hold no logical core and are not fenced. -/
def State.freeCores (s : State) : List Nat :=
  (List.range 256).filter (fun c =>
    !s.fencedCores.contains c && (s.coreAt c).rot.isEmpty && (s.coreAt c).active.isNone && (s.coreAt c).shadow.isNone)

def insertUp (x : Nat) : List Nat → List Nat
  | [] => [x]
  | y :: ys => if x ≤ y then x :: y :: ys else y :: insertUp x ys
def sortUp (l : List Nat) : List Nat := l.foldr insertUp []

/-- The lowest `k` of the rising `cs` that can take their shares of `n` logical cores, from place `j` of `k` on: core `j` takes
those whose number is `j` modulo `k`, and no core takes more than eight. -/
def sharersOf (n k : Nat) (g : Load) : Nat → List Nat → List Nat
  | _, [] => []
  | j, c :: cs =>
    if k ≤ j then []
    else if g.given c + ceilDiv (n - j) k ≤ 8 then c :: sharersOf n k g (j + 1) cs
    else sharersOf n k g j cs

/-- Give logical core `i` of a group of `n` core `i` mod k of `cs`; no core takes more than eight. -/
def shareOut (cs : List Nat) (n units : Nat) (g : Load) : Option (List Nat × Load) :=
  if cs = [] then none
  else
    let xs := (List.range n).map (fun i => cs.getD (i % cs.length) 0)
    let g' := xs.foldl (fun g c => g.give c units) g
    if xs.all (fun c => decide (g'.given c ≤ 8)) then some (xs, g') else none

/-- Place a group on `k` cores of one terrace that earlier groups were given. -/
def shareGroup (k : Nat) (x : Group) (g : Load) : Option (List Nat × Load) :=
  ((List.range 8).map (8 * x.die + ·) ++ List.range 32).findSome? (fun t =>
    let cs := sharersOf x.n k g 0 (((List.range 8).map (8 * t + ·)).filter (fun c => decide (0 < g.given c)))
    if cs.length < k then none else shareOut cs x.n x.units g)

/-- Place one group on `k` cores: free ones while enough of the `w` remain, else cores given to earlier groups, fewer than `k` where
no terrace has `k` that can take it (log entry 60). -/
def State.thawGroup (s : State) (free : List Nat) (w k : Nat) (x : Group) (g : Load) : Option (List Nat × Load) :=
  if k ≤ w - g.length then
    match s.placeGroup ⟨fun l c => free.contains c && l.given c == 0, anyWake⟩ x.units x.die k g with
    | some (cs, _) => shareOut (sortUp cs) x.n x.units g
    | none => none
  else (List.range k).findSome? (fun i => shareGroup (k - i) x g)

def State.thawGroups (s : State) (free : List Nat) (w k : Nat) : List Group → Load → Option (List Nat)
  | [], _ => some []
  | x :: xs, g =>
    match s.thawGroup free w k x g with
    | none => none
    | some (cs, g1) => (s.thawGroups free w k xs g1).map (cs ++ ·)

/-- A core for each logical core of the image, in the order of the CORE section. -/
def State.thawPlaces (s : State) (w : Nat) (gs : List Group) : Option (List Nat) :=
  s.thawGroups s.freeCores w (min 8 (max 1 (w / max 1 gs.length))) gs []

/-! ## Sluice cores -/

/-- The Sluice cores that a THAW for `ctx` may take. -/
def State.freeSluices (s : State) (ctx : Nat) (inPlace : Bool) : List Nat :=
  (List.range 16).filter (fun n => (!(s.slAt n).bound || (inPlace && (s.slAt n).ctx == ctx)) && s.hasPort n)

/-- Source Sluice core numbers of the image, and the cores chosen for them. -/
def State.sluiceMap (s : State) (m : Img) (ctx : Nat) (inPlace : Bool) : List (Nat × Nat) :=
  ((List.range (m.count 12)).map (fun i => ofBytes (s.physBytes (m.entryPa 12 i) 8))).zip (s.freeSluices ctx inPlace)

/-- The port map: source port 3s + i becomes 3s′ + i. -/
def mapPort (mp : List (Nat × Nat)) (p : Nat) : Nat :=
  match mp.find? (fun x => x.1 == p / 3) with
  | some x => 3 * x.2 + p % 3
  | none => p

/-! ## Tensor descriptors -/

/-- Words of the TENSOR section, with RPORT under the port map. -/
def State.tnsIn (s : State) (m : Img) (mp : List (Nat × Nat)) : SMap Word :=
  match m.sec 6 with
  | none => []
  | some _ =>
    (List.range 32768).filterMap (fun i =>
      let w := toW (ofBytes (s.physBytes (m.entryPa 6 0 + 8 * i) 8))
      let w := if i % 8 = 0 then setFld w 51 46 (mapPort mp (wf w 51 46)) else w
      if w = 0 then none else some (i, w))

/-- Staging reserved at port `p` by contexts other than `ctx`. -/
def State.stagingOthers (s : State) (p ctx : Nat) : Nat :=
  s.ctxs.foldl (fun a c => if c.1 = ctx then a else c.2.tnsListed.foldl (fun a i =>
    if (c.2.tdesc i).rport = p then a + (c.2.tdesc i).reserve else a) a) 0

/-- Check 7: the staging asked for at a port that cannot hold it, and what is free there. -/
def State.stagingShort (s : State) (ctx : Nat) (tns : SMap Word) : Option (Nat × Nat) :=
  let c : Ctx := { Ctx.fresh with tns := tns }
  (List.range 48).findSome? (fun p =>
    let need := c.tnsListed.foldl (fun a i => if (c.tdesc i).rport = p then a + (c.tdesc i).reserve else a) 0
    let room := s.stagingSize p - s.stagingOthers p ctx
    if room < need then some (need, room) else none)

/-! ## Gangs of the pool (R334 check 10) -/

/-- A POOL entry's LAUNCH image, queue and entry number. -/
def poolImage (b : List Byte) : List Byte := b.take 256
def poolQueue (b : List Byte) : Nat := uAt b 260 1
def poolEntryNo (b : List Byte) : Nat := uAt b 264 4

/-- POOL entry `b` is a member of the gang whose first member in the image is `a`: same queue and gang count, within its
entries. -/
def gangMate (a b : List Byte) : Bool :=
  let c := lGang (poolImage a)
  decide (2 ≤ c) && poolQueue a == poolQueue b && lGang (poolImage b) == c
    && decide (sub32 (poolEntryNo b) (poolEntryNo a) < 4 * c)

/-- The gangs of the POOL entries: the members of each, in order. -/
def poolGangs : Nat → List (List Byte) → List (List (List Byte))
  | 0, _ => []
  | _, [] => []
  | fuel + 1, b :: bs =>
    if lGang (poolImage b) < 2 then poolGangs fuel bs
    else (b :: bs.filter (gangMate b)) :: poolGangs fuel (bs.filter (fun x => !gangMate b x))

/-- Check 9 for the gang of the members `ms`: no other node stands in its entries, and its teams fit together. Members that the
image does not hold have completed without a dispatch, or are still to be read (log entries 53, 60). -/
def State.poolGangBad (s : State) (all ms : List (List Byte)) : Option Reject :=
  match ms with
  | [] => none
  | a :: _ =>
    let c := lGang (poolImage a)
    let alien := all.any (fun b => poolQueue b == poolQueue a && !gangMate a b && uAt b 261 1 / 4 % 2 == 0
      && decide (sub32 (poolEntryNo b) (poolEntryNo a) < 4 * c))
    let total := (ms.map (fun b => s.teamOf (poolImage b))).foldl (· + ·) 0
    if alien || decide (c < ms.length) || decide (8 * s.workingCores < total) then some ⟨8, ms.length, c⟩ else none

/-! ## The checks (R334, Table 6) -/

/-- What the context holds that a THAW may not find: nodes, logical cores and bound Sluice cores. -/
def State.holdings (s : State) (ctx : Nat) : Nat :=
  (s.nodes.filter (fun p => p.2.ctx == ctx)).length + (s.lcoresOf ctx).length + (s.sluicesOf ctx).length

def State.thawCheck (s : State) (q pa limit : Nat) : Option Reject :=
  let ctx := (s.queueAt q).ctx
  let c := s.ctxAt ctx
  let inPlace := c.frozen
  match s.badImage pa with
  | some o => some ⟨9, o, 0⟩
  | none =>
    let m := s.imgAt pa
    let ts := s.teamsIn m
    let loaded (i : Nat) : Bool := (s.slotAt i).state == 2 && (s.slotAt i).ctx == ctx
    let slot2 := ((s.entriesOf m 15).find? (fun b => !loaded (uAt b 0 1) || (s.slotAt (uAt b 0 1)).nk != uAt b 1 1)).map (fun b => uAt b 0 1)
    let slot2 := slot2.or ((ts.find? (fun t => !loaded t.slot)).map TeamIn.slot)
    let w := min limit s.freeCores.length
    let lcores := ts.foldl (fun a t => a + t.lcount) 0
    let mp := s.sluiceMap m ctx inPlace
    let seqBusy := (s.entriesOf m 14).find? (fun b =>
      wf (s.seqWord (uAt b 0 2) 0) 63 62 != 0 && !(inPlace && wf (s.seqWord (uAt b 0 2) 0) 15 0 == ctx))
    let basin := (s.varOf m 10 8).find? (fun b => decide (c.grantSize (uAt b 8 1) < uAt b 16 8))
    let qbad := (s.entriesOf m 13).find? (fun b =>
      let x := s.queueAt (uAt b 0 1)
      !x.enabled || x.ctx != ctx || x.isHandler != wbit (toW (uAt b 8 8)) 62 || uAt b 0 1 == q)
    let pool := s.entriesOf m 3
    let gangs := poolGangs pool.length pool
    let poolBad := pool.findSome? (fun b => (s.launchChecks ctx false (poolImage b)).or
      ((gangs.find? (fun ms => ms.head? == some b)).bind (s.poolGangBad pool)))
    let busy := !inPlace && (s.holdings ctx != 0 || !(s.seqsOf ctx).isEmpty || !c.runningColls.isEmpty)
    match slot2, s.thawPlaces w (s.groupsIn ts), seqBusy with
    | some i, _, _ => some ⟨1, i, 0⟩
    | none, none, _ => some ⟨3, lcores, 8 * w⟩
    | none, some _, some b => some ⟨17, uAt b 0 2, 0⟩
    | none, some _, none =>
      if (s.freeSluices ctx inPlace).length < m.count 12 then some ⟨18, m.count 12, (s.freeSluices ctx inPlace).length⟩
      else
        match basin, s.stagingShort ctx (s.tnsIn m mp) with
        | some b, _ => some ⟨5, uAt b 16 8, c.grantSize (uAt b 8 1)⟩
        | none, some (need, room) => some ⟨5, need, room⟩
        | none, none =>
          if busy then some ⟨19, s.holdings ctx, 0⟩
          else if !inPlace && qbad.isSome then some ⟨20, (qbad.map (fun b => uAt b 0 1)).getD 0, 0⟩
          else poolBad

/-! ## Restoring (R335) -/

/-- Remove what a frozen context still holds on the device: the image replaces it. -/
def State.dropFrozen (s : State) (ctx : Nat) : State :=
  let s1 := (s.seqsOf ctx).foldl (fun t e => t.setSeqWord e 0 (setFld (t.seqWord e 0) 63 62 0)) s
  { s1 with
    nodes := s1.nodes.filter (fun p => p.2.ctx != ctx)
    lcores := s1.lcores.filter (fun p => p.2.ctx != ctx)
    sluices := s1.sluices.mapV (fun x => if x.bound && x.ctx == ctx then { Sluice.fresh with sas := x.sas } else x) }

/-- Write bytes at a virtual address of the context, a page at a time; a page without a translation is passed over. -/
def State.virtWrite (s : State) (ctx va : Nat) : Nat → List Byte → State
  | 0, _ => s
  | n + 1, bs =>
    let s1 := match s.place ctx (2 ^ 40) .load va with
      | .ok (.phys pa _) => s.setPhyss pa (bs.take 4096)
      | _ => s
    s1.virtWrite ctx (va + 4096) n (bs.drop 4096)

/-- A record's payload of a SPARSE leaf, without the padding: pairs whose indices rise. -/
def risingPairs (n : Nat) : Nat → Option Nat → List Byte → List Byte
  | 0, _, _ => []
  | fuel + 1, last, bs =>
    let i := uAt bs 0 4
    if bs.length < n ∨ (match last with
      | some j => decide (i ≤ j)
      | none => false) = true then []
    else bs.take n ++ risingPairs n fuel (some i) (bs.drop n)

/-- A STAGE entry: its number in the table, and the chunk. A node's slices are joined under its level and index. -/
def stageIn (c : Ctx) (b : List Byte) : Nat × Stage :=
  let t := c.tdesc (uAt b 4 2)
  let k := uAt b 8 4
  let o := 20 + 8 * ceilDiv t.ncontrib 64
  let slices : SMap (List Byte) := (List.range ((b.length - o) / (3 + t.csize))).foldl (fun m i =>
    let p := (b.drop (o + i * (3 + t.csize)))
    let key := nodeKey (uAt p 0 1) (uAt p 1 2)
    SMap.ins m key ((m.at? key).getD [] ++ (p.drop 3).take t.csize)) []
  let body (bs : List Byte) : List Byte :=
    if t.mode = 2 then risingPairs (4 + elemSize t.etype) bs.length none bs else bs.take (t.chunkLen k)
  let bits := uAt b 20 (o - 20)
  (chunkKey (uAt b 4 2) k, ⟨uAt b 12 8, (List.range t.ncontrib).filter bits.testBit, slices.mapV body⟩)

/-- A COLL entry: its handle and the collective; what the entry does not hold is taken from `old`. Which logical core started one
that this device has not seen start is not recorded: every `fence fabric` of the context waits for it. -/
def collIn (mp : List (Nat × Nat)) (ranges : SMap Word) (old : SMap Coll) (b : List Byte) : Nat × Coll :=
  let r := b.take 5 ++ u8 (mapPort mp (uAt b 5 1)) ++ (b.drop 6).take 122
  let h := uAt b 128 1
  let i (n : Nat) := uAt b (130 + 2 * n) 2
  let walked := ((i 0 * cX r 1 + i 1) * cX r 2 + i 2) * cX r 3 + i 3
  let range := (List.range 64).find? (fun e => wf (ranges.atD (3 * e) 0) 63 62 == 3 && wf (ranges.atD (3 * e) 0) 7 0 == h)
  let (starter, node, bad_) := match old.at? h with
    | some x => (x.starter, x.node, x.bad)
    | none => (anyStarter, 0xFFFF, false)
  (h, ⟨r, uAt b 129 1, walked, uAt b 138 4, uAt b 142 4, uAt b 146 4, bad_, range, starter, node, 0⟩)

/-- Chunks that a restored REDUCE or SPARSE descriptor has completed: those whose arrival bits are set and whose contributor
record has been written. -/
def State.finishedIn (s : State) (ctx : Nat) : SMap Bool :=
  let c := s.ctxAt ctx
  c.tnsListed.flatMap (fun i =>
    let t := c.tdesc i
    let written (k : Nat) : Bool := (List.range 8).any (fun j => s.basinByte ctx (t.cmap + k * t.recLen + j) != 0)
    if t.v ∧ t.mode ≠ 0 then ((List.range t.n).filter (fun k => s.arrived ctx t k && written k)).map (fun k => (chunkKey i k, true))
    else [])

/-- The leaves' LE after a THAW: E while the restored log is disarmed, and its inverse when it is restored armed where it was not,
so that every page is unlogged (R331; DEDUCED, log entry 58). -/
def State.thawEpoch (s : State) (ctx : Nat) (old : Ctx) : State :=
  let c := s.ctxAt ctx
  let want := c.dlE != c.dlArmed
  if old.dlArmed || (old.dlE == want && !old.dlSettling) then s
  else
    let s1 := s.settleTable want 3 c.ptroot
    s1.setCtx ctx { s1.ctxAt ctx with dlSettling := false }

/-- Step 1, but for the queues: sync objects, descriptors, ranges, collectives, staging, basin, sequences, slots, the log. -/
def State.thawTables (s : State) (ctx : Nat) (m : Img) (mp : List (Nat × Nat)) : State :=
  let c := s.ctxAt ctx
  let tns := s.tnsIn m mp
  let ranges : SMap Word := match m.sec 7 with
    | none => []
    | some _ => (List.range 192).filterMap (fun i =>
        let w := toW (ofBytes (s.physBytes (m.entryPa 7 0 + 8 * i) 8))
        if w = 0 then none else some (i, w))
  let colls := (s.entriesOf m 8).map (collIn mp ranges c.colls)
  let c1 := { c with
    tns := tns
    ranges := ranges
    colls := colls.foldl (fun (t : SMap Coll) (p : Nat × Coll) => SMap.ins t p.1 p.2) []
    collCount := max 1 c.collCount
    dlPtr := s.im m.pa 0x28 8
    dlArmed := s.im m.pa 0x34 1 % 2 == 1
    dlE := s.im m.pa 0x34 1 / 2 % 2 == 1
    triggers := (s.entriesOf m 11).map (fun b => ⟨uAt b 0 2, uAt b 8 8, uAt b 16 16⟩) }
  let c2 := { c1 with stage := ((s.varOf m 9 4).map (stageIn c1)).foldl (fun (t : SMap Stage) (p : Nat × Stage) => SMap.ins t p.1 p.2) [] }
  let s1 := (s.setCtx ctx c2).virtWrite ctx c.sotab 32 (s.physBytes (m.entryPa 5 0) 131072)
  let s2 := (s.varOf m 10 8).foldl (fun t b => t.setRaws (paBasin (uAt b 8 1) + c.grantBase (uAt b 8 1)) (b.drop 24)) s1
  let s3 := (s.entriesOf m 14).foldl (fun t b =>
    t.setSeq (uAt b 0 2) 0 (setFld (toW (uAt b 32 8)) 15 0 ctx :: wordsOf (b.drop 40) 11)) s2
  let s4 := (s.entriesOf m 15).foldl (fun t b =>
    t.setSlot (uAt b 0 1) { t.slotAt (uAt b 0 1) with
      stepno := uAt b 12 4
      steps := (List.range (min 4096 (uAt b 8 4 % 8192))).map (fun i => uAt b (16 + 2 * i) 2) }) s3
  (s4.setCtx ctx { s4.ctxAt ctx with finished := s4.finishedIn ctx }).thawEpoch ctx c

/-! ### Sluice cores (Table 4) -/

/-- A transfer of a SLUICE entry: the collective that emitted it is found by its descriptor and flow. -/
def State.transferIn (s : State) (ctx n h : Nat) (b : List Byte) : Transfer :=
  let c := s.ctxAt ctx
  let desc := b.take 48
  let f := uAt b 48 2
  let found := c.colls.findSome? (fun p =>
    let r := p.2.record
    ((List.range (min p.2.walked (cPoints r))).find? (fun w => !cSkip r w && cDesc r w == desc && cFlowbase r + cPeer r w == f)).map
      (fun w => (p.1, r, w)))
  let (coll, gate, ackBit) := match found with
    | some (hd, r, w) =>
      (some hd, if cGate r then some (cF r 8 2, cGateChunk r w) else none,
        ((List.range w).filter (fun i => !cSkip r i)).length * cNchunk r)
    | none => (none, none, 0)
  let t : Transfer := ⟨desc, f, uAt b 50 1, [], coll, gate, ackBit, 0⟩
  let acked (k : Nat) : Bool := match s.bmpByte n (uAt desc 0x28 8 + (ackBit + k) / 8) with
    | .ok v => v.getLsbD ((ackBit + k) % 8)
    | _ => false
  let gated (k : Nat) : Bool := match gate with
    | some (g, k0) => !acked k && (!s.gateOpen ctx (c.tdesc g) (k0 + k)
        || c.triggers.any (fun x => x.kind == 1 && x.object % 2 ^ 32 == k + h * 2 ^ 16))
    | none => false
  { t with chunks := (List.range t.n).map (fun k => (k, ⟨if gated k then none else some s.slTicks, (s.slAt n).flowRto f, acked k, gated k⟩)) }

def eventIn (b : List Byte) : List Word := wordsOf b 4

/-- Step 2: a SLUICE entry at `pa` is restored on Sluice core `n`. -/
def State.thawSluice (s : State) (ctx n pa : Nat) : State :=
  let rd (o k : Nat) : Nat := ofBytes (s.physBytes (pa + o) k)
  let w (o : Nat) : Word := toW (rd o 8)
  let pend := (List.range 260).filterMap (fun i =>
    let r := eventIn (s.physBytes (pa + 0x21000 + 32 + 8192 + 32 * i) 32)
    if r.all (· == 0) then none else some (i, r))
  let x : Sluice := { Sluice.fresh with
    pc := w 8
    regs := (List.range 31).filterMap (fun i => if w (16 + 8 * i) = 0 then none else some (i + 1, w (16 + 8 * i)))
    svec := w 264 &&& ~~~ 3
    sepc := w 272
    scause := w 280 &&& 0xFF
    staddr := w 288
    sstatus := w 296 &&& 1
    sscratch := w 304
    sram := (List.range 262144).filterMap (fun o =>
      let b := s.physByte (pa + 0x80000 + o)
      if b = 0 then none else some (o, b))
    flows := (List.range 4096).filterMap (fun i => if w (0x10000 + 8 * i) = 0 then none else some (i, w (0x10000 + 8 * i)))
    timers := (List.range 256).filterMap (fun i =>
      if wbit (w (0x20000 + 16 * i)) 63 then some (i, (rd (0x20000 + 16 * i) 8 % 2 ^ 63, rd (0x20008 + 16 * i) 8)) else none)
    sas := (s.slAt n).sas
    evq := (List.range (min 256 (rd 0x21000 8))).map (fun i => eventIn (s.physBytes (pa + 0x21020 + 32 * i) 32))
    pending := pend
    xferCount := 1
    ctx := ctx
    bound := true
    running := true }
  let s1 := s.setSl n x
  let ts := (List.range 4096).filterMap (fun h =>
    let b := s.physBytes (pa + 0x40000 + 64 * h) 64
    if uAt b 50 1 = 0 then none else some (h, s1.transferIn ctx n h b))
  s1.setSl n { x with transfers := ts }

/-! ### Nodes -/

/-- A node number: the image's, or the lowest free one where that is taken. -/
def State.nodeNumber (s : State) (n : Nat) : Nat := if (s.nodes.at? n).isNone then n else (s.freeNode).getD n

/-- The LAUNCH image of a team, from its TEAM entry and the launch registers of its first logical core. -/
def TeamIn.launchImage (t : TeamIn) (shape rel : List Byte) : List Byte :=
  u8 1 ++ u8 (t.origin % 4) ++ u8 4 ++ u8 0 ++ u32 t.id ++ u64 t.csig ++ u8 t.slot ++ u8 t.kernel ++ u16 t.gang ++ u32 0 ++ u64 0
  ++ u64 t.record ++ padTo 24 [] ++ rel ++ shape

/-- The node of a TEAM entry. -/
def State.teamNode (s : State) (ctx : Nat) (m : Img) (t : TeamIn) (cores : Nat) : Node :=
  let pa := m.entryPa 1 t.first
  let b := t.launchImage (s.physBytes (pa + 0x330) 64) (s.physBytes (pa + 0x370) 128)
  { ctx := ctx, slot := t.slot, kernel := t.kernel, image := b, queue := t.queue, entry := t.entry, id := t.id, origin := t.origin,
    prio := t.prio, age := s.cycle.toNat, order := s.nodeOrder, held := false, preds := [], pred := none, gang := none, gangSize := 1, lvl := t.lvl,
    lcount := t.lcount,
    lstore := ((s.slotAt t.slot).images[t.kernel]?).elim 0 (fun i => i.lstoreOf b),
    dispatched := true, dstamp := t.dstamp, cores := cores, step := (s.slotAt t.slot).stepno, readyAt := none, starved := false }

/-! ### Logical cores (R369) -/

/-- Word `i` of CORE entry `j`. -/
def State.coreWord (s : State) (m : Img) (j i : Nat) : Word := toW (ofBytes (s.physBytes (m.entryPa 1 j + 8 * i) 8))

/-- The page that entry `v` of the local-store map of CORE entry `j` names. -/
def State.coreMap (s : State) (m : Img) (j v : Nat) : Nat := ofBytes (s.physBytes (m.entryPa 1 j + 0x700 + 4 * v) 4)

/-- The issue number after the latest of the queued copy and gather commands (13_streams.md R241). -/
def LCore.nextSeq (l : LCore) : Nat :=
  match (l.ceFifo ++ l.geFifo).map CgCmd.seq with
  | [] => 0
  | n :: ns => (ns.foldl (fun a b => if earlier a b then b else a) n + 1) % 2 ^ 32

/-- Logical core `lcid` of node `n` from CORE entry `j`, resident on core `c`; `old` is the frozen one of a THAW in place. -/
def State.lcoreIn (s : State) (ctx n lcid : Nat) (kern : Kern) (m : Img) (j c : Nat) (old : Option LCore) : LCore :=
  let vs := List.range 128
  let al := vs.filter (fun v => (s.coreMap m j v).testBit 31)
  let used := al.filter (fun v => (s.coreMap m j v).testBit 30)
  let base : LCore := { LCore.fresh with
    ctx := ctx
    node := n
    lcid := lcid
    kern := kern
    loc := .spilled c
    launch := (List.range 43).foldl (fun r i => r.put (launchSel i) (s.coreWord m j (102 + i)) 0) []
    lsmap := al.map (fun v => (v, 0x8000))
    lsused := used.map (fun v => (v, true))
    saved := used.flatMap (fun v =>
      let pa := m.entryPa 4 (s.coreMap m j v % 2 ^ 24)
      (List.range 16384).filterMap (fun o => if s.physByte (pa + o) = 0 then none else some (16384 * v + o, s.physByte (pa + o)))) }
  let l := base.ofRecord 0 ((List.range 4096).map (s.coreWord m j))
  let l1 := { l with trapUnit := wf l.tcause 15 8, ended := l.ap.halted && l.ep.halted, spare := [], cgSeq := l.nextSeq }
  let l2 := if l1.trapMode then { l1 with ap := { l1.ap with pc := (old.map (fun o => o.ap.pc)).getD l1.apResume } } else l1
  if wbit (s.coreWord m j 0) 34 then
    { l2 with esc := (old.bind LCore.esc).or (some ⟨if l2.trapMode then .escal 0 else .noHandler, l2.trapInfo, true⟩) }
  else l2

/-- Put key `k` into a rotation list in ascending LCOREID. -/
def State.rotInsert (s : State) (k : Nat) : List Nat → List Nat
  | [] => [k]
  | j :: js => if (s.lcAt k).lcid < (s.lcAt j).lcid then k :: j :: js else j :: s.rotInsert k js

/-- Core `c` takes its rotation list: the first entry into the active bank, where its held statuses are written (R330), the second
into the shadow bank. -/
def State.thawCore (s : State) (c : Nat) (ks : List Nat) : State :=
  let live := (ks.filter (fun k => !(s.lcAt k).ended)).foldl (fun r k => s.rotInsert k r) []
  let p := s.coreAt c
  match live with
  | [] => s
  | a :: r =>
    let banked := a :: r.take 1
    let s0 := banked.foldl (fun t k => t.setLc k { t.lcAt k with loc := .banked c }) s
    let s1 := s0.setLc a (s0.lcAt a).activate
    let s2 := s1.setCore c { p with
      rot := live
      active := some a
      shadow := r.head?
      swapReq := none
      swapping := none
      quantum := 0
      power := if p.power = .awake then .awake else .waking
      wake := if p.power = .waking then p.wake else p.wakeCost }
    live.foldl (fun t k => ((t.lcAt k).lsused.keys).foldl (fun t v =>
      match t.freePage c with
      | some n => t.fillPage c k v n
      | none => t) t) s2

/-- Create the logical cores of a team: numbers from `i` on, CORE entries from `j` on, on the cores `cs`. -/
def State.thawTeam (s : State) (olds : SMap LCore) (ctx n oldNode : Nat) (kern : Kern) (m : Img) : Nat → Nat → List Nat → State
  | _, _, [] => s
  | i, j, c :: cs =>
    (s.setLc (lcKey n i) (s.lcoreIn ctx n i kern m j c (olds.at? (lcKey oldNode i)))).thawTeam olds ctx n oldNode kern m (i + 1) (j + 1) cs

/-- Step 3: the teams, on the cores that the placement gave. -/
def State.thawTeams (s : State) (olds : SMap LCore) (ctx : Nat) (m : Img) : List TeamIn → List Nat → State
  | [], _ => s
  | t :: ts, cs =>
    let mine := cs.take t.lcount
    let n := s.nodeNumber t.node
    let kern := ((s.slotAt t.slot).images[t.kernel]?).elim Kern.zero (kernOf t.slot t.kernel)
    let s1 := { s.setNode n (s.teamNode ctx m t (distinct mine).length) with nodeOrder := s.nodeOrder + 1 }
    (s1.thawTeam olds ctx n t.node kern m 0 t.first mine).thawTeams olds ctx m ts (cs.drop t.lcount)

/-- The logical cores of the context that were given core `c`. -/
def State.givenTo (s : State) (ctx c : Nat) : List Nat := (s.lcoresOf ctx).filter (fun k => (s.lcAt k).core == c)

/-- The gang that POOL entry `b` joins: that of its first member, already restored, or a new one. -/
def State.gangIn (s : State) (ctx : Nat) (b : List Byte) : Option Nat :=
  let c := lGang (poolImage b)
  if c < 2 then none
  else
    match s.nodes.find? (fun p => p.2.ctx == ctx && p.2.queue == poolQueue b && !p.2.dispatched && lGang p.2.image == c
        && decide (sub32 (poolEntryNo b) p.2.entry < 4 * c)) with
    | some p => p.2.gang
    | none => some s.nodeOrder

/-- Pool nodes enter in their order. -/
def State.thawPool (s : State) (ctx : Nat) : List (List Byte) → State
  | [] => s
  | b :: bs =>
    let queue := poolQueue b
    let n := s.nodeNumber (uAt b 256 2)
    let s1 := s.enterNode n ctx (poolImage b) queue (poolEntryNo b) (uAt b 261 1) (s.queueAt queue).prio (uAt b 258 1 == 1)
      (s.gangIn ctx b) (lGang (poolImage b))
    let s2 := match s1.nodes.at? n with
      | some x => if uAt b 259 1 = 1 then s1.setNode n { x with pred := some 1, readyAt := some s1.cycle.toNat } else s1
      | none => s1
    s2.thawPool ctx bs

/-- The gang whose first restored member is `x`, its queue restored: members that the pool does not hold have completed without a
dispatch, or stand at entries still to be read. -/
def State.thawGang (s : State) (x : Node) (g : Nat) : State :=
  let q := s.queueAt x.queue
  let c := lGang x.image
  let mine (y : Node) : Bool := y.gang == some g && y.queue == x.queue && !y.dispatched
  let found := (s.nodes.filter (fun p => mine p.2)).length
  let read := min c (sub32 q.next x.entry / 4)
  let gone := read - found
  let s1 := { s with nodes := s.nodes.mapV (fun (y : Node) => if mine y then { y with gangSize := c - gone } else y) }
  if read < c then s1.setQ x.queue { q with gang := some (g, c - read, gone) } else s1

/-- Every gang of the restored pool. -/
def State.thawGangs (s : State) (ctx : Nat) : State :=
  s.nodes.foldl (fun t p =>
    match p.2.gang with
    | some g =>
      if p.2.ctx = ctx ∧ p.2.dispatched = false ∧ p.2.order = g then t.thawGang p.2 g else t
    | none => t) s

/-! ### Queues -/

/-- The packet that stood at entry `e` of queue `q`, as the restored context still has it: a node's, the stopped COPY, or a
BARRIER of the trigger list; every other entry up to the next one to read has completed. -/
def State.startedIn (s : State) (ctx q copyEntry copied e : Nat) : Started :=
  match s.nodes.find? (fun p => p.2.ctx == ctx && p.2.queue == q && p.2.entry == e && p.2.origin < 4) with
  | some p => ⟨e, 4, p.2.image.take 64, false, 0, false, 0⟩
  | none =>
    let b := s.entryBytes q e
    if uAt b 0 1 = 4 ∧ e = copyEntry ∧ copied < uAt b 0x28 8 then ⟨e, 1, b, false, copied, false, 0⟩
    else if (s.ctxAt ctx).triggers.any (fun t => t.kind == 2 && t.object == q + e * 2 ^ 32) then ⟨e, 1, b, false, 0, false, 0⟩
    else ⟨e, 1, [], true, 0, false, 0⟩

/-- Packets from entry `e` up to `next`. -/
def State.startedFrom (s : State) (ctx q copyEntry copied next : Nat) : Nat → Nat → List Started
  | 0, _ => []
  | fuel + 1, e =>
    if e = next then []
    else
      let p := s.startedIn ctx q copyEntry copied e
      p :: s.startedFrom ctx q copyEntry copied next fuel ((e + p.len) % 2 ^ 32)

/-- A QUEUE entry is restored into the queue that it names. -/
def State.thawQueue (s : State) (ctx : Nat) (b : List Byte) : State :=
  let q := uAt b 0 1
  let x := s.queueAt q
  let prog := uAt b 36 4
  let next := uAt b 60 4
  s.setQ q { x with
    prog := prog
    latch := uAt b 32 4
    stopped := uAt b 40 1 % 4 == 2
    next := next
    started := if x.isHandler then [] else s.startedFrom ctx q (uAt b 56 4) (uAt b 48 8) next (2 ^ 15 + 1) prog
    gang := none }

/-! ### Triggers (R333) -/

/-- The Sluice core that source core `n` has become. -/
def mapCore (mp : List (Nat × Nat)) (n : Nat) : Nat := ((mp.find? (fun x => x.1 == n)).map Prod.snd).getD n

/-- One trigger fires. A chunk, a node or a flow that the restored context does not have is no resident target: the context
fails (R333). -/
def State.fireTrig (s : State) (ctx : Nat) (mp : List (Nat × Nat)) (t : Trig) : State :=
  match t.kind with
  | 1 =>
    let n := mapCore mp (t.object / 2 ^ 32)
    let h := t.object / 2 ^ 16 % 2 ^ 16
    let k := t.object % 2 ^ 16
    let x := s.slAt n
    match x.transfers.at? h with
    | none => s.failCtx ctx cPageFault
    | some tr =>
      if (tr.chunk k).gated then
        s.setSl n (({ x with transfers := x.transfers.ins h (tr.setChunk k { tr.chunk k with gated := false }) }).queueOn tr.flow
          [.chunk h k false])
      else s
  | 2 =>
    let q := t.object % 2 ^ 32
    match (s.queueAt q).running (t.object / 2 ^ 32) with
    | some p => (s.evalBarrier q p).getD s
    | none => s
  | 3 =>
    match s.nodes.at? t.object with
    | some x => if x.ctx = ctx ∧ x.dispatched ∧ s.teamHalted t.object then s.completeNode t.object 1 0 else s
    | none => s
  | _ =>
    let n := mapCore mp (t.object / 2 ^ 16)
    let f := t.object % 2 ^ 16
    let x := s.slAt n
    if x.flowV f then s.setSl n (x.queueOn f [.control (controlHdr 8 (x.flowPctx f) 0 0 0 t.arg)])
    else s.failCtx ctx cPageFault

/-! ### THAW -/

/-- All of R335, its checks passed. -/
def State.restore (s : State) (q n pa limit : Nat) : State :=
  let ctx := (s.queueAt q).ctx
  let inPlace := (s.ctxAt ctx).frozen
  let m := s.imgAt pa
  let ts := s.teamsIn m
  let w := min limit s.freeCores.length
  let mp := s.sluiceMap m ctx inPlace
  let cs := (s.thawPlaces w (s.groupsIn ts)).getD []
  let olds : SMap LCore := if inPlace then s.lcores.filter (fun p => p.2.ctx == ctx) else []
  let s1 := (if inPlace then s.dropFrozen ctx else s).thawTables ctx m mp
  let s2 := (List.range (m.count 12)).foldl (fun t i => t.thawSluice ctx ((mp.getD i (0, 0)).2) (m.entryPa 12 i)) s1
  let s3 := s2.thawTeams olds ctx m ts cs
  let s4 := (sortUp (distinct cs)).foldl (fun t c => t.thawCore c (t.givenTo ctx c)) s3
  let s5 := s4.thawPool ctx (s.entriesOf m 3)
  let s6 := (if inPlace then s5 else (s.entriesOf m 13).foldl (fun t b => t.thawQueue ctx b) s5).thawGangs ctx
  let s7 := s6.sendAll ctx 11
  let s8 := (s7.ctxAt ctx).triggers.foldl (fun t x => t.fireTrig ctx mp x) s7
  let s9 := s8.setCtx ctx { s8.ctxAt ctx with triggers := [], frozen := false, freeze := none }
  ((s9.setFrozen ctx false).settle).completePacket q n false

/-- The rules on the body of a THAW. -/
def thawBody (b : List Byte) : List (Option Nat) :=
  [firstNonzero b 0x10 0x18, bad (uAt b 0x18 8 % 65536 != 0) 0x18, bad (uAt b 0x20 2 == 0 || decide (256 < uAt b 0x20 2)) 0x20,
    firstNonzero b 0x22 0x40]

/-- THAW: a THAW packet starts, is checked, and restores its image. -/
def execThaw (q : Nat) (s : State) : Out :=
  s.starts q (· == 7) (fun n b =>
    let limit := uAt b 0x20 2
    s.checked q n b 1 (thawBody b)
      (fun s1 =>
        match s1.thawCheck q (uAt b 0x18 8) limit with
        | some e => s1.failPacket q n hLaunchRejected e.cause e.req e.avail
        | none => s1.restore q n (uAt b 0x18 8) limit))

/-! ## Failing host accesses (14_host_queues.md R258) -/

/-- A FREEZE of queue `q`'s context that writes its image over physical address `pa`. -/
def State.imageTouches (s : State) (q pa : Nat) : Option Freeze :=
  let ctx := (s.queueAt q).ctx
  match s.readyToWrite ctx with
  | some z =>
    match (s.queueAt z.queue).running z.entry with
    | some p => if z.queue = q ∧ uAt p.bytes 0x18 8 ≤ pa ∧ pa < uAt p.bytes 0x18 8 + s.imageSizeOf ctx then some z else none
    | none => none
  | none => none

/-- The image that a THAW about to start in queue `q` reads covers physical address `pa`. -/
def State.thawTouches (s : State) (b : List Byte) (pa : Nat) : Bool :=
  let at_ := uAt b 0x18 8
  uAt b 0 1 == 7 && decide (at_ ≤ pa ∧ pa < at_ + max 4096 (s.im at_ 8 8))

/-- HOST_ACCESS_FAILURE: the read of an entry of the queue's next packet fails, and the queue stops; or a payload access fails, of a
COPY, of a FREEZE's image (R326) or of the image that a THAW reads, and its packet completes as failed. -/
def execHostAccessFailure (q status pa : Nat) (payload : Bool) (s : State) : Out :=
  let x := s.queueAt q
  if isHostPa pa = false then s.nothing
  else if payload then
    match s.imageTouches q pa with
    | some z => ((s.markFrozen x.ctx).failPacket q z.entry hHostAccess status pa 0).happened
    | none =>
      match x.started.find? (s.copyTouches x.ctx pa) with
      | some p => if s.copyRests q p.entry then s.nothing else (s.failPacket q p.entry hHostAccess status pa 0).happened
      | none =>
        s.starts q (· == 7) (fun n b =>
          if s.thawTouches b pa then
            s.checked q n b 1 (thawBody b) (fun s1 => s1.failPacket q n hHostAccess status pa 0)
          else s.nothing)
  else
    match s.startable q with
    | none => s.nothing
    | some (n, b) =>
      if (List.range (min (packetLen b) (sub32 x.latch n))).any (fun i =>
          decide (x.entryPa (n + i) ≤ pa ∧ pa < x.entryPa (n + i) + 64)) then
        ((s.setQ q { x with stopped := true }).handler q hHostAccess 0 n status pa 0).happened
      else s.nothing

end Sys2Proof.Machine
end

