-- ==== Sys2Proof/Machine/Health.lean ====
section
/-! DEFINITION. Host reads, the measurement log, soft errors, health and fencing, and attestation (14_host_queues.md R257;
19_counters.md R349, R352 to R354). -/

namespace Sys2Proof.Machine

/-! ## Device status (Table 6) -/

/-- Word `i` of the device status. -/
def State.deviceStatus (s : State) (i : Nat) : Word :=
  match i with
  | 0 => toW (s.hstate * 2 ^ 62 + bit (decide (1 ≤ s.hstate)) 61 + s.workingCores)
  | 5 => toW ((s.fencedPorts.map (2 ^ ·)).sum)
  | 6 => toW ((s.fencedChannels.map (fun p => 256 ^ p.1)).sum)
  | n => if n < 5 then toW (((s.fencedCores.filter (fun c => c / 64 == n - 1)).map (fun c => 2 ^ (c % 64))).sum) else 0

/-- Every change of Table 6 sends MSI-X vector 255. -/
def State.statusChanged (s : State) : State := s.sendMsix 255

/-- Fail every context of `cs`, for a cause that is no fault's. -/
def State.failAll (s : State) (cs : List Nat) : State :=
  cs.foldl (fun t c => if (t.ctxs.at? c).isSome && !(t.ctxAt c).failed then t.failCtx c 0 else t) s

/-- HSTATE moves up to `h`; at 2 every context fails. -/
def State.raiseHealth (s : State) (h : Nat) : State :=
  if h ≤ s.hstate then s
  else
    let s1 := { s with hstate := h }
    if h = 2 then s1.failAll s1.ctxs.keys else s1

/-! ## Host reads (14_host_queues.md R257, R349) -/

/-- Word `i` of the descriptor of queue `q`; RESUME and ABORT read 0. -/
def State.queueWord (s : State) (q i : Nat) : Word :=
  match i with
  | 0 => (s.queueAt q).w0
  | 1 => (s.queueAt q).w1
  | 2 => (s.queueAt q).w2
  | 3 => toW (s.queueW3 q)
  | 4 => toW (s.queueW4 q)
  | _ => 0

/-- Byte `i` of a word. -/
def byteOf (v : Word) (i : Nat) : Byte := (bytesOf 8 v.toNat).getD i 0

/-- The reserved bytes of the slot-load mailbox and of the control mailbox. -/
def slotReserved (o : Nat) : Bool := o == 7 || decide (0x28 ≤ o ∧ o < 0x40)
def controlReserved (o : Nat) : Bool := decide (0x38 ≤ o ∧ o < 0x40)

/-- Type of measurement `i`: an image, or a configuration (R353). -/
def measureType (i : Nat) : Nat := if i < 5 then 1 else 2

/-- Entry `i` of the measurement log of this boot. -/
def State.logEntry (s : State) (i : Nat) : List Byte :=
  bytesOf 1 i ++ bytesOf 1 (measureType i) ++ bytesOf 2 0 ++ bytesOf 4 (Config.measuredSize s.boots i).toNat
  ++ bytesOf 64 (Config.measuredDigest s.boots i).toNat ++ bytesOf 56 (Config.measuredName s.boots i).toNat

/-- The measurement log at HW0 offset 0x8000: the entries of Table 7, and one whose index is 0. -/
def State.measurementLog (s : State) : List Byte := [1, 2, 3, 4, 5, 6].flatMap s.logEntry ++ bytesOf 128 0

/-- What the host reads at byte `o` of HW0 (Table 1); a reserved offset returns zero. -/
def State.hw0Byte (s : State) (o : Nat) : Byte :=
  if o < 0x38 then byteOf (s.deviceStatus (o / 8)) (o % 8)
  else if 0x100 ≤ o ∧ o < 0x180 then if slotReserved (o - 0x100) then 0 else s.slotbox.atD (o - 0x100) 0
  else if 0x200 ≤ o ∧ o < 0x300 then if controlReserved (o - 0x200) then 0 else s.control.atD (o - 0x200) 0
  else if 0x1000 ≤ o ∧ o < 0x1040 then byteOf (s.errs.atD ((o - 0x1000) / 8) 0) (o % 8)
  else if 0x2000 ≤ o ∧ o < 0x2000 + 32 * 48 then byteOf ((s.portAt ((o - 0x2000) / 32)).counter (o % 32 / 8)) (o % 8)
  else if 0x8000 ≤ o then
    if o < 0x10000 then s.measurementLog.getD (o - 0x8000) 0
    else if o < 0x14000 then byteOf (s.queueWord ((o - 0x10000) / 64) (o % 64 / 8)) (o % 8)
    else 0
  else 0

/-- A host read of `n` bytes of HW0 from offset `o`; the device answers it whatever its HSTATE (R352). -/
def State.readHw0 (s : State) (o n : Nat) : List Byte := (List.range n).map (fun i => s.hw0Byte (o + i))

/-- A host read of `n` bytes of HW1: of a doorbell the spec gives no value (DESIGN CHOICE: a free value, log entry 40); a reserved
offset returns zero. In HSTATE 2 the device does not accept it. -/
def State.readHw1 (s : State) (o n : Nat) : Option (List Byte) :=
  if s.accepts = false then none
  else some ((List.range n).map (fun i =>
    let b := o + i
    if b % 4096 < 4 then (bytesOf 4 (Config.doorbellRead s.free (b / 4096)).toNat).getD (b % 4096) 0 else 0))

/-- A host read of `n` bytes of HBM through the aperture. -/
def State.readHw2 (s : State) (o n : Nat) : Option (List Byte) :=
  if s.accepts = false then none else some (s.physBytes (s.hw2base + o) n)

/-! ## Fencing (R352) -/

/-- Cores in the order in which a logical core of core `c` looks for a place: those of its terrace first. -/
def placesFrom (c : Nat) : List Nat :=
  (List.range 256).filter (fun d => d / 8 == c / 8) ++ (List.range 256).filter (fun d => d / 8 != c / 8)

/-- Logical core `k` of fenced core `c` is swapped out and placed on another core; its context fails when none has room. -/
def State.rehome (s : State) (c k : Nat) : State :=
  match (placesFrom c).find? (s.hasPlace []) with
  | none => s.failAll [(s.lcAt k).ctx]
  | some d =>
    let s1 := (s.spillOut k (.spilled d)).arrive d k
    if (s1.coreAt d).active = some k then s1.setLc k (s1.lcAt k).activate else s1.preemptFor d k

/-- Core `c` is fenced; the logical cores of `lost` have lost their register state, which fails their contexts. -/
def State.fenceCore (s : State) (c : Nat) (lost : List Nat) : State :=
  let here := (s.coreAt c).rot
  let s1 := { s with fencedCores := s.fencedCores ++ [c] }
  let dead := (here.filter lost.contains).map (fun k => (s.lcAt k).ctx)
  let s2 := s1.failAll dead
  let s3 := (here.filter (fun k => !dead.contains (s.lcAt k).ctx)).foldl (fun (t : State) k =>
    if (t.coreAt c).rot.contains k then t.rehome c k else t) s2
  if s3.fencedCores.length = 256 then s3.raiseHealth 2 else s3

/-- Port `p` is fenced: its valid flows move to the lowest working port of its Sluice core, and send NEWEP. -/
def State.fencePort (s : State) (p : Nat) : State :=
  let s1 := { s with fencedPorts := s.fencedPorts ++ [p] }
  let n := p / 3
  match (List.range 3).find? (fun i => !s1.fencedPorts.contains (3 * n + i)) with
  | none => s1
  | some i =>
    (flowNums.filter (fun f => (s1.slAt n).flowV f && (s1.slAt n).flowPort f == p % 3)).foldl (fun t f =>
      let x := t.slAt n
      (t.setSl n (x.setFlow f 0 (setFld (x.flow f 0) 61 60 i))).sendNow n f 11) s1

/-- A byte of HBM lies in channel `ch` of stack `st` (08_memory.md R155). -/
def inChannel (st ch pa : Nat) : Bool := decide (pa < 2 ^ 39) && fld pa 14 12 == st && Config.channelOf (pa / 128) == ch

/-- A line that `n` bytes from `pa` touch lies in the channel. -/
def onChannel (st ch pa n : Nat) : Bool :=
  (List.range (n / 128 + 2)).any (fun i =>
    let a := (pa / 128 + i) * 128
    decide (a < pa + n) && inChannel st ch a)

/-- The runs of an access, when all its addresses are in place. -/
def Acc.runsOf (x : Acc (List Run)) : List Run :=
  match x with
  | .ok rs => rs
  | _ => []

/-- What the next step of a CE or GE command at COUNT reads and writes. -/
def State.stepRuns (s : State) (k : Nat) (g : Bool) (c : CgCmd) (count : Nat) : List Run :=
  let get (how : Access) (va n : Nat) : List Run := (s.cgRuns (s.lcAt k).ctx k how (n / 4096 + 2) va n).runsOf
  if g then
    let (x, i) := c.indexAt count
    let r := get .load x i
    let (far, near, len) := c.gatherItem count (sext (8 * i) (ofBytes (s.runsBytes r)))
    let (src, dst) := if c.form = .scatter then (near, far) else (far, near)
    r ++ get .load src.toNat len ++ get .store dst.toNat len
  else
    let (_, n, src, dst) := c.copyChunk count
    (if c.form = .cpFill then [] else get .load src n) ++ (if c.form = .cpMc then [] else get .store dst n)

/-- The head command of an engine of an active logical core is in flight on the channel: it has begun, and its next step goes
there (DEDUCED, log entry 62). -/
def State.onFenced (s : State) (st ch k : Nat) (g : Bool) : Bool :=
  let l := s.lcAt k
  let p := l.cgProg g
  match l.cgFifo g with
  | [] => false
  | c :: _ => p.started && !p.done && !l.cgEntered g c && decide (p.count < c.total)
    && (s.stepRuns k g c p.count).any (fun r => match r.place with
      | .phys pa _ => onChannel st ch pa r.len
      | .multicast _ => false)

/-- Commands in flight on the channel fail with FAIL = 2 (13_streams.md R247). -/
def State.failCommands (s : State) (st ch : Nat) : State :=
  (s.cores.filterMap (fun p => p.2.active)).foldl (fun t k => [false, true].foldl (fun u g =>
    let l := u.lcAt k
    match l.cgFifo g with
    | [] => u
    | c :: _ =>
      if s.onFenced st ch k g then
        match l.cgFinish g c (some 2) with
        | some (l1, _) => u.setLc k (l1.cgSignal g c)
        | none => u
      else u) t) s

/-- Bytes of the page under a leaf found with `lv` levels below it. -/
def leafSize (lv : Nat) (e : Word) : Nat :=
  match lv with
  | 0 => if wbit e 8 then 65536 else 4096
  | 1 => 2 ^ 21
  | _ => 2 ^ 30

/-- The page of leaf `e` at `at_` is copied to free frames, if it is not in `moved` already, and the leaf is remapped. -/
def State.movePage (s : State) (ctx at_ : Nat) (e : Word) (size : Nat) (moved : SMap Nat) : State × SMap Nat :=
  let pa := wf e 51 12 * 4096
  let (f, s1, m1) := match moved.at? pa with
    | some f => (f, s, moved)
    | none =>
      let (f, t) := s.takeFrames ctx (size / 4096)
      (f, { t with mem := SMap.splice t.mem (4096 * f) (4096 * f + size) ((SMap.cut s.mem pa (pa + size)).move pa (4096 * f)) 0 },
        moved.ins pa f)
  (s1.setRaws at_ (bytesOf 8 (setFld e 51 12 f).toNat), m1)

/-- Move every page of HBM below the table at `base` that has a line in the channel; `lv` levels remain below it. A decoded view
stays: its range says where its bytes are (08_memory.md R163). -/
def State.moveTable (st ch ctx : Nat) : Nat → Nat → State × SMap Nat → State × SMap Nat
  | lv, base, x =>
    let n := match lv with
      | 3 => 8192
      | 2 => 16384
      | _ => 512
    (List.range n).foldl (fun y i =>
      let at_ := base + 8 * i
      let w := y.1.entry at_
      if !wbit w 0 then y
      else if wbit w 7 then
        let pa := wf w 51 12 * 4096
        if onChannel st ch pa (leafSize lv w) && (y.1.fmtAt pa).isNone then y.1.movePage ctx at_ w (leafSize lv w) y.2 else y
      else
        match lv with
        | 0 => y
        | lv' + 1 => State.moveTable st ch ctx lv' (wf w 51 12 * 4096) y) x

/-- Channel `ch` of stack `st` is fenced: commands in flight on it fail; firmware copies pages elsewhere and remaps them
(08_memory.md R169); the contexts in `lost`, which have lost a page's data, fail. -/
def State.fenceChannel (s : State) (st ch : Nat) (lost : List Nat) : State :=
  let s1 := { s.failCommands st ch with fencedChannels := s.fencedChannels ++ [(st, ch)] }
  let s2 := s1.failAll lost
  ((s2.ctxs.keys.filter (fun c => !(s2.ctxAt c).failed)).foldl (fun x c =>
    State.moveTable st ch c 3 (s2.ctxAt c).ptroot x) (s2, [])).1

/-- The unit is fenced already, or cannot be fenced. -/
def State.cannotFence (s : State) (u : HwUnit) : Bool :=
  match u with
  | .core n => decide (256 ≤ n) || s.fencedCores.contains n
  | .port n => decide (48 ≤ n) || s.fencedPorts.contains n
  | .channel st ch => decide (8 ≤ st) || s.fencedChannels.contains (st, ch)
  | .control => decide (s.hstate = 2)
  | .shared => true

/-- Fence unit `u`. `lost` names the logical cores of a core whose register state is lost, and the contexts of a channel
that have lost a page. -/
def State.fence (s : State) (u : HwUnit) (lost : List Nat) : State :=
  if s.cannotFence u then s
  else
    match u with
    | .core n => ((s.countErr 7).raiseHealth 1 |>.fenceCore n lost).statusChanged
    | .port n => ((s.countErr 7).raiseHealth 1 |>.fencePort n).statusChanged
    | .channel st ch =>
      ((s.countErr 7).raiseHealth 1 |>.fenceChannel st ch lost).statusChanged
    | .control => (s.raiseHealth 2).statusChanged
    | .shared => s

/-- The device error counter of a memory's corrected soft errors (Table 5). -/
def softCounter (m : SoftMem) : Nat :=
  match m with
  | .localStore => 3
  | .sram => 4
  | .hbm => 5

/-- A core, a port or a channel of HBM: what firmware can fence. -/
def fenceable (u : HwUnit) : Bool :=
  match u with
  | .core _ => true
  | .port _ => true
  | .channel _ _ => true
  | .control => false
  | .shared => false

/-- SOFT_ERROR_CORRECTED: counted; the 1,024th of a unit within 2^32 core cycles fences it. -/
def execSoftErrorCorrected (u : HwUnit) (m : SoftMem) (s : State) : Out :=
  let recent := s.softErrors.filter (fun p => decide (s.ticks < p.2 + 2 ^ 32)) ++ [(u, s.ticks)]
  let s1 := { s.countErr (softCounter m) with softErrors := recent }
  (if fenceable u ∧ 1024 ≤ (recent.filter (fun p => p.1 == u)).length then s1.fence u [] else s1).happened

/-- SOFT_ERROR_UNCORRECTABLE: counted, and the unit is fenced; that of the control complex is its loss (Table 6). -/
def execSoftErrorUncorrectable (u : HwUnit) (lost : List Nat) (s : State) : Out := ((s.countErr 6).fence u lost).happened

/-! ## Attestation (R354) -/

/-- The device answers an SPDM request. -/
def State.answers (s : State) (a : Spdm) : Out := { s with spdm := s.spdm ++ [a] }.happened

def execGetVersion (s : State) : Out := s.answers (.version 1 2)
def execGetCapabilities (s : State) : Out := s.answers (.capabilities Config.spdmFlags)
def execNegotiateAlgorithms (s : State) : Out := s.answers (.algorithms .sha512 .ed25519 .sha512)
def execGetDigests (s : State) : Out := s.answers (.digests Config.certDigest)

/-- GET_CERTIFICATE: bytes of the certificate chain of slot 0 from `off` on. -/
def execGetCertificate (off len : Nat) (s : State) : Out :=
  let n := min len (Config.certLength - off)
  s.answers (.certificate ((List.range n).map (fun i => Config.certChain (off + i))) (Config.certLength - off - n))

/-- CHALLENGE: signed with the identity key. -/
def execChallenge (nonce : Nat) (s : State) : Out :=
  s.answers (.challengeAuth (nonce % 2 ^ 256) (Config.signature 0 (nonce % 2 ^ 256)))

/-- GET_MEASUREMENTS: the measurements of Table 7, signed over the requester's nonce. -/
def execGetMeasurements (nonce : Nat) (s : State) : Out :=
  let blocks := [1, 2, 3, 4, 5, 6].map (fun i => (i, Config.measuredDigest s.boots i))
  let text := blocks.flatMap (fun p => bytesOf 1 p.1 ++ bytesOf 64 p.2.toNat) ++ bytesOf 32 nonce
  s.answers (.measurements blocks (nonce % 2 ^ 256) (Config.signature 1 (ofBytes text)))

/-- UNSUPPORTED_REQUEST: any other request code is answered with an ERROR. -/
def execUnsupportedRequest (code : Nat) (s : State) : Out := s.answers (.unsupported code)

end Sys2Proof.Machine
end

