-- ==== Sys2Proof/Machine/Device.lean ====
section
/-! DEFINITION. Device reset, and one cycle of the core clock: what counts time (01_device.md R10, R23, R24; 07_traps.md R144,
R150, R152, R371; 13_streams.md R243, R244; 15_sluice.md R276, R282; 19_counters.md R347, R348). -/

namespace Sys2Proof.Machine

/-- DEVICE_RESET: the machine right after reset; the boot ROM measures its images again (19_counters.md R353). -/
def execDeviceReset (s : State) : Out :=
  { State.reset with boots := s.boots + 1, agenda := s.agenda, turn := s.turn, free := s.free }.happened

/-! ## Idle by cause (19_counters.md Table 3) -/

/-- The cause of a stall of the EP. -/
def StallOn.idleCause (x : StallOn) : Nat :=
  match x with
  | .page _ _ => 7
  | .queueEmpty _ _ => 8
  | .cqEmpty => 8
  | .queueFull _ => 9
  | .cqFull => 9
  | .rillPrev => 10
  | .rillNext => 10
  | .fifo => 11
  | .mxSync => 11
  | .sync => 12
  | .fence _ => 12
  | .rillRoom => 13
  | .token => 13
  | .drain => 13
  | .ring => 13
  | .bank => 13
  | .other => 13

/-- The fill of the next logical core waits for the bank, which is being spilled or held (07_traps.md R151). -/
def State.fillWaits (s : State) (c : Nat) : Bool :=
  let p := s.coreAt c
  (p.busy || p.held) && (match s.nextIn c with
    | some k => p.shadow != some k
    | none => false)

/-- The lowest cause that holds on core `c`, which is `p`. -/
def State.idleCause (s : State) (c : Nat) (p : PCore) : Nat :=
  if (match p.active with
    | some k => p.power == Power.awake && (s.lcAt k).epBusy
    | none => false) then 0
  else if p.power ≠ Power.awake then 1
  else
    match p.active with
    | none => if s.budgetHolds then 2 else 3
    | some k =>
      let l := s.lcAt k
      if p.swapping.isSome ∨ (p.swapReq.isSome ∧ s.trapping k = false) ∨ s.fillWaits c then 4
      else if l.trapReq.isSome ∨ l.trapMode ∨ l.esc.isSome then 5
      else if l.ep.halted then 6
      else
        match l.ep.stall with
        | some x => x.idleCause
        | none => 13

/-- The AP of the active logical core is stalled. -/
def State.apWaits (s : State) (p : PCore) : Bool :=
  match p.active with
  | some k => p.runs && (s.lcAt k).ap.stall.isSome && !((s.lcAt k).ap.halted && !(s.lcAt k).trapMode)
  | none => false

def PCore.addIdle (p : PCore) (n : Nat) : PCore := { p with idle := p.idle.put n (p.idle.atD n 0 + 1) 0 }

/-! ## Cores -/

/-- The active logical core cannot go on by itself, or there is none, while another resident one can: rotation is due. -/
def State.rotates (s : State) (p : PCore) : Bool :=
  p.swapReq.isNone && p.swapping.isNone && p.power == Power.awake &&
  (match p.active with
    | none => (s.runnable p.rot).isSome
    | some k =>
      (match (s.lcAt k).esc with
        | some e => e.passed && (s.runnable (p.after k)).isSome
        | none => false))

/-- One cycle of a physical core. GATED is not stored: it is what CYCLE leaves of the other causes. -/
def State.tickCore (s : State) (c : Nat) (p : PCore) : PCore :=
  let cause := s.idleCause c p
  let p1 := if cause = 1 then p else p.addIdle cause
  let p2 := if s.apWaits p then p1.addIdle 15 else p1
  { p2 with
    wake := if p.power = Power.waking then p.wake - 1 else p.wake
    swapping := p.swapping.map (· - 1)
    quantum := if p.active.isSome then p.quantum + 1 else p.quantum
    swapReq := if s.rotates p then some .rotate else p.swapReq }

/-- The head of the matrix FIFO is a started `mx.tw` that still waits. -/
def LCore.twWaits (l : LCore) : Bool :=
  match l.mxFifo with
  | h :: _ => l.mxProg.started && !l.mxProg.done && (MFields.of h.word).func == 7
  | [] => false

def Strm.tick (t : Strm) : Strm := if t.stall.isSome then { t with stallCycles := t.stallCycles + 1 } else t

/-- One core cycle of an active logical core; `miss` and `conflict` are its events 10 and 11 (DESIGN CHOICE: free values, log entry
56). -/
def LCore.tick (l : LCore) (miss conflict : Nat) : LCore :=
  { ((l.count 1 1).count 10 miss).count 11 conflict with
    ap := l.ap.tick
    ep := l.ep.tick
    dlcnt := if l.mutual && l.esc.isNone then min dlLimit (l.dlcnt + 1) else l.dlcnt
    trapCycles := if l.trapMode && l.esc.isNone then l.trapCycles + 1 else l.trapCycles
    twWait := if l.twWaits then l.twWait + 1 else 0
    epBusy := false
    foCycle := false }

/-- The cores' cycle. -/
def State.tickCores (s : State) : State :=
  let active := s.cores.filterMap (fun p => if p.2.runs then p.2.active else none)
  { s with
    cores := s.cores.map (fun q => (q.1, s.tickCore q.1 q.2))
    lcores := s.lcores.map (fun q => (q.1,
      if active.contains q.1 then q.2.tick (Config.perfEvents s.free q.1 10) (Config.perfEvents s.free q.1 11)
      else { q.2 with epBusy := false, foCycle := false }))
    free := s.free + 1 }

/-! ## Sluice cores -/

/-- One Sluice cycle of flow `f`: the bucket of a flow that can send fills by RATE (15_sluice.md R276), in 176ths of a byte. -/
def Sluice.tickFlow (x : Sluice) (f : Nat) : Sluice :=
  let st := x.fst f
  if x.flowAble f then x.setFst f { st with bucket := min bucketFull (st.bucket + x.flowRate f) } else x

/-- One Sluice cycle. -/
def Sluice.tick (x : Sluice) : Sluice :=
  let x1 := flowNums.foldl Sluice.tickFlow x
  { x1 with
    timers := x.timers.mapV (fun t => (t.1 - 1, t.2))
    trapCycles := if x.trapMode && x.running then x.trapCycles + 1 else x.trapCycles }

/-! ## CORE_CYCLE -/

/-- Deadlines of chunks in flight run while their context does. -/
def Ctx.tick (c : Ctx) : Ctx :=
  if c.stopped then c else { c with stage := c.stage.mapV (fun (t : Stage) => { t with elapsed := t.elapsed + 1 }) }

/-- CORE_CYCLE: CYCLE adds 1; what cannot wait for the next cycle happens first: stores that are due land, a QUEUE-DEADLOCK is
raised and a trap whose 64 cycles are up is taken. Then everything that counts cycles counts one, and payloads that are due are
written. -/
def execCoreCycle (s : State) : Out :=
  let s0 := if s.mcDue then s.landMulticasts else s
  let s1 := s0.cores.keys.foldl State.settleTraps s0
  let s2 := s1.tickCores
  let s3 := { s2 with
    mcWeak := []
    cycle := s2.cycle + 1
    ticks := s2.ticks + 1
    ctxs := s2.ctxs.mapV Ctx.tick }
  let s4 := if s3.slTicks = s2.slTicks then s3 else { s3 with sluices := s3.sluices.mapV Sluice.tick }
  s4.landClaims.happened

end Sys2Proof.Machine
end

