-- ==== Sys2Proof/Machine/Dispatch.lean ====
section
/-! DEFINITION. One arm per instruction and event: a direct call of its meaning. -/

namespace Sys2Proof.Machine

/-- What instruction or event `i` does in state `s`. -/
def exec (i : Instr) (s : State) : Host.Outcome State Fault Refusal :=
  match i with
  | .illegal syl => Sys2Proof.Machine.execIllegal syl s
  | .add q e d a b => Sys2Proof.Machine.execAdd q e d a b s
  | .sub q e d a b => Sys2Proof.Machine.execSub q e d a b s
  | .and q e d a b => Sys2Proof.Machine.execAnd q e d a b s
  | .or q e d a b => Sys2Proof.Machine.execOr q e d a b s
  | .xor q e d a b => Sys2Proof.Machine.execXor q e d a b s
  | .sll q e d a b => Sys2Proof.Machine.execSll q e d a b s
  | .srl q e d a b => Sys2Proof.Machine.execSrl q e d a b s
  | .sra q e d a b => Sys2Proof.Machine.execSra q e d a b s
  | .slt q e d a b => Sys2Proof.Machine.execSlt q e d a b s
  | .sltu q e d a b => Sys2Proof.Machine.execSltu q e d a b s
  | .min q e d a b => Sys2Proof.Machine.execMin q e d a b s
  | .max q e d a b => Sys2Proof.Machine.execMax q e d a b s
  | .minu q e d a b => Sys2Proof.Machine.execMinu q e d a b s
  | .maxu q e d a b => Sys2Proof.Machine.execMaxu q e d a b s
  | .addw q e d a b => Sys2Proof.Machine.execAddw q e d a b s
  | .subw q e d a b => Sys2Proof.Machine.execSubw q e d a b s
  | .mul q e d a b => Sys2Proof.Machine.execMul q e d a b s
  | .mulh q e d a b => Sys2Proof.Machine.execMulh q e d a b s
  | .mulhu q e d a b => Sys2Proof.Machine.execMulhu q e d a b s
  | .div q e d a b => Sys2Proof.Machine.execDiv q e d a b s
  | .divu q e d a b => Sys2Proof.Machine.execDivu q e d a b s
  | .rem q e d a b => Sys2Proof.Machine.execRem q e d a b s
  | .remu q e d a b => Sys2Proof.Machine.execRemu q e d a b s
  | .addi q e d a imm => Sys2Proof.Machine.execAddi q e d a imm s
  | .addiLiteral q d a lit => Sys2Proof.Machine.execAddiLiteral q d a lit s
  | .andi q e d a imm => Sys2Proof.Machine.execAndi q e d a imm s
  | .andiLiteral q d a lit => Sys2Proof.Machine.execAndiLiteral q d a lit s
  | .ori q e d a imm => Sys2Proof.Machine.execOri q e d a imm s
  | .oriLiteral q d a lit => Sys2Proof.Machine.execOriLiteral q d a lit s
  | .xori q e d a imm => Sys2Proof.Machine.execXori q e d a imm s
  | .xoriLiteral q d a lit => Sys2Proof.Machine.execXoriLiteral q d a lit s
  | .slli q e d a n => Sys2Proof.Machine.execSlli q e d a n s
  | .srli q e d a n => Sys2Proof.Machine.execSrli q e d a n s
  | .srai q e d a n => Sys2Proof.Machine.execSrai q e d a n s
  | .slti q e d a imm => Sys2Proof.Machine.execSlti q e d a imm s
  | .sltiu q e d a imm => Sys2Proof.Machine.execSltiu q e d a imm s
  | .amoAdd q d a b ty => Sys2Proof.Machine.execAmoAdd q d a b ty s
  | .amoMin q d a b ty => Sys2Proof.Machine.execAmoMin q d a b ty s
  | .amoMax q d a b ty => Sys2Proof.Machine.execAmoMax q d a b ty s
  | .amoSwap q d a b ty => Sys2Proof.Machine.execAmoSwap q d a b ty s
  | .amoCas q d a b ty => Sys2Proof.Machine.execAmoCas q d a b ty s
  | .amoAnd q d a b ty => Sys2Proof.Machine.execAmoAnd q d a b ty s
  | .amoOr q d a b ty => Sys2Proof.Machine.execAmoOr q d a b ty s
  | .li q e d imm => Sys2Proof.Machine.execLi q e d imm s
  | .liLiteral q d lit => Sys2Proof.Machine.execLiLiteral q d lit s
  | .lsh q e d imm => Sys2Proof.Machine.execLsh q e d imm s
  | .ldB q d a off => Sys2Proof.Machine.execLdB q d a off s
  | .ldBu q d a off => Sys2Proof.Machine.execLdBu q d a off s
  | .ldH q d a off => Sys2Proof.Machine.execLdH q d a off s
  | .ldHu q d a off => Sys2Proof.Machine.execLdHu q d a off s
  | .ldW q d a off => Sys2Proof.Machine.execLdW q d a off s
  | .ldWu q d a off => Sys2Proof.Machine.execLdWu q d a off s
  | .ldD q d a off => Sys2Proof.Machine.execLdD q d a off s
  | .stB q d a off => Sys2Proof.Machine.execStB q d a off s
  | .stH q d a off => Sys2Proof.Machine.execStH q d a off s
  | .stW q d a off => Sys2Proof.Machine.execStW q d a off s
  | .stD q d a off => Sys2Proof.Machine.execStD q d a off s
  | .ldBLiteral q d a lit => Sys2Proof.Machine.execLdBLiteral q d a lit s
  | .ldBuLiteral q d a lit => Sys2Proof.Machine.execLdBuLiteral q d a lit s
  | .ldHLiteral q d a lit => Sys2Proof.Machine.execLdHLiteral q d a lit s
  | .ldHuLiteral q d a lit => Sys2Proof.Machine.execLdHuLiteral q d a lit s
  | .ldWLiteral q d a lit => Sys2Proof.Machine.execLdWLiteral q d a lit s
  | .ldWuLiteral q d a lit => Sys2Proof.Machine.execLdWuLiteral q d a lit s
  | .ldDLiteral q d a lit => Sys2Proof.Machine.execLdDLiteral q d a lit s
  | .stBLiteral q d a lit => Sys2Proof.Machine.execStBLiteral q d a lit s
  | .stHLiteral q d a lit => Sys2Proof.Machine.execStHLiteral q d a lit s
  | .stWLiteral q d a lit => Sys2Proof.Machine.execStWLiteral q d a lit s
  | .stDLiteral q d a lit => Sys2Proof.Machine.execStDLiteral q d a lit s
  | .beqz q e a off => Sys2Proof.Machine.execBeqz q e a off s
  | .bnez q e a off => Sys2Proof.Machine.execBnez q e a off s
  | .bltz q e a off => Sys2Proof.Machine.execBltz q e a off s
  | .bgez q e a off => Sys2Proof.Machine.execBgez q e a off s
  | .bgtz q e a off => Sys2Proof.Machine.execBgtz q e a off s
  | .blez q e a off => Sys2Proof.Machine.execBlez q e a off s
  | .bcq q e off => Sys2Proof.Machine.execBcq q e off s
  | .bncq q e off => Sys2Proof.Machine.execBncq q e off s
  | .j q e off => Sys2Proof.Machine.execJ q e off s
  | .call q e off => Sys2Proof.Machine.execCall q e off s
  | .loop q e c a len => Sys2Proof.Machine.execLoop q e c a len s
  | .loopi q e c n len => Sys2Proof.Machine.execLoopi q e c n len s
  | .loopiLiteral q c len lit => Sys2Proof.Machine.execLoopiLiteral q c len lit s
  | .mfsr q e d sel => Sys2Proof.Machine.execMfsr q e d sel s
  | .mtsr q e a sel => Sys2Proof.Machine.execMtsr q e a sel s
  | .jr q e d a => Sys2Proof.Machine.execJr q e d a s
  | .trap q e n => Sys2Proof.Machine.execTrap q e n s
  | .brk q e => Sys2Proof.Machine.execBrk q e s
  | .rett => Sys2Proof.Machine.execRett s
  | .escal a => Sys2Proof.Machine.execEscal a s
  | .halt q e => Sys2Proof.Machine.execHalt q e s
  | .asstDone a => Sys2Proof.Machine.execAsstDone a s
  | .bankRd d a => Sys2Proof.Machine.execBankRd d a s
  | .bankWr a b => Sys2Proof.Machine.execBankWr a b s
  | .cyc q e d => Sys2Proof.Machine.execCyc q e d s
  | .acq q e a => Sys2Proof.Machine.execAcq q e a s
  | .rel q e a => Sys2Proof.Machine.execRel q e a s
  | .acqGen q e a b => Sys2Proof.Machine.execAcqGen q e a b s
  | .fence q e k => Sys2Proof.Machine.execFence q e k s
  | .soGen q e d a => Sys2Proof.Machine.execSoGen q e d a s
  | .ctxYield q e => Sys2Proof.Machine.execCtxYield q e s
  | .dlogArm q a => Sys2Proof.Machine.execDlogArm q a s
  | .dlogStop q => Sys2Proof.Machine.execDlogStop q s
  | .dlogPos q d => Sys2Proof.Machine.execDlogPos q d s
  | .cqPut q a => Sys2Proof.Machine.execCqPut q a s
  | .engSt q t u => Sys2Proof.Machine.execEngSt q t u s
  | .ringInit q a b => Sys2Proof.Machine.execRingInit q a b s
  | .ringClaim q t a b => Sys2Proof.Machine.execRingClaim q t a b s
  | .ringCommit q a b => Sys2Proof.Machine.execRingCommit q a b s
  | .ringWfill q t a b => Sys2Proof.Machine.execRingWfill q t a b s
  | .ringWfree q t a b => Sys2Proof.Machine.execRingWfree q t a b s
  | .ringRel q a b => Sys2Proof.Machine.execRingRel q a b s
  | .cp q t a b => Sys2Proof.Machine.execCp q t a b s
  | .cpFo q t a b => Sys2Proof.Machine.execCpFo q t a b s
  | .cp2d q t a b => Sys2Proof.Machine.execCp2d q t a b s
  | .cp2dFo q t a b => Sys2Proof.Machine.execCp2dFo q t a b s
  | .cpMc q t a b => Sys2Proof.Machine.execCpMc q t a b s
  | .cpFill q t a b => Sys2Proof.Machine.execCpFill q t a b s
  | .geGather q t a b => Sys2Proof.Machine.execGeGather q t a b s
  | .geGather2d q t a b => Sys2Proof.Machine.execGeGather2d q t a b s
  | .geScatter q t a b => Sys2Proof.Machine.execGeScatter q t a b s
  | .vadd q e rm d a b ty => Sys2Proof.Machine.execVadd q e rm d a b ty s
  | .vsub q e rm d a b ty => Sys2Proof.Machine.execVsub q e rm d a b ty s
  | .vmul q e rm d a b ty => Sys2Proof.Machine.execVmul q e rm d a b ty s
  | .vmac q e rm d a b ty => Sys2Proof.Machine.execVmac q e rm d a b ty s
  | .vmin q e d a b ty => Sys2Proof.Machine.execVmin q e d a b ty s
  | .vmax q e d a b ty => Sys2Proof.Machine.execVmax q e d a b ty s
  | .vabs q e d a ty => Sys2Proof.Machine.execVabs q e d a ty s
  | .vneg q e d a ty => Sys2Proof.Machine.execVneg q e d a ty s
  | .vexp2 q e rm d a ty => Sys2Proof.Machine.execVexp2 q e rm d a ty s
  | .vlog2 q e rm d a ty => Sys2Proof.Machine.execVlog2 q e rm d a ty s
  | .vrcp q e rm d a ty => Sys2Proof.Machine.execVrcp q e rm d a ty s
  | .vrsqrt q e rm d a ty => Sys2Proof.Machine.execVrsqrt q e rm d a ty s
  | .vcmpEq q e d a b ty => Sys2Proof.Machine.execVcmpEq q e d a b ty s
  | .vcmpNe q e d a b ty => Sys2Proof.Machine.execVcmpNe q e d a b ty s
  | .vcmpLt q e d a b ty => Sys2Proof.Machine.execVcmpLt q e d a b ty s
  | .vcmpLe q e d a b ty => Sys2Proof.Machine.execVcmpLe q e d a b ty s
  | .vsel q e d a b ty => Sys2Proof.Machine.execVsel q e d a b ty s
  | .vsum q e rm d a ty => Sys2Proof.Machine.execVsum q e rm d a ty s
  | .vrmax q e d a ty => Sys2Proof.Machine.execVrmax q e d a ty s
  | .vrmin q e d a ty => Sys2Proof.Machine.execVrmin q e d a ty s
  | .vcvt q e d a m g h sat => Sys2Proof.Machine.execVcvt q e d a m g h sat s
  | .vadds q e d a g ty => Sys2Proof.Machine.execVadds q e d a g ty s
  | .vmuls q e d a g ty => Sys2Proof.Machine.execVmuls q e d a g ty s
  | .vmacs q e d a g ty => Sys2Proof.Machine.execVmacs q e d a g ty s
  | .vmins q e d a g ty => Sys2Proof.Machine.execVmins q e d a g ty s
  | .vmaxs q e d a g ty => Sys2Proof.Machine.execVmaxs q e d a g ty s
  | .vfill q e d g ty => Sys2Proof.Machine.execVfill q e d g ty s
  | .vseti q e d imm => Sys2Proof.Machine.execVseti q e d imm s
  | .vsetf q e d imm => Sys2Proof.Machine.execVsetf q e d imm s
  | .vand q e d a b ty => Sys2Proof.Machine.execVand q e d a b ty s
  | .vor q e d a b ty => Sys2Proof.Machine.execVor q e d a b ty s
  | .vxor q e d a b ty => Sys2Proof.Machine.execVxor q e d a b ty s
  | .vnot q e d a ty => Sys2Proof.Machine.execVnot q e d a ty s
  | .vshl q e d a b ty => Sys2Proof.Machine.execVshl q e d a b ty s
  | .vshr q e d a b ty => Sys2Proof.Machine.execVshr q e d a b ty s
  | .vsra q e d a b ty => Sys2Proof.Machine.execVsra q e d a b ty s
  | .vmulh q e d a b ty => Sys2Proof.Machine.execVmulh q e d a b ty s
  | .vperm q e d a b ty => Sys2Proof.Machine.execVperm q e d a b ty s
  | .vcompact q e d a b ty => Sys2Proof.Machine.execVcompact q e d a b ty s
  | .vexpand q e d a b ty => Sys2Proof.Machine.execVexpand q e d a b ty s
  | .vscanAdd q e d a ty => Sys2Proof.Machine.execVscanAdd q e d a ty s
  | .vscanMax q e d a ty => Sys2Proof.Machine.execVscanMax q e d a ty s
  | .vcolsel q e d a b ty => Sys2Proof.Machine.execVcolsel q e d a b ty s
  | .vprobe q e d a b => Sys2Proof.Machine.execVprobe q e d a b s
  | .vstop q e d a b => Sys2Proof.Machine.execVstop q e d a b s
  | .vmov q e d a ty => Sys2Proof.Machine.execVmov q e d a ty s
  | .vmovDescriptor q e d n => Sys2Proof.Machine.execVmovDescriptor q e d n s
  | .vshift q e d a g ty => Sys2Proof.Machine.execVshift q e d a g ty s
  | .vrotl q e d a g ty => Sys2Proof.Machine.execVrotl q e d a g ty s
  | .vbcast q e d a g ty => Sys2Proof.Machine.execVbcast q e d a g ty s
  | .vamoAdd q e d a g ty => Sys2Proof.Machine.execVamoAdd q e d a g ty s
  | .vamoMin q e d a g ty => Sys2Proof.Machine.execVamoMin q e d a g ty s
  | .vamoMax q e d a g ty => Sys2Proof.Machine.execVamoMax q e d a g ty s
  | .vamoComb q e d a g => Sys2Proof.Machine.execVamoComb q e d a g s
  | .mxMac q e c ty a b => Sys2Proof.Machine.execMxMac q e c ty a b s
  | .mxMacz q e c ty a b => Sys2Proof.Machine.execMxMacz q e c ty a b s
  | .mxZero q e c => Sys2Proof.Machine.execMxZero q e c s
  | .mxLd q e c a => Sys2Proof.Machine.execMxLd q e c a s
  | .mxSt q e c a => Sys2Proof.Machine.execMxSt q e c a s
  | .mxStc q e c ty a => Sys2Proof.Machine.execMxStc q e c ty a s
  | .mxMask q e a => Sys2Proof.Machine.execMxMask q e a s
  | .mxTw q e a => Sys2Proof.Machine.execMxTw q e a s
  | .mxAdd q e c m => Sys2Proof.Machine.execMxAdd q e c m s
  | .mxSync q e => Sys2Proof.Machine.execMxSync q e s
  | .rtClr q e => Sys2Proof.Machine.execRtClr q e s
  | .rtLd q e a => Sys2Proof.Machine.execRtLd q e a s
  | .rtSt q e g a => Sys2Proof.Machine.execRtSt q e g a s
  | .rtQr q e g a b n => Sys2Proof.Machine.execRtQr q e g a b n s
  | .rtVec q e g a b => Sys2Proof.Machine.execRtVec q e g a b s
  | .rtRot q e g a b => Sys2Proof.Machine.execRtRot q e g a b s
  | .rtAngB16 q e a b => Sys2Proof.Machine.execRtAngB16 q e a b s
  | .rtAngB32 q e a b => Sys2Proof.Machine.execRtAngB32 q e a b s
  | .rtSol q e g a b n => Sys2Proof.Machine.execRtSol q e g a b n s
  | .rtApp q e g a b => Sys2Proof.Machine.execRtApp q e g a b s
  | .rtGz q e => Sys2Proof.Machine.execRtGz q e s
  | .rtRhs q e a => Sys2Proof.Machine.execRtRhs q e a s
  | .seqRetire q d a b => Sys2Proof.Machine.execSeqRetire q d a b s
  | .seqRd q d a b => Sys2Proof.Machine.execSeqRd q d a b s
  | .seqKv q d a b => Sys2Proof.Machine.execSeqKv q d a b s
  | .nodeLaunch q d a b => Sys2Proof.Machine.execNodeLaunch q d a b s
  | .nodeSig q d a => Sys2Proof.Machine.execNodeSig q d a s
  | .distHint q d a b => Sys2Proof.Machine.execDistHint q d a b s
  | .tnsSet q d a b => Sys2Proof.Machine.execTnsSet q d a b s
  | .tnsWait q d a => Sys2Proof.Machine.execTnsWait q d a s
  | .tnsBits q d a b => Sys2Proof.Machine.execTnsBits q d a b s
  | .collStart q d a => Sys2Proof.Machine.execCollStart q d a s
  | .collStat q d a => Sys2Proof.Machine.execCollStat q d a s
  | .rngSet q d a b => Sys2Proof.Machine.execRngSet q d a b s
  | .sigAdd q e d a b => Sys2Proof.Machine.execSigAdd q e d a b s
  | .sigRd q e d a => Sys2Proof.Machine.execSigRd q e d a s
  | .sigWait q e d a b => Sys2Proof.Machine.execSigWait q e d a b s
  | .flagAdd q e d a b => Sys2Proof.Machine.execFlagAdd q e d a b s
  | .flagMset q e d a b => Sys2Proof.Machine.execFlagMset q e d a b s
  | .flagWait q e d a b => Sys2Proof.Machine.execFlagWait q e d a b s
  | .ctrRd q e d a => Sys2Proof.Machine.execCtrRd q e d a s
  | .ctrSel q d a b => Sys2Proof.Machine.execCtrSel q d a b s
  | .evPop d a => Sys2Proof.Machine.execEvPop d a s
  | .evPeek d a => Sys2Proof.Machine.execEvPeek d a s
  | .pktSend d a b => Sys2Proof.Machine.execPktSend d a b s
  | .pktResend d a b => Sys2Proof.Machine.execPktResend d a b s
  | .chkReq d a b => Sys2Proof.Machine.execChkReq d a b s
  | .pauseSnd d a b => Sys2Proof.Machine.execPauseSnd d a b s
  | .collStep d a b => Sys2Proof.Machine.execCollStep d a b s
  | .portSt d a b => Sys2Proof.Machine.execPortSt d a b s
  | .bmpSet d a b => Sys2Proof.Machine.execBmpSet d a b s
  | .bmpClr d a b => Sys2Proof.Machine.execBmpClr d a b s
  | .bmpTest d a b => Sys2Proof.Machine.execBmpTest d a b s
  | .bmpScan d a b => Sys2Proof.Machine.execBmpScan d a b s
  | .tmrSet d a b => Sys2Proof.Machine.execTmrSet d a b s
  | .tmrClr d a => Sys2Proof.Machine.execTmrClr d a s
  | .rateSet d a b => Sys2Proof.Machine.execRateSet d a b s
  | .pathSet d a b => Sys2Proof.Machine.execPathSet d a b s
  | .rtoSet d a b => Sys2Proof.Machine.execRtoSet d a b s
  | .weirTake d a b => Sys2Proof.Machine.execWeirTake d a b s
  | .weirCall d a b => Sys2Proof.Machine.execWeirCall d a b s
  | .weirDone d a b => Sys2Proof.Machine.execWeirDone d a b s
  | .deviceReset => Sys2Proof.Machine.execDeviceReset s
  | .registerWrite w => Sys2Proof.Machine.execRegisterWrite w s
  | .sqDoorbell q value => Sys2Proof.Machine.execSqDoorbell q value s
  | .hqDoorbell q value => Sys2Proof.Machine.execHqDoorbell q value s
  | .queueEnable q w0 => Sys2Proof.Machine.execQueueEnable q w0 s
  | .queueDisable q => Sys2Proof.Machine.execQueueDisable q s
  | .resume q => Sys2Proof.Machine.execResume q s
  | .abort q => Sys2Proof.Machine.execAbort q s
  | .queueSwitchIn q => Sys2Proof.Machine.execQueueSwitchIn q s
  | .queueSwitchOut q => Sys2Proof.Machine.execQueueSwitchOut q s
  | .hostAccessFailure q status pa payload => Sys2Proof.Machine.execHostAccessFailure q status pa payload s
  | .launch q => Sys2Proof.Machine.execLaunch q s
  | .barrier q => Sys2Proof.Machine.execBarrier q s
  | .barrierEvaluation q => Sys2Proof.Machine.execBarrierEvaluation q s
  | .signal q => Sys2Proof.Machine.execSignal q s
  | .copy q => Sys2Proof.Machine.execCopy q s
  | .copyPacketChunk q entry => Sys2Proof.Machine.execCopyPacketChunk q entry s
  | .admission q => Sys2Proof.Machine.execAdmit q s
  | .freeze q => Sys2Proof.Machine.execFreeze q s
  | .freezeDrainTimeout ctx => Sys2Proof.Machine.execFreezeDrainTimeout ctx s
  | .freezeImageWritten ctx => Sys2Proof.Machine.execFreezeImageWritten ctx s
  | .thaw q => Sys2Proof.Machine.execThaw q s
  | .fencePacket q => Sys2Proof.Machine.execFencePacket q s
  | .handler q => Sys2Proof.Machine.execHandler q s
  | .create => Sys2Proof.Machine.execCreate s
  | .destroy => Sys2Proof.Machine.execDestroy s
  | .map => Sys2Proof.Machine.execMap s
  | .grant => Sys2Proof.Machine.execGrant s
  | .bind => Sys2Proof.Machine.execBind s
  | .unbind => Sys2Proof.Machine.execUnbind s
  | .sa => Sys2Proof.Machine.execSa s
  | .slotLoad => Sys2Proof.Machine.execSlotLoad s
  | .slotUnload => Sys2Proof.Machine.execSlotUnload s
  | .nodeDispatch => Sys2Proof.Machine.execNodeDispatch s
  | .dispatchStarvation n => Sys2Proof.Machine.execDispatchStarvation n s
  | .nodeCompletion n => Sys2Proof.Machine.execNodeCompletion n s
  | .powerGateExpiry core => Sys2Proof.Machine.execPowerGateExpiry core s
  | .coreWakeDone core => Sys2Proof.Machine.execCoreWakeDone core s
  | .contextFailure ctx cause => Sys2Proof.Machine.execContextFailure ctx cause s
  | .trapEntry core => Sys2Proof.Machine.execTrapEntry core s
  | .escalation core => Sys2Proof.Machine.execEscalation core s
  | .handlerOverrun core => Sys2Proof.Machine.execHandlerOverrun core s
  | .firmwareResume lc => Sys2Proof.Machine.execFirmwareResume lc s
  | .firmwareHandlerReturn lc => Sys2Proof.Machine.execFirmwareHandlerReturn lc s
  | .bankSwap core => Sys2Proof.Machine.execBankSwap core s
  | .bankSwapEnd core => Sys2Proof.Machine.execBankSwapEnd core s
  | .quantumExpiry core => Sys2Proof.Machine.execQuantumExpiry core s
  | .blockingWait core => Sys2Proof.Machine.execBlockingWait core s
  | .spillStore core bytes faulted => Sys2Proof.Machine.execSpillStore core bytes faulted s
  | .spillResume core => Sys2Proof.Machine.execSpillResume core s
  | .spillEnd core => Sys2Proof.Machine.execSpillEnd core s
  | .shadowFillEnd core => Sys2Proof.Machine.execShadowFillEnd core s
  | .lsPageAssign lc page => Sys2Proof.Machine.execLsPageAssign lc page s
  | .queueDeadlock core => Sys2Proof.Machine.execQueueDeadlock core s
  | .ceCommandStart core gather => Sys2Proof.Machine.execCeCommandStart core gather s
  | .copyChunk core => Sys2Proof.Machine.execCopyChunk core s
  | .gatherStep core => Sys2Proof.Machine.execGatherStep core s
  | .engineCommandComplete core gather failed => Sys2Proof.Machine.execEngineCommandComplete core gather failed s
  | .followOnEntry core => Sys2Proof.Machine.execFollowOnEntry core s
  | .mxCommandStart core => Sys2Proof.Machine.execMxCommandStart core s
  | .mxStep core => Sys2Proof.Machine.execMxStep core s
  | .mxTwSatisfied core => Sys2Proof.Machine.execMxTwSatisfied core s
  | .mxCommandComplete core => Sys2Proof.Machine.execMxCommandComplete core s
  | .rtCommandStart core => Sys2Proof.Machine.execRtCommandStart core s
  | .rtRowCommit core => Sys2Proof.Machine.execRtRowCommit core s
  | .rtCommandComplete core => Sys2Proof.Machine.execRtCommandComplete core s
  | .vectorBeat core => Sys2Proof.Machine.execVectorBeat core s
  | .multicastLand => Sys2Proof.Machine.execMulticastLand s
  | .fabricDataArrival port p => Sys2Proof.Machine.execFabricDataArrival port p s
  | .claimWaitEnd ctx n => Sys2Proof.Machine.execClaimWaitEnd ctx n s
  | .deadlineRelease ctx tdesc chunk => Sys2Proof.Machine.execDeadlineRelease ctx tdesc chunk s
  | .ackArrival port handle chunk path marked => Sys2Proof.Machine.execAckArrival port handle chunk path marked s
  | .chkReqReceived port p => Sys2Proof.Machine.execChkReqReceived port p s
  | .pauseReceived port p => Sys2Proof.Machine.execPauseReceived port p s
  | .resumeReceived port p => Sys2Proof.Machine.execResumeReceived port p s
  | .weirReqReceived port p => Sys2Proof.Machine.execWeirReqReceived port p s
  | .ticketReceived port p => Sys2Proof.Machine.execTicketReceived port p s
  | .callReceived port p => Sys2Proof.Machine.execCallReceived port p s
  | .weirDoneReceived port p => Sys2Proof.Machine.execWeirDoneReceived port p s
  | .faultReceived port p => Sys2Proof.Machine.execFaultReceived port p s
  | .newepReceived port p => Sys2Proof.Machine.execNewepReceived port p s
  | .packetTransmit core flow => Sys2Proof.Machine.execPacketTransmit core flow s
  | .timeout core handle chunk => Sys2Proof.Machine.execTimeout core handle chunk s
  | .timer core t => Sys2Proof.Machine.execTimer core t s
  | .eventDeferredEnqueue core => Sys2Proof.Machine.execEventDeferredEnqueue core s
  | .connectionClose port index => Sys2Proof.Machine.execConnectionClose port index s
  | .link port up => Sys2Proof.Machine.execLink port up s
  | .walkerEmit ctx handle => Sys2Proof.Machine.execWalkerEmit ctx handle s
  | .gatedChunkRelease core handle chunk => Sys2Proof.Machine.execGatedChunkRelease core handle chunk s
  | .collDone ctx handle => Sys2Proof.Machine.execCollDone ctx handle s
  | .sluiceTrapTimeout core => Sys2Proof.Machine.execSluiceTrapTimeout core s
  | .settleEnd ctx => Sys2Proof.Machine.execSettleEnd ctx s
  | .storageFormatWrite n w0 w1 w2 w3 => Sys2Proof.Machine.execStorageFormatWrite n w0 w1 w2 w3 s
  | .basinCarveoutSet die size => Sys2Proof.Machine.execBasinCarveoutSet die size s
  | .softErrorCorrected u m => Sys2Proof.Machine.execSoftErrorCorrected u m s
  | .softErrorUncorrectable u lost => Sys2Proof.Machine.execSoftErrorUncorrectable u lost s
  | .getVersion => Sys2Proof.Machine.execGetVersion s
  | .getCapabilities => Sys2Proof.Machine.execGetCapabilities s
  | .negotiateAlgorithms => Sys2Proof.Machine.execNegotiateAlgorithms s
  | .getDigests => Sys2Proof.Machine.execGetDigests s
  | .getCertificate off len => Sys2Proof.Machine.execGetCertificate off len s
  | .challenge nonce => Sys2Proof.Machine.execChallenge nonce s
  | .getMeasurements nonce => Sys2Proof.Machine.execGetMeasurements nonce s
  | .unsupportedRequest code => Sys2Proof.Machine.execUnsupportedRequest code s
  | .hw2ApertureWrite off data => Sys2Proof.Machine.execHw2ApertureWrite off data s
  | .coreCycle => Sys2Proof.Machine.execCoreCycle s

end Sys2Proof.Machine
end

