-- ==== Sys2Proof/Machine/Turn.lean ====
section
/-! DEFINITION. What a step is: the next turn of the agenda or of the schedule (log entry 2); and how an instruction is put
where the next step fetches (log entry 15). -/

namespace Sys2Proof.Machine

/-! ## Turns -/

/-- The turn that comes next, and the state that has taken it: the head of the agenda, else the schedule's. -/
def State.takeTurn (s : State) : Turn × State :=
  match s.agenda with
  | t :: r => (t, { s with agenda := r })
  | [] => (Config.schedule s.turn, { s with turn := s.turn + 1 })

/-- Event `i` happens: no stream is selected, but that a vector beat is aimed at its syllable. A word is no event. -/
def State.runEvent (ex : Meaning) (s : State) (i : Instr) : Out :=
  if i.hasWord then s.nothing
  else
    match i with
    | .vectorBeat c => ex i (s.aimBeat ex c)
    | _ => ex i { s with cur := Cursor.none }

/-- A turn is taken. -/
def State.runTurn (ex : Meaning) (s : State) (t : Turn) : Out :=
  match t with
  | .run a => s.runAgent ex a
  | .event i => s.runEvent ex i

/-! ## Placing an instruction -/

/-- Words that only the EP runs: the vector, matrix and rotator majors, `bcq` and `bncq`. -/
def epOnly (w : Nat) : Bool :=
  let m := fld w 26 21
  (0x20 ≤ m && m < 0x38) || (m == 0x0B && (fld w 20 11 == 256 || fld w 20 11 == 288))

/-- Words that only a Sluice core runs. -/
def sluiceOnly (w : Nat) : Bool := 0x3C ≤ fld w 26 21 && fld w 26 21 < 0x3F

/-- The agent that is to run the word `w`: bit 27 is E in the EP, and the literal form in major 0x0A. -/
def agentFor (w : Nat) : Agent :=
  if sluiceOnly w then .sluice 0
  else if epOnly w || (bit27 w && fld w 26 21 != 0x0A) then .ep 0
  else .ap 0

/-- The bytes stored for `w`: its word and its literal; in the EP an open bundle is ended by an idle syllable, which is
`add g0, g0, g0`, and `mx.sync` after a branch. -/
def placedBytes (w : Nat) : List Byte :=
  match agentFor w with
  | .ep _ =>
    if bit27 w then bytesOf 4 w
    else bytesOf 4 w ++ bytesOf 4 (if slotOf w == .s then 0x0E120000 else 0x08200000)
  | _ => bytesOf 8 w

/-- Store bytes where stream `w` fetches next; `none` where it cannot fetch. -/
def State.placeAt (s : State) (w : Who) (pc : Word) (bs : List Byte) : Option State :=
  match w with
  | .sluice n => if pc.toNat + bs.length ≤ sramSize then some (s.setSl n ((s.slAt n).setSram pc.toNat bs)) else none
  | .core _ _ k =>
    match s.runs (s.lcAt k).ctx k .fetch 3 pc.toNat bs.length with
    | .ok rs => some (s.putRuns rs bs)
    | _ => none

/-- A context with one executable page at 0x1000, a logical core that runs from it on core 0, and a Sluice core bound to it:
what a host and firmware would have set up. -/
def State.setUp (s : State) : State :=
  let kern : Kern := { Kern.zero with apBase := 0x1000, apSize := 4096, epBase := 0x1000, epSize := 4096, banks := 15, units := 7, flags := 64 }
  let l : LCore := { LCore.fresh with
    ctx := 1
    kern := kern
    loc := .banked 0
    ap := { Strm.fresh with pc := 0x1000 }
    ep := { Strm.fresh with pc := 0x1000 }
    launch := [(2, 1)] }
  let p : PCore := { PCore.fresh with rot := [0], active := some 0, power := .awake }
  let x : Sluice := { Sluice.fresh with ctx := 1, bound := true, running := true }
  let s1 := (((s.setCtx 1 { Ctx.fresh with ptroot := 0x10000 }).setLc 0 l).setCore 0 p).setSl 0 x
  (((s1.setRaws 0x10000 (bytesOf 8 (1 + 0x20000))).setRaws 0x20000 (bytesOf 8 (1 + 0x40000))).setRaws 0x40000
    (bytesOf 8 (1 + 0x41000))).setRaws 0x41008 (bytesOf 8 (leafRX + 0x42000))

/-- Store the instruction `w` where agent `a` fetches next, if it runs. -/
def State.placeFor (s : State) (a : Agent) (w : Nat) : Option State :=
  match s.streamOf a with
  | some (x, pc) => s.placeAt x pc (placedBytes w)
  | none => none

/-- The instruction whose bits are `w` stands where the next step fetches, and that step runs it: in a stream that runs
already, else in one that is set up. -/
def State.placeWord (s : State) (w : Nat) : State :=
  let a := agentFor w
  let s1 := match s.placeFor a w with
    | some t => t
    | none =>
      match s.setUp.placeFor a w with
      | some t => t
      | none => s.setUp
  { s1 with agenda := .run a :: s1.agenda }

end Sys2Proof.Machine
end

