-- ==== Sys2Proof/Machine/Step.lean ====
section
/-! DEFINITION. One step of the machine. -/

namespace Sys2Proof.Machine

/-- One step: the next turn is taken. -/
def step (s : State) : Host.Outcome State Fault Refusal := (s.takeTurn.2).runTurn exec s.takeTurn.1

/-- The instruction whose bits are `w`, the first word in bits 31:0, stands where the next step fetches. -/
def State.withFetchWord (s : State) (_nbits w : Nat) : State := s.placeWord w

end Sys2Proof.Machine
end

