-- ==== Sys2Proof/Safety.lean ====
section
/-! DEFINITION. What counts as a safe run (a step that goes on, and the invariant of the machine's state), and the terms in
which the statements say what an instruction leaves: which registers, queues, tokens and bytes change, and that nothing
else does. -/

namespace Sys2Proof.Safety

open Sys2Proof.Machine

/-- The step answers a next state. -/
def goesOn (o : Host.Outcome State Fault Refusal) : Bool :=
  match o with
  | .next _ => true
  | _ => false

/-- Memory keeps its canonical form. -/
def MemoryOk (s : State) : Prop := Memory.wf s.mem = true

/-! ## What a retirement leaves (04_scalar.md R74 to R76, R89; 13_streams.md R239, R241; 02_encoding.md R33) -/

/-- Nothing of the device differs but logical cores, Sluice cores and the cursor. -/
def OnlyStreams (s t : State) : Prop := t = { s with lcores := t.lcores, sluices := t.sluices, cur := t.cur }

/-- Logical core `k` alone may differ among the logical cores; the Sluice cores are as before. -/
def OnlyCore (s t : State) (k : Nat) : Prop :=
  (∀ j, j ≠ k → t.lcores.at? j = s.lcores.at? j) ∧ t.sluices = s.sluices

/-- Sluice core `n` alone may differ among the Sluice cores; the logical cores are as before. -/
def OnlySluice (s t : State) (n : Nat) : Prop :=
  (∀ j, j ≠ n → t.sluices.at? j = s.sluices.at? j) ∧ t.lcores = s.lcores

/-- The register or queue write that the bundle's vector syllable makes when the bundle closes. -/
def closingWrite (s : State) (ep : Bool) : Option (Nat × Word) :=
  if ep ∧ s.cur.left = 0 then s.cur.regWrite else none

/-- The registers of stream `ep` of `m` are those of `l` with `v` in register `d` and `x` on top; g0 keeps nothing. -/
def RegsWritten (l m : LCore) (ep : Bool) (d : Nat) (v : Word) (x : Option (Nat × Word)) : Prop :=
  ∀ n, n < 24 → m.reg ep n =
    if n = 0 then 0
    else match x with
      | some (r, y) => if n = r then y else if n = d then v else l.reg ep n
      | none => if n = d then v else l.reg ep n

/-- Each stream queue of `m` is that of `l`, popped when a source names it, with `v` pushed when `d` names it and then
the value of `x`. -/
def QueuesMoved (l m : LCore) (srcs : List Nat) (d : Nat) (v : Word) (x : Option (Nat × Word)) : Prop :=
  ∀ n, n < 8 → m.queue n =
    (if 24 + n ∈ srcs then (l.queue n).tail else l.queue n)
      ++ (if d = 24 + n then [v] else [])
      ++ (match x with
        | some (r, y) => if r = 24 + n then [y] else []
        | none => [])

/-- What a bundle leaves in `l` when it closes: pending numeric status merged, vector progress cleared, a descriptor
written (R61, R66, R183). -/
def closed (s : State) (ep : Bool) (l : LCore) : LCore :=
  if ep ∧ s.cur.left = 0 then l.closeBundle s.cur.vector s.cur.descWrite else l

/-- The rill counts of `l` after a word of stream `ep` with rill bits `q`: taken and given at once in the AP, and at the
bundle's end, for all of its words, in the EP (R241). -/
def rillAfter (s : State) (ep : Bool) (q : Rill) (l : LCore) : SMap Nat :=
  if ep then if s.cur.left = 0 then ((l.rillAct posV q).rillAct posV s.cur.rill).rill else l.rill
  else (l.rillAct posA q).rill

/-- The stream's address and loops after a word that goes on as `f` says: the end-of-body check, which trap mode leaves out,
or a transfer (R89, R91). A syllable that does not end its bundle moves nothing. -/
def wentOn (s : State) (ep : Bool) (l : LCore) (f : Flow) : Strm :=
  if ep then
    if s.cur.left = 0 then { l.ep.retire false s.cur.pc s.cur.next f with handed := false } else l.ep
  else l.ap.retire l.trapMode s.cur.pc s.cur.next f

/-- The fields of a logical core that a retirement of stream `ep` may change, and how those change that no register or queue
shows: all others are as before. -/
def OnlyRetired (s : State) (l m : LCore) (ep : Bool) (q : Rill) (f : Flow) : Prop :=
  m.strm ep = { wentOn s ep l f with regs := (m.strm ep).regs } ∧
  m.strm (!ep) = l.strm (!ep) ∧
  m.rill = rillAfter s ep q l ∧
  if ep ∧ s.cur.left ≠ 0 then m = { l with ep := m.ep, qs := m.qs }
  else m = { closed s ep l with
    ap := m.ap
    ep := m.ep
    qs := m.qs
    rill := m.rill
    dlcnt := 0
    epBusy := ep || l.epBusy
    pcs := (l.count (if ep then 3 else 2) 1).pcs }

/-- The cursor after a retirement. -/
def cursorAfter (s : State) (ep : Bool) (q : Rill) : Cursor :=
  if ep ∧ s.cur.left ≠ 0 then { s.cur with rill := Rill.or s.cur.rill q, verdict := .done }
  else { s.cur with verdict := .done }

/-- Stream `ep` of logical core `k` retires a word that names the sources `u.srcs`, writes `v` to `d` and goes on as `f`
says: registers, queues, rill counts, the stream's address and loops, the retirement counter, and nothing else. -/
def CoreRetired (s t : State) (ep : Bool) (k : Nat) (u : Use) (d : Nat) (v : Word) (f : Flow) : Prop :=
  OnlyCore s t k ∧
  t.cur = cursorAfter s ep u.q ∧
  RegsWritten (s.lcAt k) (t.lcAt k) ep d v (closingWrite s ep) ∧
  QueuesMoved (s.lcAt k) (t.lcAt k) u.srcs d v (closingWrite s ep) ∧
  OnlyRetired s (s.lcAt k) (t.lcAt k) ep u.q f

/-- Where a Sluice core goes on. -/
def sluiceNext (s : State) (f : Flow) : Word :=
  match f with
  | .next => s.cur.next
  | .goto a => a
  | .jump a => a

/-- Sluice core `n` retires a word that writes `v` to `d` and goes on as `f` says. -/
def SluiceRetired (s t : State) (n d : Nat) (v : Word) (f : Flow) : Prop :=
  OnlySluice s t n ∧
  (∀ r, (t.slAt n).reg r = if r = 0 then 0 else if r = d then v else (s.slAt n).reg r) ∧
  t.cur = { s.cur with verdict := .done } ∧
  t.slAt n = { s.slAt n with regs := (t.slAt n).regs, pc := sluiceNext s f, stall := none }

/-- The running word retires: it takes its sources, writes `v` to register or queue `d` (`d` = 0: nothing), and goes on as
`f` says; nothing else of the device differs. -/
def Retired (s t : State) (w : Who) (u : Use) (d : Nat) (v : Word) (f : Flow) : Prop :=
  OnlyStreams s t ∧
  match w with
  | .core ep _ k => CoreRetired s t ep k u d v f
  | .sluice n => SluiceRetired s t n d v f

/-! ## Taking a trap (07_traps.md R141, R143, R147; 15_sluice.md R282) -/

/-- Where physical core `c` writes the fault record of logical core `k`. -/
def recordAt (s : State) (c k : Nat) : Nat := paFault (s.lcAt k).ctx + 256 * c

/-- CYCLE when the first fault of logical core `k` was detected: now, unless a detected one waits for its units to stop
(07_traps.md R140, R141). -/
def stampOf (s : State) (k : Nat) : Word := if (s.lcAt k).trapReq.isSome then (s.lcAt k).trapAt else s.cycle

/-- The fault record of trap `x`, of logical core `k` on physical core `c`, stands in memory, and no other byte differs:
version, cause, unit, syllable and core, CYCLE at the detection and now, the two resume addresses, TEPC, TADDR and LCOREID
(07_traps.md Table 2). -/
def RecordWritten (s t : State) (c k : Nat) (x : TrapInfo) (stamp ap ep : Word) : Prop :=
  let r := recordAt s c k
  (∀ pa, pa < r ∨ r + 256 ≤ pa → t.rawByte pa = s.rawByte pa) ∧
  t.rawBytes r 2 = bytesOf 2 0x0100 ∧ t.rawBytes (r + 2) 1 = bytesOf 1 x.cause ∧
  t.rawBytes (r + 3) 1 = bytesOf 1 x.unit ∧ t.rawBytes (r + 4) 1 = bytesOf 1 x.syl ∧
  t.rawBytes (r + 6) 2 = bytesOf 2 c ∧ t.rawBytes (r + 8) 8 = bytesOf 8 stamp.toNat ∧
  t.rawBytes (r + 0x10) 8 = bytesOf 8 s.cycle.toNat ∧
  t.rawBytes (r + 0x18) 8 = bytesOf 8 ap.toNat ∧ t.rawBytes (r + 0x20) 8 = bytesOf 8 ep.toNat ∧
  t.rawBytes (r + 0x28) 8 = bytesOf 8 x.epc.toNat ∧ t.rawBytes (r + 0x30) 8 = bytesOf 8 x.addr.toNat ∧
  t.rawBytes (r + 0x38) 4 = bytesOf 4 (s.lcAt k).lcid

/-- A logical core with the trap registers of `x` written: TCAUSE, TEPC, TADDR and TSTATUS with STRM, ESC clear and TM as
given (03_registers.md Table 7); a stopped vector syllable's progress goes into VPROG, the engines stop, the trap is
counted. -/
def trapRegisters (l : LCore) (x : TrapInfo) (tm : Bool) : LCore :=
  { (l.stopVector (x.unit == 2 && x.cause != cIllegal && x.cause != cVectorOperand)).stopEngines with
    tcause := BitVec.ofNat 64 (x.cause % 256 + 256 * (x.unit % 256) + 65536 * (x.syl % 16))
    tepc := x.epc
    taddr := x.addr
    tstatus := BitVec.ofNat 64 ((if x.strm then 2 else 0) + (if tm then 1 else 0))
    pcs := (l.count 12 1).pcs
    pend := []
    trapReq := none }

/-- Logical core `k`, active on physical core `c`, has entered its handler for the trap `x`: the record and the trap
registers are written, TM is set, both resume addresses are kept, and the AP goes on at TVEC; nothing else differs. -/
def HandlerEntered (s t : State) (c k : Nat) (x : TrapInfo) : Prop :=
  t = { s with mem := t.mem, lcores := t.lcores, cur := { s.cur with verdict := .trapped } } ∧
  (∀ j, j ≠ k → t.lcores.at? j = s.lcores.at? j) ∧
  RecordWritten s t c k x (stampOf s k) (s.lcAt k).ap.pc (s.lcAt k).ep.pc ∧
  t.lcAt k = { trapRegisters (s.lcAt k) x true with
    apResume := (s.lcAt k).ap.pc
    epResume := (s.lcAt k).ep.pc
    trapUnit := x.unit
    trapCycles := 0
    ap := { (s.lcAt k).ap with
      pc := (s.lcAt k).tvec &&& ~~~ 3
      stall := none
      stallCycles := 0 } }

/-- Logical core `k` has a handler and is not in it. -/
abbrev HasHandler (s : State) (k : Nat) : Prop := (s.lcAt k).tvec.toNat ≠ 0 ∧ (s.lcAt k).trapMode = false

/-- Sluice core `n` has entered its handler: SCAUSE, SEPC and STADDR are written, TM is set, and it goes on at SVEC. -/
def SluiceHandlerEntered (s t : State) (n cause : Nat) (epc addr : Word) : Prop :=
  OnlyStreams s t ∧ OnlySluice s t n ∧ t.cur = { s.cur with verdict := .trapped } ∧
  t.slAt n = { s.slAt n with
    scause := BitVec.ofNat 64 (cause % 256)
    sepc := epc
    staddr := addr
    sstatus := 1
    trapCycles := 0
    stall := none
    pc := (s.slAt n).svec &&& ~~~ 3 }

/-- Sluice core `n` has a handler and is not in it. -/
abbrev SluiceHasHandler (s : State) (n : Nat) : Prop := 4 ≤ (s.slAt n).svec.toNat ∧ (s.slAt n).trapMode = false

/-- The running stream has a handler and does not run it. -/
abbrev MayTrap (s : State) (w : Who) : Prop :=
  match w with
  | .core _ _ k => HasHandler s k
  | .sluice n => SluiceHasHandler s n

/-- The running word's trap is taken precisely: its cause, its unit and syllable in the EP, its own address as TEPC, and
`addr` as TADDR; the word itself has had no effect. -/
def Trapped (s t : State) (w : Who) (unit cause : Nat) (addr : Word) : Prop :=
  match w with
  | .core ep c k =>
    HandlerEntered s t c k ⟨cause, if ep then unit else 0, if ep then s.cur.syl else 0, ep, s.cur.pc, addr⟩
  | .sluice n => SluiceHandlerEntered s t n cause s.cur.pc addr

/-- The running stream stalls on `why`: nothing else differs. -/
def Stalled (s t : State) (w : Who) (why : StallOn) : Prop :=
  OnlyStreams s t ∧ t.cur = { s.cur with verdict := .stalled } ∧
  match w with
  | .core ep _ k =>
    OnlyCore s t k ∧ t.lcAt k = (s.lcAt k).setStrm ep { (s.lcAt k).strm ep with stall := some why }
  | .sluice n => OnlySluice s t n ∧ t.slAt n = { s.slAt n with stall := some why }

end Sys2Proof.Safety
end

