-- ==== Sys2Proof/Certificates/Slice0/Obligations.lean ====
section
/-! DEFINITION. The statements for the provers. In each, `w` is the stream whose instruction runs, the premise
`s.issue w u = .go` says that the stream may issue an instruction with the uses `u` (where it is valid, which registers it
reads and writes; statement IssueConditions), and `Retired` says all that differs after it. -/

namespace Sys2Proof.Spec

open Sys2Proof.Machine
open Sys2Proof.Safety

/-! ## Shapes of statements -/

/-- Well formed, and where it may issue with uses `u`, instruction `i` answers a next state in which it has retired, with `v` written to `d`;
memory and every other part of the device are as before. -/
def Gives (i : Instr) (s : State) (w : Who) (u : Use) (d : Nat) (v : Word) (f : Flow) : Prop :=
  i.wf = true → s.issue w u = .go → ∃ t, exec i s = .next t ∧ Retired s t w u d v f

/-- A word valid in the AP, in the S slot of the EP and in the Sluice cores, also while a handler runs (04_scalar.md R74,
07_traps.md R144). -/
def anywhere (q : Rill) (e : Bool) (srcs dsts : List Nat) : Use :=
  { q := q, e := e, ap := true, ep := true, sl := true, srcs := srcs, dsts := dsts, inTrap := true, unit := 1 }

/-- A word valid in the AP and in the Sluice cores, also while a handler runs (02_encoding.md R30, R37). -/
def apAndSluice (q : Rill) (srcs dsts : List Nat) : Use :=
  { q := q, e := false, ap := true, ep := false, sl := true, srcs := srcs, dsts := dsts, inTrap := true, unit := 1 }

/-- As `Gives`, for an effect beside the stream's own: `s1` is `s` with that effect, and nothing but the retirement differs
from it. -/
def GivesFrom (s1 : State) (i : Instr) (s : State) (w : Who) (u : Use) (d : Nat) (v : Word) (f : Flow) : Prop :=
  i.wf = true → s.issue w u = .go → ∃ t, exec i s = .next t ∧ Retired s1 t w u d v f

/-- A word valid in the AP and the S slot, outside trap mode (02_encoding.md R40, 07_traps.md R144). -/
def apAndEp (q : Rill) (e : Bool) (srcs dsts : List Nat) : Use :=
  { q := q, e := e, ap := true, ep := true, sl := false, srcs := srcs, dsts := dsts, inTrap := false, unit := 1 }

/-- A word valid in the AP only, outside trap mode. -/
def apOnly (q : Rill) (srcs dsts : List Nat) : Use :=
  { q := q, e := false, ap := true, ep := false, sl := false, srcs := srcs, dsts := dsts, inTrap := false, unit := 1 }

/-- gd ← f(ga, gb). -/
def Rrr (mk : Rill → Bool → Nat → Nat → Nat → Instr) (f : Word → Word → Word) : Prop :=
  ∀ s w q e d a b, s.who = some w →
    Gives (mk q e d a b) s w (anywhere q e [a, b] [d]) d (f (s.src w a) (s.src w b)) .next

/-- gd ← f(ga, imm), with the immediate in the word. -/
def Rri (mk : Rill → Bool → Nat → Nat → Nat → Instr) (f : Word → Nat → Word) : Prop :=
  ∀ s w q e d a imm, s.who = some w →
    Gives (mk q e d a imm) s w (anywhere q e [a] [d]) d (f (s.src w a) imm) .next

/-- gd ← f(ga, literal). -/
def Rrl (mk : Rill → Nat → Nat → Nat → Instr) (f : Word → Nat → Word) : Prop :=
  ∀ s w q d a lit, s.who = some w →
    Gives (mk q d a lit) s w (apAndSluice q [a] [d]) d (f (s.src w a) lit) .next

/-- The low `n` bits of `v`, sign-extended to 64 bits (R27). -/
def signed (n v : Nat) : Word := (BitVec.ofNat n v).signExtend 64

/-- The address of the running word: in the EP, of its syllable. -/
def here (s : State) : Word := s.cur.pc + BitVec.ofNat 64 (4 * s.cur.syl)

/-- A branch on ga. -/
def Branches (mk : Rill → Bool → Nat → Nat → Instr) (c : Word → Bool) : Prop :=
  ∀ s w q e a off, s.who = some w →
    Gives (mk q e a off) s w (anywhere q e [a] []) 0 0
      (if c (s.src w a) then .jump (here s + 4 * signed 11 off) else .next)

/-- A branch of the S slot on the oldest CQ entry, which it pops. -/
def CqBranches (mk : Rill → Bool → Nat → Instr) (taken : Bool) : Prop :=
  ∀ s c k q e off b r, s.who = some (.core true c k) → (s.lcAt k).cq = b :: r →
    GivesFrom (s.setLc k { s.lcAt k with cq := r }) (mk q e off) s (.core true c k)
      { q := q, e := e, ap := false, ep := true, sl := false, srcs := [], dsts := [], inTrap := false, unit := 1 } 0 0
      (if b = taken then .jump (here s + 4 * signed 11 off) else .next)

/-- Stream `ep` of logical core `k` with loop `c` set up for count `n` over a body of `len` words that begins at the next
word: a count of 0 clears it, any other makes its frame active (R88). -/
def withLoop (s : State) (ep : Bool) (k c len : Nat) (n : Word) : State :=
  let t := (s.lcAt k).strm ep
  let f : Loop :=
    if n = 0 then { t.loop c with count := 0, active := false }
    else { count := n, first := s.cur.next, last := s.cur.next + BitVec.ofNat 64 (4 * (len - 1)), active := true }
  s.setLc k ((s.lcAt k).setStrm ep (t.setLoop c f))

/-- Where a loop instruction leads: past its body when the count is 0. -/
def loopFlow (s : State) (len : Nat) (n : Word) : Flow :=
  if n = 0 then .goto (s.cur.next + BitVec.ofNat 64 (4 * (len - 1)) + 4) else .next

/-- Uses of `loop` and `loopi`. -/
def loopUse (q : Rill) (e : Bool) (srcs : List Nat) : Use :=
  { q := q, e := e, ap := true, ep := true, sl := false, srcs := srcs, dsts := [], inTrap := false, unit := 1 }

/-- The end-of-body check over the frames `fs`, in their order, with `a` the address after the last word: the stream it
leaves, and where that goes on (R89). -/
def checkFrames (a : Word) : List Nat → Strm → Strm × Word
  | [], t => (t, a)
  | i :: r, t =>
    if 1 < (t.loop i).count.toNat then (t.setLoop i { t.loop i with count := (t.loop i).count - 1 }, (t.loop i).first)
    else checkFrames a r (t.setLoop i { t.loop i with count := 0, active := false })

/-- A loop instruction in the AP. -/
def LoopsAp (i : Instr) (q : Rill) (e : Bool) (srcs : List Nat) (c len : Nat) (n : State → Who → Word) : Prop :=
  ∀ s p k, s.who = some (.core false p k) → c < 3 → 0 < len →
    GivesFrom (withLoop s false k c len (n s (.core false p k))) i s (.core false p k) (loopUse q e srcs) 0 0
      (loopFlow s len (n s (.core false p k)))

/-- A loop instruction in the S slot, when the last word of its body ends a bundle (R88). -/
def LoopsEp (i : Instr) (q : Rill) (e : Bool) (srcs : List Nat) (c len : Nat) (n : State → Who → Word) : Prop :=
  ∀ s s1 p k x, s.who = some (.core true p k) → c < 3 → 0 < len →
    s.fetchCore k (s.cur.next + BitVec.ofNat 64 (4 * (len - 1))) = .ok (x, s1) → x.testBit 27 = true →
    GivesFrom (withLoop s1 true k c len (n s (.core true p k))) i s (.core true p k) (loopUse q e srcs) 0 0
      (loopFlow s len (n s (.core true p k)))

/-- A load of `n` bytes at ga + disp: where the access gives the bytes `bs`, gd gets them, extended. -/
def Loads (mk : Rill → Nat → Nat → Nat → Instr) (n : Nat) (sgn : Bool) (disp : Nat → Word) : Prop :=
  ∀ s w q d a off bs s1, s.who = some w → (s.src w a + disp off).toNat % n = 0 →
    s.loadAt w (s.src w a + disp off) n = .ok (bs, s1) →
    GivesFrom s1 (mk q d a off) s w (apAndSluice q [a] [d]) d
      (if sgn then (BitVec.ofNat (8 * n) (ofBytes bs)).signExtend 64 else BitVec.ofNat 64 (ofBytes bs)) .next

/-- A store of the low `n` bytes of gs at ga + disp, where the access may proceed. -/
def Stores (mk : Rill → Nat → Nat → Nat → Instr) (n : Nat) (disp : Nat → Word) : Prop :=
  ∀ s w q g a off s1, s.who = some w → (s.src w a + disp off).toNat % n = 0 →
    s.storeAt w (s.src w a + disp off) (bytesOf n (s.src w g).toNat) = .ok s1 →
    GivesFrom s1 (mk q g a off) s w (apAndSluice q [g, a] []) 0 0 .next

/-- The displacement of a word: the signed 7-bit field, scaled by the access size; and of a literal form. -/
def scaled (n off : Nat) : Word := BitVec.ofInt 64 ((BitVec.ofNat 7 off).toInt * n)

/-- A misaligned access of `n` bytes raises MISALIGNED with the address in TADDR, and has no effect. -/
def Misaligns (mk : Rill → Nat → Nat → Nat → Instr) (n : Nat) (srcs dsts : Nat → Nat → List Nat) (disp : Nat → Word) : Prop :=
  ∀ s w q d a off, s.who = some w → (s.src w a + disp off).toNat % n ≠ 0 → MayTrap s w →
    s.issue w (apAndSluice q (srcs d a) (dsts d a)) = .go →
    ∃ t, exec (mk q d a off) s = .next t ∧ Trapped s t w 1 2 (s.src w a + disp off)

/-- The difference of two counters, modulo 2^32. -/
def gap (a b : Nat) : Nat := (BitVec.ofNat 32 a - BitVec.ofNat 32 b).toNat

/-- Address `p` is none of the `n` bytes from `pa`. -/
def outside (pa n p : Nat) : Prop := p < pa ∨ pa + n ≤ p

/-- A page may lie at physical address `pa`: in HBM or in host memory (08_memory.md R154). -/
abbrev mapped (pa : Nat) : Prop := pa < 2 ^ 39 ∨ 0x4000000000000 ≤ pa ∧ pa < 0x8000000000000

/-- `va` lies in a page of context `x` that is mapped at `pa`, through the leaf `e` at `p` (R166). -/
def Paged (s : State) (x va pa p : Nat) (e : Word) : Prop :=
  va < 0x01FFFF0000000000 ∧ ∃ size, s.walk x va = .leaf p e size ∧ pa = leafPa e size va ∧ mapped pa

/-- The `n` bytes at `va` lie in the basin window, within the grant of context `x` on that die, at `pa` (R161). -/
abbrev Granted (s : State) (x va n pa : Nat) : Prop :=
  let o := va - 0x01FFFF0040000000
  0x01FFFF0040000000 ≤ va ∧ va < 0x01FFFF0060000000 ∧ o % 2 ^ 27 + n ≤ (s.ctxAt x).grantSize (o / 2 ^ 27) ∧
  pa = 0x1000000000000 + o / 2 ^ 27 * 2 ^ 27 + (s.ctxAt x).grantBase (o / 2 ^ 27) + o % 2 ^ 27

/-- The entry of the local-store map of logical core `k` for `va`. -/
def localEntry (s : State) (k va : Nat) : BitVec 16 := (s.lcAt k).lsmap.atD ((va - 0x01FFFF0000000000) / 16384) 0

/-- `va` lies in a page of its own local store that logical core `k` holds, at `pa` (R157). -/
abbrev Local (s : State) (k va pa : Nat) : Prop :=
  let o := va - 0x01FFFF0000000000
  let e := localEntry s k va
  0x01FFFF0000000000 ≤ va ∧ va < 0x01FFFF0000200000 ∧ e.getLsbD 15 = true ∧ e.getLsbD 14 = true ∧
  pa = 0x2000000000000 + (s.lcAt k).core * 2 ^ 21 + e.toNat % 128 * 16384 + o % 16384

/-- The bit of a leaf that permits an access: Ra, W or X (R167). -/
def permits (how : Access) (e : Word) : Bool :=
  match how with
  | .load => e.getLsbD 2
  | .store => e.getLsbD 3
  | .fetch => e.getLsbD 4

/-- Where an access of logical core `k` to the `n` aligned bytes at `va` is performed: at `pa`, in a page (through the leaf at
`leaf`), in its local store, in the basin or, for a load, in the fault-record window (R153). -/
def HomeOf (s : State) (k : Nat) (how : Access) (va n pa : Nat) (leaf : Option Nat) : Prop :=
  let x := (s.lcAt k).ctx
  (∃ p e, Paged s x va pa p e ∧ permits how e = true ∧ leaf = some p) ∨
  (leaf = none ∧ (how = .load ∨ how = .store) ∧ (Local s k va pa ∨ Granted s x va n pa)) ∨
  (leaf = none ∧ how = .load ∧ 0x01FFFF0060000000 ≤ va ∧ va < 0x01FFFF0060010000 ∧
    pa = paFault x + (va - 0x01FFFF0060000000))

/-- Address `va` is in no window that an access of kind `how` may use (R153): beyond 2^57, between the windows, in the
multicast window for a load, in the fault-record window for a store. -/
abbrev noWindow (how : Access) (va : Nat) : Prop :=
  2 ^ 57 ≤ va ∨ (0x01FFFF0000200000 ≤ va ∧ va < 0x01FFFF0020000000) ∨
  (how = .load ∧ 0x01FFFF0020000000 ≤ va ∧ va < 0x01FFFF0040000000) ∨
  (how = .store ∧ 0x01FFFF0060000000 ≤ va ∧ va < 0x01FFFF0060010000) ∨ (0x01FFFF0060010000 ≤ va ∧ va < 2 ^ 57)

/-- Checks 2 to 5 of 04_scalar.md R82 for a load or store form of logical cores, in their order, and the wait for a page of
local store that is allotted and not present (08_memory.md R157). A leaf that names a region no page may map is reported
besides (R154). -/
def AccessTraps (mk : Rill → Nat → Nat → Nat → Instr) (n : Nat) (how : Access) (srcs dsts : Nat → Nat → List Nat)
    (disp : Nat → Word) : Prop :=
  ∀ s ep c k q d a off, s.who = some (.core ep c k) →
    let w := Who.core ep c k
    let x := (s.lcAt k).ctx
    let v := s.src w a + disp off
    let va := v.toNat
    let raises (s1 : State) (cause : Nat) : Prop := ∃ t, exec (mk q d a off) s = .next t ∧ Trapped s1 t w 1 cause v
    va % n = 0 → MayTrap s w → s.issue w (apAndSluice q (srcs d a) (dsts d a)) = .go →
    (noWindow how va → raises s 3) ∧
    (∀ cause, va < 0x01FFFF0000000000 → s.walk x va = .fault cause → raises s cause) ∧
    (∀ p e size, va < 0x01FFFF0000000000 → s.walk x va = .leaf p e size → ¬ mapped (leafPa e size va) →
      raises (s.report (.pageTable x v)) 3) ∧
    (∀ pa p e, Paged s x va pa p e → permits how e = false → raises s 3) ∧
    (0x01FFFF0000000000 ≤ va → va < 0x01FFFF0000200000 → (localEntry s k va).getLsbD 15 = false → raises s 4) ∧
    (0x01FFFF0000000000 ≤ va → va < 0x01FFFF0000200000 → (localEntry s k va).getLsbD 15 = true →
      (localEntry s k va).getLsbD 14 = false → s.inRange x va n = false →
      ∃ t, exec (mk q d a off) s = .next t ∧ Stalled s t w (.page k ((va - 0x01FFFF0000000000) / 16384))) ∧
    (0x01FFFF0040000000 ≤ va → va < 0x01FFFF0060000000 →
      (s.ctxAt x).grantSize ((va - 0x01FFFF0040000000) / 2 ^ 27) ≤ (va - 0x01FFFF0040000000) % 2 ^ 27 → raises s 3) ∧
    (∀ pa leaf, HomeOf s k how va n pa leaf → s.inRange x va n = true → raises s 5)

/-- A load form and a store form of `n` bytes: the checks of an access. -/
def LoadTraps (mk : Rill → Nat → Nat → Nat → Instr) (n : Nat) (disp : Nat → Word) : Prop :=
  AccessTraps mk n .load (fun _ a => [a]) (fun d _ => [d]) disp
def StoreTraps (mk : Rill → Nat → Nat → Nat → Instr) (n : Nat) (disp : Nat → Word) : Prop :=
  AccessTraps mk n .store (fun d a => [d, a]) (fun _ _ => []) disp

/-- A bank-ALU operation of stream `w` on the `n` aligned bytes at `va` is performed at physical address `pa`: in a NORMAL
page that may be read and written, or in the basin, with no listed range touched; `s1` is `s` with the marks of the page
(08_memory.md R162, 12_vector_data.md R235). -/
def AmoHome (s : State) (w : Who) (va n pa : Nat) (s1 : State) : Prop :=
  match w with
  | .core _ _ k =>
    let x := (s.lcAt k).ctx
    s.inRange x va n = false ∧ ∃ leaf,
      ((∃ p e, Paged s x va pa p e ∧ e.getLsbD 2 = true ∧ e.getLsbD 3 = true ∧ e &&& ((3 : Word) <<< 56) = 0 ∧ leaf = some p) ∨
        (Granted s x va n pa ∧ leaf = none)) ∧
      s1 = (s.readMarks x [⟨va, .phys pa leaf, n⟩]).writeMarks x [⟨va, .phys pa leaf, n⟩]
  | .sluice i => (s.slAt i).bound = true ∧ Granted s (s.slAt i).ctx va n pa ∧ s1 = s

/-- A bank-ALU operation at ga, aligned, at its home: gd gets the old value, of the type's width (a 32-bit integer
sign-extended), and `f` of it is stored in its place. -/
def Amos (mk : Rill → Nat → Nat → Nat → Nat → Instr) (types : List Nat) (cas : Bool) (f : Nat → Nat → Nat → Nat → Nat) : Prop :=
  ∀ s w q d a b ty pa s1, s.who = some w → ty ∈ types →
    let n := tyBits (amoType ty) / 8
    let old := ofBytes (s.physBytes pa n)
    (s.src w a).toNat % n = 0 → AmoHome s w (s.src w a).toNat n pa s1 →
    GivesFrom (s1.setPhyss pa (bytesOf n (f (amoType ty) old (s.src w b).toNat (s.src w d).toNat)))
      (mk q d a b ty) s w (apAndSluice q (if cas then [a, b, d] else [a, b]) [d]) d
      (if ty = 0 then (BitVec.ofNat 32 old).signExtend 64 else BitVec.ofNat 64 old) .next

/-- The checks of a bank-ALU operation (12_vector_data.md R235 Table 3), in their order. -/
def AmoTraps (mk : Rill → Nat → Nat → Nat → Nat → Instr) (types : List Nat) (cas : Bool) : Prop :=
  ∀ s w q d a b ty, s.who = some w → ty ∈ types →
    let n := tyBits (amoType ty) / 8
    let v := s.src w a
    let va := v.toNat
    let raises (cause : Nat) : Prop := ∃ t, exec (mk q d a b ty) s = .next t ∧ Trapped s t w 1 cause v
    MayTrap s w → s.issue w (apAndSluice q (if cas then [a, b, d] else [a, b]) [d]) = .go →
    (va % n ≠ 0 → raises 2) ∧
    (va % n = 0 → 0x01FFFF0060000000 ≤ va → raises 3) ∧
    (va % n = 0 → ∀ ep c k, w = .core ep c k →
      (0x01FFFF0000000000 ≤ va → va < 0x01FFFF0040000000 → raises 3) ∧
      (∀ cause, va < 0x01FFFF0000000000 → s.walk (s.lcAt k).ctx va = .fault cause → raises cause) ∧
      (∀ pa p e, Paged s (s.lcAt k).ctx va pa p e →
        e.getLsbD 2 = false ∨ e.getLsbD 3 = false ∨ e &&& ((3 : Word) <<< 56) ≠ 0 → raises 3) ∧
      (∀ pa p e, Paged s (s.lcAt k).ctx va pa p e → e.getLsbD 2 = true → e.getLsbD 3 = true → e &&& ((3 : Word) <<< 56) = 0 →
        s.inRange (s.lcAt k).ctx va n = true → raises 5) ∧
      (∀ pa, Granted s (s.lcAt k).ctx va n pa → s.inRange (s.lcAt k).ctx va n = true → raises 5)) ∧
    (va % n = 0 → ∀ i, w = .sluice i → va < 0x01FFFF0040000000 → raises 3)

end Sys2Proof.Spec

section

open Sys2Proof

open Sys2Proof.Machine
open Sys2Proof.Safety
open Sys2Proof.Spec

/-! ## Scalar arithmetic -/

/-- 04_scalar.md R78 with Table 1: the register operations, other than division, write the value of the table to gd and
change nothing else. -/
def Sys2Proof.Parts.AluResults : Prop :=
  Rrr .add (fun x y => x + y) ∧ Rrr .sub (fun x y => x - y) ∧ Rrr .and (fun x y => x &&& y) ∧
  Rrr .or (fun x y => x ||| y) ∧ Rrr .xor (fun x y => x ^^^ y) ∧
  Rrr .sll (fun x y => x <<< (y.toNat % 64)) ∧ Rrr .srl (fun x y => x >>> (y.toNat % 64)) ∧
  Rrr .sra (fun x y => x.sshiftRight (y.toNat % 64)) ∧
  Rrr .slt (fun x y => if x.slt y then 1 else 0) ∧ Rrr .sltu (fun x y => if x.ult y then 1 else 0) ∧
  Rrr .min (fun x y => if x.slt y then x else y) ∧ Rrr .max (fun x y => if x.slt y then y else x) ∧
  Rrr .minu (fun x y => if x.ult y then x else y) ∧ Rrr .maxu (fun x y => if x.ult y then y else x) ∧
  Rrr .addw (fun x y => ((x + y).setWidth 32).signExtend 64) ∧
  Rrr .subw (fun x y => ((x - y).setWidth 32).signExtend 64) ∧
  Rrr .mul (fun x y => x * y) ∧
  Rrr .mulh (fun x y => (x.signExtend 128 * y.signExtend 128).extractLsb' 64 64) ∧
  Rrr .mulhu (fun x y => (x.setWidth 128 * y.setWidth 128).extractLsb' 64 64)

/-- 04_scalar.md R79: division and remainder, with the results that the rule gives for a divisor of 0 and for overflow. -/
def Sys2Proof.Parts.DivisionResults : Prop :=
  Rrr .div (fun x y => if y = 0 then BitVec.allOnes 64 else x.sdiv y) ∧
  Rrr .divu (fun x y => if y = 0 then BitVec.allOnes 64 else x.udiv y) ∧
  Rrr .rem (fun x y => if y = 0 then x else x.srem y) ∧
  Rrr .remu (fun x y => if y = 0 then x else x.umod y) ∧
  (BitVec.intMin 64).sdiv (BitVec.allOnes 64) = BitVec.intMin 64 ∧ (BitVec.intMin 64).srem (BitVec.allOnes 64) = 0

/-- Two parts: AluResults and DivisionResults.

04_scalar.md R78 with Table 1: the register operations, other than division, write the value of the table to gd and
change nothing else.

04_scalar.md R79: division and remainder, with the results that the rule gives for a divisor of 0 and for overflow. -/
def Obligations.IntegerResults : Prop := Parts.AluResults ∧ Parts.DivisionResults


/-- 04_scalar.md R80 with Table 2, 02_encoding.md R30: the immediates and their literal forms. -/
def Sys2Proof.Parts.ImmediateResults : Prop :=
  Rri .addi (fun x n => x + signed 11 n) ∧ Rri .andi (fun x n => x &&& signed 11 n) ∧
  Rri .ori (fun x n => x ||| signed 11 n) ∧ Rri .xori (fun x n => x ^^^ signed 11 n) ∧
  Rri .slli (fun x n => x <<< n) ∧ Rri .srli (fun x n => x >>> n) ∧ Rri .srai (fun x n => x.sshiftRight n) ∧
  Rri .slti (fun x n => if x.slt (signed 8 n) then 1 else 0) ∧
  Rri .sltiu (fun x n => if x.ult (signed 8 n) then 1 else 0) ∧
  Rrl .addiLiteral (fun x n => x + signed 32 n) ∧ Rrl .andiLiteral (fun x n => x &&& signed 32 n) ∧
  Rrl .oriLiteral (fun x n => x ||| signed 32 n) ∧ Rrl .xoriLiteral (fun x n => x ^^^ signed 32 n)

/-- 04_scalar.md R80: `li` and its literal form load a constant; `lsh` shifts gd left by 16 and puts the immediate in. -/
def Sys2Proof.Parts.ConstantResults : Prop :=
  (∀ s w q e d imm, s.who = some w →
    Gives (.li q e d imm) s w (anywhere q e [] [d]) d (signed 16 imm) .next) ∧
  (∀ s w q d lit, s.who = some w →
    Gives (.liLiteral q d lit) s w (apAndSluice q [] [d]) d (signed 32 lit) .next) ∧
  (∀ s w q e d imm, s.who = some w →
    Gives (.lsh q e d imm) s w (anywhere q e [d] [d]) d ((s.src w d <<< 16) ||| BitVec.ofNat 64 imm) .next)

/-- Two parts: ImmediateResults and ConstantResults.

04_scalar.md R80 with Table 2, 02_encoding.md R30: the immediates and their literal forms.

04_scalar.md R80: `li` and its literal form load a constant; `lsh` shifts gd left by 16 and puts the immediate in. -/
def Obligations.ImmediateResults : Prop := Parts.ImmediateResults ∧ Parts.ConstantResults


/-! ## Branches, calls and loops -/

/-- 04_scalar.md R84, R85 and 02_encoding.md R29: a branch goes to PC + 4 · sext(off) when its condition holds of ga, read as
a signed value, or of the CQ entry that it pops, and to the next instruction otherwise. -/
def Sys2Proof.Parts.BranchResults : Prop :=
  Branches .beqz (fun x => x == 0) ∧ Branches .bnez (fun x => x != 0) ∧
  Branches .bltz (fun x => x.msb) ∧ Branches .bgez (fun x => !x.msb) ∧
  Branches .bgtz (fun x => !x.msb && x != 0) ∧ Branches .blez (fun x => x.msb || x == 0) ∧
  CqBranches .bcq true ∧ CqBranches .bncq false

/-- 04_scalar.md R86: `j`, `call` (the return address goes into g1) and `jr` (ga is read before gd is written). -/
def Sys2Proof.Parts.JumpResults : Prop :=
  (∀ s w q e off, s.who = some w →
    Gives (.j q e off) s w (anywhere q e [] []) 0 0 (.jump (here s + 4 * signed 21 off))) ∧
  (∀ s w q e off, s.who = some w →
    Gives (.call q e off) s w (anywhere q e [] [1]) 1 s.cur.next (.jump (here s + 4 * signed 21 off))) ∧
  (∀ s w q e d a, s.who = some w → (s.src w a).toNat % 4 = 0 →
    Gives (.jr q e d a) s w (anywhere q e [a] [d]) d s.cur.next (.jump (s.src w a)))

/-- Two parts: BranchResults and JumpResults.

04_scalar.md R84, R85 and 02_encoding.md R29: a branch goes to PC + 4 · sext(off) when its condition holds of ga, read as
a signed value, or of the CQ entry that it pops, and to the next instruction otherwise.

04_scalar.md R86: `j`, `call` (the return address goes into g1) and `jr` (ga is read before gd is written). -/
def Obligations.ControlTransfers : Prop := Parts.BranchResults ∧ Parts.JumpResults


/-- 04_scalar.md R88: `loop` and `loopi` set up a hardware loop over the next `len` words. -/
def Obligations.LoopResults : Prop :=
  (∀ q e c a len, LoopsAp (.loop q e c a len) q e [a] c len (fun s w => s.src w a)) ∧
  (∀ q e c n len, LoopsAp (.loopi q e c n len) q e [] c len (fun _ _ => BitVec.ofNat 64 n)) ∧
  (∀ q c len lit, LoopsAp (.loopiLiteral q c len lit) q false [] c len (fun _ _ => BitVec.ofNat 64 lit)) ∧
  (∀ q e c a len, LoopsEp (.loop q e c a len) q e [a] c len (fun s w => s.src w a)) ∧
  (∀ q e c n len, LoopsEp (.loopi q e c n len) q e [] c len (fun _ _ => BitVec.ofNat 64 n))

/-- 04_scalar.md R89 to R91: where a retired word or bundle of the addresses from `lo` up to `hi` leads. A transfer goes to
its target and makes no check. In trap mode no check is made. Otherwise the active frames whose last word was retired are
tried in decreasing order of their first addresses, equal ones by decreasing number: one whose count is above 1 takes 1 off
and loops back, ending the check; any other is cleared. With none that loops back the stream goes on, at the next address or
where a loop instruction of count 0 leads. -/
def Obligations.EndOfBody : Prop :=
  (∀ (t : Strm) tm lo hi a, (t.retire tm lo hi (.jump a)).pc = a ∧
    ∀ i, (t.retire tm lo hi (.jump a)).loop i = t.loop i) ∧
  (∀ (t : Strm) lo hi a, (t.retire true lo hi (.goto a)).pc = a ∧
    ∀ i, (t.retire true lo hi (.goto a)).loop i = t.loop i) ∧
  (∀ (t : Strm) tm lo hi, t.retire tm lo hi .next = t.retire tm lo hi (.goto hi)) ∧
  (∀ (t : Strm) lo hi a fs,
    (∀ i, i ∈ fs ↔ i < 3 ∧ (t.loop i).active = true ∧ lo.toNat ≤ (t.loop i).last.toNat ∧ (t.loop i).last.toNat < hi.toNat) →
    fs.Pairwise (fun i j => (t.loop j).first.toNat < (t.loop i).first.toNat ∨
      (t.loop j).first.toNat = (t.loop i).first.toNat ∧ j < i) →
    (t.retire false lo hi (.goto a)).pc = (checkFrames a fs t).2 ∧
    ∀ i, (t.retire false lo hi (.goto a)).loop i = (checkFrames a fs t).1.loop i)

/-! ## Memory -/

/-- 04_scalar.md R81, R82: the loads read at ga plus a displacement and write gd, extended as each form says. -/
def Sys2Proof.Parts.LoadResults : Prop :=
  Loads .ldB 1 true (scaled 1) ∧ Loads .ldBu 1 false (scaled 1) ∧ Loads .ldH 2 true (scaled 2) ∧
  Loads .ldHu 2 false (scaled 2) ∧ Loads .ldW 4 true (scaled 4) ∧ Loads .ldWu 4 false (scaled 4) ∧
  Loads .ldD 8 false (scaled 8) ∧
  Loads .ldBLiteral 1 true (signed 32) ∧ Loads .ldBuLiteral 1 false (signed 32) ∧
  Loads .ldHLiteral 2 true (signed 32) ∧ Loads .ldHuLiteral 2 false (signed 32) ∧
  Loads .ldWLiteral 4 true (signed 32) ∧ Loads .ldWuLiteral 4 false (signed 32) ∧
  Loads .ldDLiteral 8 false (signed 32)

/-- 04_scalar.md R81, R82: the stores write the low bytes of gs at ga plus a displacement; what the access itself leaves is
statement StoreBytes. -/
def Sys2Proof.Parts.StoreResults : Prop :=
  Stores .stB 1 (scaled 1) ∧ Stores .stH 2 (scaled 2) ∧ Stores .stW 4 (scaled 4) ∧ Stores .stD 8 (scaled 8) ∧
  Stores .stBLiteral 1 (signed 32) ∧ Stores .stHLiteral 2 (signed 32) ∧ Stores .stWLiteral 4 (signed 32) ∧
  Stores .stDLiteral 8 (signed 32)

/-- 04_scalar.md R82, checks 2 to 5: an access beyond the address space or in no window, on a page that is not mapped, does not
permit it or names no memory, on local store that is not allotted, beyond the basin grant, or on bytes of a listed range,
raises the cause of Table 3 with TADDR = the address, and has no effect. -/
def Sys2Proof.Parts.AccessChecks : Prop :=
  LoadTraps .ldB 1 (scaled 1) ∧ LoadTraps .ldBu 1 (scaled 1) ∧ LoadTraps .ldH 2 (scaled 2) ∧ LoadTraps .ldHu 2 (scaled 2) ∧
  LoadTraps .ldW 4 (scaled 4) ∧ LoadTraps .ldWu 4 (scaled 4) ∧ LoadTraps .ldD 8 (scaled 8) ∧
  LoadTraps .ldBLiteral 1 (signed 32) ∧ LoadTraps .ldBuLiteral 1 (signed 32) ∧ LoadTraps .ldHLiteral 2 (signed 32) ∧
  LoadTraps .ldHuLiteral 2 (signed 32) ∧ LoadTraps .ldWLiteral 4 (signed 32) ∧ LoadTraps .ldWuLiteral 4 (signed 32) ∧
  LoadTraps .ldDLiteral 8 (signed 32) ∧
  StoreTraps .stB 1 (scaled 1) ∧ StoreTraps .stH 2 (scaled 2) ∧ StoreTraps .stW 4 (scaled 4) ∧ StoreTraps .stD 8 (scaled 8) ∧
  StoreTraps .stBLiteral 1 (signed 32) ∧ StoreTraps .stHLiteral 2 (signed 32) ∧ StoreTraps .stWLiteral 4 (signed 32) ∧
  StoreTraps .stDLiteral 8 (signed 32)

/-- 08_memory.md R166, R167: the page walk. At each level the entry is the one that the address bits select: an invalid entry ends
it in PAGE-FAULT, a table entry leads on, a page entry of a legal form ends it, anything else ends it in PROTECTION. The
order of PAGE-FAULT before PROTECTION, for an entry that has both, is the model's (log entry 44). -/
def Sys2Proof.Parts.PageWalk : Prop :=
  (∀ (s : State) x c va, s.ctxs.at? x = some c → s.walk x va = s.walkFrom va 3 c.ptroot) ∧
  (∀ (s : State) x va, s.ctxs.at? x = none → s.walk x va = .fault 4) ∧
  (∀ (s : State) va lv base, lv ≤ 3 →
    let shift := [12, 21, 30, 44].getD lv 0
    let p := base + 8 * (va / 2 ^ shift % [512, 512, 16384, 8192].getD lv 1)
    let e := s.entry p
    let isTable := 0 < lv ∧ e &&& 0xFFF0000000000FFF = 1
    let frame := e.toNat / 2 ^ 12 % 2 ^ 40 * 4096
    let isPage := lv < 3 ∧ e &&& 0xF2F0000000000E83 = 0x81 ∧
      (if e.getLsbD 8 then lv = 0 ∧ e &&& 0xF000 = 0 else frame % 2 ^ shift = 0)
    (e.getLsbD 0 = false → s.walkFrom va lv base = .fault 4) ∧
    (isTable → s.walkFrom va lv base = s.walkFrom va (lv - 1) frame) ∧
    (isPage → s.walkFrom va lv base = .leaf p e shift) ∧
    (e.getLsbD 0 = true → ¬ isTable → ¬ isPage → s.walkFrom va lv base = .fault 3)) ∧
  (∀ (e : Word) size va, leafPa e size va =
    e.toNat / 2 ^ 12 % 2 ^ 40 * 4096 + va % (if e.getLsbD 8 then 65536 else 2 ^ size)) ∧
  (∀ (s : State) p, (∀ i, i < 8 → s.fmtAt (p + i) = none) → s.entry p = BitVec.ofNat 64 (ofBytes (s.rawBytes p 8)))

/-- 08_memory.md R153, R157, R161, R166: where a load or a store of a logical core is performed, and what it gives: a load the
bytes at the home, with the marks of its page; a store leaves the bytes there. A load of a Sluice core gives the bytes of its
SRAM, of its flow table, or of the basin grant of its context. -/
def Sys2Proof.Parts.AccessHomes : Prop :=
  (∀ (s : State) ep c k (va : Word) n pa leaf, n ∈ [1, 2, 4, 8] → va.toNat % n = 0 → HomeOf s k .load va.toNat n pa leaf →
    s.inRange (s.lcAt k).ctx va.toNat n = false →
    s.loadAt (.core ep c k) va n =
      .ok (s.physBytes pa n, s.readMarks (s.lcAt k).ctx [⟨va.toNat, .phys pa leaf, n⟩])) ∧
  (∀ (s : State) ep c k (va : Word) (bs : List Byte) pa leaf, bs.length ∈ [1, 2, 4, 8] → va.toNat % bs.length = 0 →
    HomeOf s k .store va.toNat bs.length pa leaf → s.inRange (s.lcAt k).ctx va.toNat bs.length = false →
    s.storeAt (.core ep c k) va bs =
      .ok ((s.writeMarks (s.lcAt k).ctx [⟨va.toNat, .phys pa leaf, bs.length⟩]).setPhyss pa bs)) ∧
  (∀ (s : State) i (va : Word) n, n ∈ [1, 2, 4, 8] → va.toNat % n = 0 →
    (va.toNat + n ≤ 262144 → s.loadAt (.sluice i) va n = .ok ((s.slAt i).sramBytes va.toNat n, s)) ∧
    (2 ^ 32 ≤ va.toNat → va.toNat + n ≤ 2 ^ 32 + 32768 →
      s.loadAt (.sluice i) va n = .ok ((s.slAt i).flowBytes (va.toNat - 2 ^ 32) n, s)) ∧
    (∀ pa, (s.slAt i).bound = true → Granted s (s.slAt i).ctx va.toNat n pa →
      s.loadAt (.sluice i) va n = .ok (s.physBytes pa n, s))) ∧
  (∀ (x : Sluice) o n j, j < n → (x.flowBytes o n).getD j 0 =
    BitVec.ofNat 8 ((x.flows.atD (8 * ((o + j) / 64) + (o + j) % 64 / 8) 0).toNat / 256 ^ ((o + j) % 8)))

/-- Five parts: LoadResults, StoreResults, AccessChecks, PageWalk and AccessHomes.

04_scalar.md R81, R82: the loads read at ga plus a displacement and write gd, extended as each form says.

04_scalar.md R81, R82: the stores write the low bytes of gs at ga plus a displacement; what the access itself leaves is
statement StoreBytes.

04_scalar.md R82, checks 2 to 5: an access beyond the address space or in no window, on a page that is not mapped, does not
permit it or names no memory, on local store that is not allotted, beyond the basin grant, or on bytes of a listed range,
raises the cause of Table 3 with TADDR = the address, and has no effect.

08_memory.md R166, R167: the page walk. At each level the entry is the one that the address bits select: an invalid entry ends
it in PAGE-FAULT, a table entry leads on, a page entry of a legal form ends it, anything else ends it in PROTECTION. The
order of PAGE-FAULT before PROTECTION, for an entry that has both, is the model's (log entry 44).

08_memory.md R153, R157, R161, R166: where a load or a store of a logical core is performed, and what it gives: a load the
bytes at the home, with the marks of its page; a store leaves the bytes there. A load of a Sluice core gives the bytes of its
SRAM, of its flow table, or of the basin grant of its context. -/
def Obligations.LoadsAndStores : Prop :=
  Parts.LoadResults ∧ Parts.StoreResults ∧ Parts.AccessChecks ∧ Parts.PageWalk ∧ Parts.AccessHomes


/-- 04_scalar.md R82, check 1: a load or store whose address is no multiple of its size raises MISALIGNED, cause 2. -/
def Obligations.MisalignedTraps : Prop :=
  Misaligns .ldH 2 (fun _ a => [a]) (fun d _ => [d]) (scaled 2) ∧
  Misaligns .ldHu 2 (fun _ a => [a]) (fun d _ => [d]) (scaled 2) ∧
  Misaligns .ldW 4 (fun _ a => [a]) (fun d _ => [d]) (scaled 4) ∧
  Misaligns .ldWu 4 (fun _ a => [a]) (fun d _ => [d]) (scaled 4) ∧
  Misaligns .ldD 8 (fun _ a => [a]) (fun d _ => [d]) (scaled 8) ∧
  Misaligns .stH 2 (fun d a => [d, a]) (fun _ _ => []) (scaled 2) ∧
  Misaligns .stW 4 (fun d a => [d, a]) (fun _ _ => []) (scaled 4) ∧
  Misaligns .stD 8 (fun d a => [d, a]) (fun _ _ => []) (scaled 8) ∧
  Misaligns .ldHLiteral 2 (fun _ a => [a]) (fun d _ => [d]) (signed 32) ∧
  Misaligns .ldHuLiteral 2 (fun _ a => [a]) (fun d _ => [d]) (signed 32) ∧
  Misaligns .ldWLiteral 4 (fun _ a => [a]) (fun d _ => [d]) (signed 32) ∧
  Misaligns .ldWuLiteral 4 (fun _ a => [a]) (fun d _ => [d]) (signed 32) ∧
  Misaligns .ldDLiteral 8 (fun _ a => [a]) (fun d _ => [d]) (signed 32) ∧
  Misaligns .stHLiteral 2 (fun d a => [d, a]) (fun _ _ => []) (signed 32) ∧
  Misaligns .stWLiteral 4 (fun d a => [d, a]) (fun _ _ => []) (signed 32) ∧
  Misaligns .stDLiteral 8 (fun d a => [d, a]) (fun _ _ => []) (signed 32)

/-- What a store of `bs` (1, 2, 4 or 8 bytes, aligned) leaves, by where its address leads (08_memory.md R153, R157, R165,
R167). In local store and basin the stored bytes change and no other byte does. In a page, the entry's A and D bits are set
besides, while the dirty log is not armed; and no byte of a decoded range changes. In a Sluice core's SRAM no byte of memory
changes. The multicast window is that of statement CoreEvents. -/
def Sys2Proof.Parts.StoreBytes : Prop :=
  (∀ (s : State) ep c k (va : Word) (bs : List Byte) (s1 : State) pa, bs.length ∈ [1, 2, 4, 8] → va.toNat % bs.length = 0 →
    s.storeAt (.core ep c k) va bs = .ok s1 → s.place (s.lcAt k).ctx k .store va.toNat = .ok (.phys pa none) →
    s1 = { s with mem := s1.mem } ∧ s1.rawBytes pa bs.length = bs ∧
    ∀ p, outside pa bs.length p → s1.rawByte p = s.rawByte p) ∧
  (∀ (s : State) ep c k (va : Word) (bs : List Byte) (s1 : State) pa pte, bs.length ∈ [1, 2, 4, 8] → va.toNat % bs.length = 0 →
    s.storeAt (.core ep c k) va bs = .ok s1 → s.place (s.lcAt k).ctx k .store va.toNat = .ok (.phys pa (some pte)) →
    (s.ctxAt (s.lcAt k).ctx).dlArmed = false →
    (∀ p, outside pa bs.length p → outside pte 8 p → s1.rawByte p = s.rawByte p) ∧
    (outside pa bs.length pte → outside pte 8 pa → s1.rawBytes pte 8 = bytesOf 8 ((s.entry pte).toNat ||| 96)) ∧
    (s.formats = [] → s1.rawBytes pa bs.length = bs)) ∧
  (∀ (s : State) n (va : Word) (bs : List Byte) (s1 : State), bs ≠ [] → va.toNat + bs.length ≤ 262144 → s.storeAt (.sluice n) va bs = .ok s1 →
    s1 = { s with sluices := s1.sluices } ∧ (s1.slAt n).sramBytes va.toNat bs.length = bs ∧
    ∀ o, outside va.toNat bs.length o → (s1.slAt n).sram.atD o 0 = (s.slAt n).sram.atD o 0)

/-- 08_memory.md R157: what a logical core stores in a present page of its own local store it loads again. -/
def Sys2Proof.Parts.LocalStoreReadBack : Prop :=
  ∀ (s : State) ep c k (va : Word) (bs : List Byte) (s1 : State) pa, bs.length ∈ [1, 2, 4, 8] → va.toNat % bs.length = 0 →
    0x01FFFF0000000000 ≤ va.toNat → va.toNat < 0x01FFFF0000200000 →
    s.place (s.lcAt k).ctx k .store va.toNat = .ok (.phys pa none) → s.storeAt (.core ep c k) va bs = .ok s1 →
    ∃ s2, s1.loadAt (.core ep c k) va bs.length = .ok (bs, s2) ∧ s2 = { s1 with free := s2.free }

/-- 08_memory.md R167, R170, R171 and 18_context_image.md R332: the marks of an access in the entry of its page. A read sets A. A
write sets A and D; and while the dirty log is armed, the entry's LE differs from E and the address is in no sync-object
table, LE becomes E, and the log gets the page's number and size at its head, or OVF when it is full; with OVF set it is left
alone. -/
def Sys2Proof.Parts.PageMarks : Prop :=
  (∀ (s : State) x va p,
    let t := s.markLeaf x .load va p
    t = { s with mem := t.mem } ∧ t.rawBytes p 8 = bytesOf 8 ((s.entry p).toNat ||| 32) ∧
    ∀ q, outside p 8 q → t.rawByte q = s.rawByte q) ∧
  (∀ (s : State) x c va p, s.ctxs.at? x = some c →
    c.dlArmed = false ∨ (s.entry p).getLsbD 59 = c.dlE ∨ (c.sotab ≤ va ∧ va < c.sotab + 131072) →
    let t := s.markLeaf x .store va p
    t = { s with mem := t.mem } ∧ t.rawBytes p 8 = bytesOf 8 ((s.entry p).toNat ||| 96) ∧
    ∀ q, outside p 8 q → t.rawByte q = s.rawByte q) ∧
  (∀ (s : State) x c va p r l size, s.ctxs.at? x = some c → s.formats = [] → c.dlArmed = true →
    (s.entry p).getLsbD 59 ≠ c.dlE → ¬ (c.sotab ≤ va ∧ va < c.sotab + 131072) → s.walk x va = .leaf r l size →
    ∃ s1 : State, s1 = { s with mem := s1.mem } ∧
      s1.rawBytes p 8 = bytesOf 8 ((((s.entry p) ||| 96) &&& ~~~ (BitVec.twoPow 64 59)) |||
        (if c.dlE then BitVec.twoPow 64 59 else 0)).toNat ∧
      (∀ q, outside p 8 q → s1.rawByte q = s.rawByte q) ∧
      s.markLeaf x .store va p = s1.logWrite x va size (l.getLsbD 8)) ∧
  (∀ (s : State) x c va size s64 cb lf, s.ctxs.at? x = some c → s.formats = [] →
    s.place x 0 .load c.dlPtr = .ok (.phys cb lf) →
    let t := s.logWrite x va size s64
    let base := ofBytes (s.rawBytes cb 8)
    let head := ofBytes (s.rawBytes (cb + 8) 4)
    let tail := ofBytes (s.rawBytes (cb + 12) 4)
    let room := 2 ^ (s.rawByte (cb + 16)).toNat
    let ovf := (s.rawByte (cb + 17)).getLsbD 0
    (ovf = true → t = s) ∧
    (ovf = false → gap head tail = room → t = { s with mem := t.mem } ∧ t.rawByte (cb + 17) = s.rawByte (cb + 17) ||| 1 ∧
      ∀ q, q ≠ cb + 17 → t.rawByte q = s.rawByte q) ∧
    (∀ slot lg, ovf = false → gap head tail ≠ room → s.place x 0 .load (base + 8 * (head % room)) = .ok (.phys slot lg) →
      slot + 8 ≤ cb + 8 ∨ cb + 12 ≤ slot →
      t = { s with mem := t.mem } ∧ t.rawBytes (cb + 8) 4 = bytesOf 4 (head + 1) ∧
      t.rawBytes slot 8 = bytesOf 8 ((if size = 30 then 2 else if size = 21 then 1 else 0) * 2 ^ 62 +
        (if s64 then va / 2 ^ 12 else va / 2 ^ size * 2 ^ size / 2 ^ 12)) ∧
      ∀ q, outside slot 8 q → outside (cb + 8) 4 q → t.rawByte q = s.rawByte q))

/-- Three parts: StoreBytes, LocalStoreReadBack and PageMarks.

What a store of `bs` (1, 2, 4 or 8 bytes, aligned) leaves, by where its address leads (08_memory.md R153, R157, R165,
R167). In local store and basin the stored bytes change and no other byte does. In a page, the entry's A and D bits are set
besides, while the dirty log is not armed; and no byte of a decoded range changes. In a Sluice core's SRAM no byte of memory
changes. The multicast window is that of statement CoreEvents.

08_memory.md R157: what a logical core stores in a present page of its own local store it loads again.

08_memory.md R167, R170, R171 and 18_context_image.md R332: the marks of an access in the entry of its page. A read sets A. A
write sets A and D; and while the dirty log is armed, the entry's LE differs from E and the address is in no sync-object
table, LE becomes E, and the log gets the page's number and size at its head, or OVF when it is full; with OVF set it is left
alone. -/
def Obligations.StoreBytes : Prop := Parts.StoreBytes ∧ Parts.LocalStoreReadBack ∧ Parts.PageMarks


/-- 12_vector_data.md R234 and Table 2: the scalar bank-ALU operations: gd gets the old value at the home of ga, and the new
value is stored there. -/
def Sys2Proof.Parts.AmoValues : Prop :=
  Amos .amoAdd [0, 1, 2, 3] false (fun ty x y _ => (addE ty .rne .gradual x (y % 2 ^ tyBits ty)).bits) ∧
  Amos .amoMin [0, 1, 2, 3] false (fun ty x y _ => (minmaxE false ty x (y % 2 ^ tyBits ty)).bits) ∧
  Amos .amoMax [0, 1, 2, 3] false (fun ty x y _ => (minmaxE true ty x (y % 2 ^ tyBits ty)).bits) ∧
  Amos .amoSwap [0, 1, 2, 3] false (fun ty _ y _ => y % 2 ^ tyBits ty) ∧
  Amos .amoCas [0, 1, 2, 3] true (fun ty x y c => if x = c % 2 ^ tyBits ty then y % 2 ^ tyBits ty else x) ∧
  Amos .amoAnd [0, 1] false (fun ty x y _ => x &&& y % 2 ^ tyBits ty) ∧
  Amos .amoOr [0, 1] false (fun ty x y _ => x ||| y % 2 ^ tyBits ty)

/-- 12_vector_data.md R235, Table 3: the faults of the scalar bank-ALU operations; `amo.and` and `amo.or` of a float type are
ILLEGAL. -/
def Sys2Proof.Parts.AmoChecks : Prop :=
  AmoTraps .amoAdd [0, 1, 2, 3] false ∧ AmoTraps .amoMin [0, 1, 2, 3] false ∧ AmoTraps .amoMax [0, 1, 2, 3] false ∧
  AmoTraps .amoSwap [0, 1, 2, 3] false ∧ AmoTraps .amoCas [0, 1, 2, 3] true ∧ AmoTraps .amoAnd [0, 1] false ∧
  AmoTraps .amoOr [0, 1] false ∧
  (∀ s w q d a b ty, s.who = some w → ty = 2 ∨ ty = 3 → MayTrap s w →
    (∃ t, exec (.amoAnd q d a b ty) s = .next t ∧ Trapped s t w 1 1 0) ∧
    (∃ t, exec (.amoOr q d a b ty) s = .next t ∧ Trapped s t w 1 1 0))

/-- 08_memory.md R164, R165: what is read and written at a home. Outside every enabled storage-format range the bytes read are
those in memory, and a write leaves its bytes there and changes no other; a write inside a line of such a range is discarded
and counted. -/
def Sys2Proof.Parts.HomeBytes : Prop :=
  (∀ (s : State) pa n, (∀ i, i < n → s.fmtAt (pa + i) = none) → s.physBytes pa n = s.rawBytes pa n) ∧
  (∀ (s : State) pa (bs : List Byte), (∀ i, i < bs.length → s.fmtAt (pa + i) = none) →
    let t := s.setPhyss pa bs
    t = { s with mem := t.mem } ∧ t.rawBytes pa bs.length = bs ∧ ∀ p, outside pa bs.length p → t.rawByte p = s.rawByte p) ∧
  (∀ (s : State) pa r (bs : List Byte), bs ≠ [] → pa / 128 = (pa + bs.length - 1) / 128 → s.fmtAt pa = some r →
    s.setPhyss pa bs = s.countErrs 2 1) ∧
  (∀ (s : State) pa, 2 ^ 39 ≤ pa → s.fmtAt pa = none) ∧ (∀ (s : State) pa, s.formats = [] → s.fmtAt pa = none) ∧
  (∀ (s : State) i n,
    let t := s.countErrs i n
    let v := (s.errs.atD i 0).toNat + n
    t = { s with errs := t.errs } ∧ t.errs.atD i 0 = (if 2 ^ 64 ≤ v then BitVec.allOnes 64 else BitVec.ofNat 64 v) ∧
    ∀ j, j ≠ i → t.errs.atD j 0 = s.errs.atD j 0)

/-- Three parts: AmoValues, AmoChecks and HomeBytes.

12_vector_data.md R234 and Table 2: the scalar bank-ALU operations: gd gets the old value at the home of ga, and the new
value is stored there.

12_vector_data.md R235, Table 3: the faults of the scalar bank-ALU operations; `amo.and` and `amo.or` of a float type are
ILLEGAL.

08_memory.md R164, R165: what is read and written at a home. Outside every enabled storage-format range the bytes read are
those in memory, and a write leaves its bytes there and changes no other; a write inside a line of such a range is discarded
and counted. -/
def Obligations.AmoResults : Prop := Parts.AmoValues ∧ Parts.AmoChecks ∧ Parts.HomeBytes

namespace Sys2Proof.Spec

/-! ## Special registers and traps -/

/-- What special register `sel` of stream `ep` holds after `mtsr` of `v` (02_encoding.md Table 13; 03_registers.md R62, R65,
R66, R67, R70). A register of another stream, or that the device alone writes, keeps its value. -/
def written (l : LCore) (ep : Bool) (sel : Nat) (v old : Word) : Word :=
  if sel = 0x30 ∨ sel = 0x31 ∨ sel = 0x32 ∨ sel = 0x41 ∨ sel = 0x42 ∨ sel = 0x45 then v
  else if sel = 0x38 then
    if ep then (old &&& ~~~ v &&& 0x1F0) ||| (v &&& 1) else if l.trapMode then v &&& 0x1F1 else old
  else if sel = 0x39 then if ep then v &&& 0x17FFFFFFF else old
  else if sel = 0x3B then
    if ep then (v &&& 0xF0000) + (if v.msb then 0 else BitVec.ofNat 64 (l.rtcnt.atD (v.toNat / 65536 % 16) 0)) else old
  else if sel = 0x40 then v &&& 0xFFFFF
  else if sel = 0x43 then (v &&& 6) ||| (old &&& 1)
  else if sel = 0x44 then v &&& ~~~ 3
  else old

/-- What special register `sel` of a Sluice core holds after `mtsr` of `v` (15_sluice.md Table 6). -/
def sluiceWritten (sel : Nat) (v old : Word) : Word :=
  if sel = 0x103 then v &&& ~~~ 3
  else if sel = 0x104 ∨ sel = 0x106 ∨ sel = 0x108 then v
  else if sel = 0x105 then v &&& 0xFF
  else old

/-- The fields of a logical core that a special register lies in; all others are as in `l`. -/
def OnlySpecial (l m : LCore) : Prop :=
  let counts (a b : Strm) : Strm := { a with
    loop0 := { a.loop0 with count := b.loop0.count }
    loop1 := { a.loop1 with count := b.loop1.count }
    loop2 := { a.loop2 with count := b.loop2.count } }
  m = { l with
    ap := counts l.ap m.ap
    ep := counts l.ep m.ep
    fpmode := m.fpmode
    amax := m.amax
    rtsel := m.rtsel
    rtcnt := m.rtcnt
    tcause := m.tcause
    tepc := m.tepc
    taddr := m.taddr
    tstatus := m.tstatus
    tvec := m.tvec
    tscratch := m.tscratch }

/-- A word valid in the AP, the EP and the Sluice cores, but in no handler (07_traps.md R144). -/
def noHandler (q : Rill) (e sl : Bool) : Use :=
  { q := q, e := e, ap := true, ep := true, sl := sl, srcs := [], dsts := [], inTrap := false, unit := 1 }

/-- A word valid in the AP while a handler runs, and nowhere else (02_encoding.md R39). -/
def handlerOnly (srcs dsts : List Nat) : Use :=
  { q := Rill.none, e := false, ap := true, ep := false, sl := false, srcs := srcs, dsts := dsts, inTrap := true, unit := 0 }

/-- `trap n` or `brk`: retires, and where its bundle ends takes the trap `cause`, with TEPC the address at which its stream
then resumes. -/
def Traps (i : Instr) (q : Rill) (e : Bool) (cause : Nat) : Prop :=
  (∀ s ep c k, s.who = some (.core ep c k) → HasHandler s k → (ep = true → s.cur.left = 0) → i.wf = true →
    s.issue (.core ep c k) (noHandler q e true) = .go →
    ∃ s1 t, exec i s = .next t ∧ Retired s s1 (.core ep c k) (noHandler q e true) 0 0 .next ∧
      HandlerEntered s1 t c k
        ⟨cause, if ep then 1 else 0, if ep then s.cur.syl else 0, ep, ((s1.lcAt k).strm ep).pc, 0⟩) ∧
  (∀ s c k, s.who = some (.core true c k) → s.cur.left ≠ 0 →
    Gives i s (.core true c k) (noHandler q e true) 0 0 .next) ∧
  (∀ s n, s.who = some (.sluice n) → SluiceHasHandler s n → i.wf = true →
    s.issue (.sluice n) (noHandler q e true) = .go →
    ∃ s1 t, exec i s = .next t ∧ Retired s s1 (.sluice n) (noHandler q e true) 0 0 .next ∧
      SluiceHandlerEntered s1 t n cause s.cur.next 0)

/-- The addresses at which the AP and the EP resume when the trap of `l` ends (R146). -/
def resumesAt (l : LCore) : Word × Word :=
  let unit := l.tcause.toNat / 256 % 256
  let strm := l.tstatus.getLsbD 1
  (if unit ≤ 1 ∧ strm = false then l.tepc else l.apResume,
   if unit ≤ 1 ∧ strm = true ∨ unit = 2 then l.tepc else l.epResume)

/-- A logical core after `rett`: TM is clear and both streams go on; the progress of a vector syllable is kept only where
the EP resumes at its own bundle. -/
def resumed (l : LCore) : LCore :=
  let a := (resumesAt l).1
  let b := (resumesAt l).2
  { l with
    tstatus := l.tstatus &&& ~~~ 1
    ap := { l.ap with pc := a, stall := none, stallCycles := 0 }
    ep := { l.ep with pc := b, stall := none, stallCycles := 0, handed := l.ep.handed && (b == l.epResume) }
    vprog := if b = l.epResume then l.vprog else 0
    vdone := if b = l.epResume then l.vdone else 0
    pendV := if b = l.epResume then l.pendV else NumStat.zero
    trapCycles := 0
    esc := none }

/-- The word that ends a handler retires in the AP of logical core `k`, which becomes `m` of what its retirement leaves;
nothing else differs. -/
def HandlerEnds (i : Instr) (s : State) (k : Nat) (m : LCore → LCore) : Prop :=
  exec i s = .next { s.setLc k (m { s.lcAt k with dlcnt := 0, pcs := ((s.lcAt k).count 2 1).pcs }) with
    cur := { s.cur with verdict := .done } }

/-- Logical core `k` ends on physical core `c`: its queue entries and tokens are discarded and it leaves the rotation
list; the next one in it, if any, is due (R148, R152). A core with an empty list clocks down. -/
def Ended (s t : State) (c k : Nat) : Prop :=
  t = { s with lcores := t.lcores, cores := t.cores } ∧
  (∀ j, j ≠ k → t.lcores.at? j = s.lcores.at? j) ∧ (∀ j, j ≠ c → t.cores.at? j = s.cores.at? j) ∧
  t.lcAt k = { s.lcAt k with ended := true, qs := [], cq := [], rill := [], lsmap := [] } ∧
  let p := s.coreAt c
  let rot := p.rot.filter (· ≠ k)
  t.coreAt c = { p with
    rot := rot
    active := none
    swapReq := match p.swapReq with
      | some (.preempt x) => some (.preempt x)
      | _ => ((p.after k).find? (fun j => (s.lcAt j).esc.isNone)).map SwapReq.preempt
    power := if rot = [] then .clockGated else p.power
    emptied := if rot = [] then s.cycle.toNat else p.emptied }

/-- Logical core `l` with its stream `ep` halted. -/
def halts (l : LCore) (ep : Bool) : LCore := l.setStrm ep { l.strm ep with halted := true }

end Sys2Proof.Spec

/-! ## Special registers -/

/-- 04_scalar.md R93 and 02_encoding.md Table 13: `mfsr` puts a special register into gd. -/
def Sys2Proof.Parts.SpecialReads : Prop :=
  (∀ s w q e d sel, s.who = some w → s.selValid w sel = true →
    Gives (.mfsr q e d sel) s w (anywhere q e [] [d]) d (s.readSpecial w sel) .next) ∧
  (∀ (s : State) ep c k,
    let l := s.lcAt k
    let r := fun sel => s.readSpecial (.core ep c k) sel
    r 0 = BitVec.ofNat 64 c ∧ r 0x30 = (l.strm ep).loop0.count ∧ r 0x31 = (l.strm ep).loop1.count ∧
    r 0x32 = (l.strm ep).loop2.count ∧ r 0x38 = l.fpmode ∧ r 0x39 = l.amax ∧ r 0x3A = l.mxrow ∧
    r 0x3B = BitVec.ofNat 64 (l.rtsel * 65536 + l.rtcnt.atD l.rtsel 0) ∧
    r 0x3C = BitVec.ofNat 64 (s.coreAt c).spillpos ∧ r 0x3D = l.vprog ∧ r 0x40 = l.tcause ∧ r 0x41 = l.tepc ∧
    r 0x42 = l.taddr ∧ r 0x43 = l.tstatus ∧ r 0x44 = l.tvec ∧ r 0x45 = l.tscratch ∧ r 0x46 = s.cycle) ∧
  (∀ (s : State) ep c k sel, sel = 1 ∨ sel = 2 ∨ sel = 4 ∨ (8 ≤ sel ∧ sel ≤ 0x2F) →
    s.readSpecial (.core ep c k) sel = (s.lcAt k).launch.atD sel 0) ∧
  (∀ (s : State) ep c k sel, s.selValid (.core ep c k) sel = true ↔
    sel ∈ [0, 1, 2, 4] ∨ (8 ≤ sel ∧ sel ≤ 0x32) ∨ (0x38 ≤ sel ∧ sel ≤ 0x3D) ∨ sel = 0x46 ∨
    (0x40 ≤ sel ∧ sel ≤ 0x45 ∧ ep = false ∧ (s.lcAt k).trapMode = true)) ∧
  (∀ (s : State) n, let x := s.slAt n
    let r := fun sel => s.readSpecial (.sluice n) sel
    r 0x46 = s.cycle ∧ r 0x100 = BitVec.ofNat 64 n ∧ r 0x101 = BitVec.ofNat 64 x.ctx ∧
    r 0x102 = BitVec.ofNat 64 x.evq.length ∧ r 0x103 = x.svec ∧ r 0x104 = x.sepc ∧ r 0x105 = x.scause ∧
    r 0x106 = x.staddr ∧ r 0x107 = x.sstatus ∧ r 0x108 = x.sscratch) ∧
  (∀ (s : State) n sel, s.selValid (.sluice n) sel = true ↔ sel = 0x46 ∨ (0x100 ≤ sel ∧ sel ≤ 0x108))

/-- 03_registers.md R62, R65, R66, R67, R70 and 02_encoding.md R45: `mtsr` writes a special register, as much of it as may
be written, and nothing else. The value read afterwards is stated for values that the register can hold. -/
def Sys2Proof.Parts.SpecialWrites : Prop :=
  (∀ s w q e a sel, s.who = some w → s.selValid w sel = true →
    GivesFrom (s.writeSpecial w sel (s.src w a)) (.mtsr q e a sel) s w (anywhere q e [a] []) 0 0 .next) ∧
  (∀ (s : State) ep c k sel v,
    let t := s.writeSpecial (.core ep c k) sel v
    t = { s with lcores := t.lcores } ∧ (∀ j, j ≠ k → t.lcores.at? j = s.lcores.at? j) ∧
    OnlySpecial (s.lcAt k) (t.lcAt k) ∧
    t.readSpecial (.core ep c k) sel = written (s.lcAt k) ep sel v (s.readSpecial (.core ep c k) sel) ∧
    (∀ r, r ≠ sel → t.readSpecial (.core ep c k) r = s.readSpecial (.core ep c k) r) ∧
    (t.lcAt k).strm (!ep) = (s.lcAt k).strm (!ep)) ∧
  (∀ (s : State) n sel v,
    let t := s.writeSpecial (.sluice n) sel v
    t = { s with sluices := t.sluices } ∧ (∀ j, j ≠ n → t.sluices.at? j = s.sluices.at? j) ∧
    (∃ a b c d e, t.slAt n = { s.slAt n with svec := a, sepc := b, scause := c, staddr := d, sscratch := e }) ∧
    t.readSpecial (.sluice n) sel = sluiceWritten sel v (s.readSpecial (.sluice n) sel) ∧
    ∀ r, r ≠ sel → t.readSpecial (.sluice n) r = s.readSpecial (.sluice n) r)

/-- Two parts: SpecialReads and SpecialWrites.

04_scalar.md R93 and 02_encoding.md Table 13: `mfsr` puts a special register into gd.

03_registers.md R62, R65, R66, R67, R70 and 02_encoding.md R45: `mtsr` writes a special register, as much of it as may
be written, and nothing else. The value read afterwards is stated for values that the register can hold. -/
def Obligations.SpecialRegisters : Prop := Parts.SpecialReads ∧ Parts.SpecialWrites


/-! ## Traps -/

/-- 07_traps.md R141, R143: taking a trap, with a handler and outside trap mode, writes the fault record and the trap
registers, keeps both resume addresses, sets TM and sends the AP to TVEC with bits 1:0 zero; nothing else differs. -/
def Obligations.TrapEntry : Prop :=
  ∀ (s : State) c k x, HasHandler s k → HandlerEntered s (s.takeTrap c k x) c k x

/-- 07_traps.md R147: a trap while TVEC is 0 escalates: the trap registers are written, TM stays clear and the AP where it
is, and the logical core waits for firmware. A trap in trap mode escalates as nested, with TM kept. -/
def Obligations.TrapEscalates : Prop :=
  ∀ (s : State) c k x, (s.lcAt k).tvec = 0 ∨ (s.lcAt k).trapMode = true →
    let l := s.lcAt k
    let t := s.takeTrap c k x
    let m := trapRegisters l x l.trapMode
    t = { s with mem := t.mem, lcores := t.lcores, cur := { s.cur with verdict := .trapped } } ∧
    (∀ j, j ≠ k → t.lcores.at? j = s.lcores.at? j) ∧
    (∀ pa, pa < recordAt s c k ∨ recordAt s c k + 256 ≤ pa → t.rawByte pa = s.rawByte pa) ∧
    t.lcAt k =
      if l.trapMode then { m with esc := some ⟨.nested, x, false⟩ }
      else { m with
        apResume := l.ap.pc
        epResume := l.ep.pc
        trapUnit := x.unit
        esc := some ⟨.noHandler, x, false⟩ }

/-- 07_traps.md R145: `trap` and `brk` retire, and then trap with cause 0x10 + n or BREAK. -/
def Obligations.SoftwareTraps : Prop :=
  (∀ q e n, Traps (.trap q e n) q e (16 + n)) ∧ (∀ q e, Traps (.brk q e) q e 0x30)

/-- 07_traps.md R146 and 15_sluice.md R282: `rett` clears TM and resumes each stream by the trap's UNIT; outside trap mode,
or under SUBNORMAL-ASSIST, it is ILLEGAL. -/
def Obligations.HandlerReturn : Prop :=
  (∀ s c k, s.who = some (.core false c k) → (s.lcAt k).trapMode = true → (s.lcAt k).tcause.toNat % 256 ≠ 6 →
    HandlerEnds .rett s k resumed) ∧
  (∀ s c k, s.who = some (.core false c k) → HasHandler s k →
    ∃ t, exec .rett s = .next t ∧ Trapped s t (.core false c k) 0 1 0) ∧
  (∀ s c k, s.who = some (.core false c k) → (s.lcAt k).trapMode = true → (s.lcAt k).tcause.toNat % 256 = 6 →
    exec .rett s = .next (s.takeTrap c k ⟨1, 0, 0, false, s.cur.pc, 0⟩)) ∧
  (∀ s n, s.who = some (.sluice n) → (s.slAt n).trapMode = true →
    ∃ t, exec .rett s = .next t ∧ OnlyStreams s t ∧ OnlySluice s t n ∧ t.cur = { s.cur with verdict := .done } ∧
      t.slAt n = { s.slAt n with sstatus := 0, trapCycles := 0, pc := (s.slAt n).sepc, stall := none }) ∧
  (∀ s n, s.who = some (.sluice n) → SluiceHasHandler s n →
    ∃ t, exec .rett s = .next t ∧ Trapped s t (.sluice n) 0 1 0)

/-- 07_traps.md R147, R149: `escal` passes the trap to firmware with ga as argument, the handler waiting at the next word;
`asst.done` ends an assist trap as `rett` does, and rules the fate of the stopped step: 0 rerun, 1 flushed. A vector step's
fate is dropped where the EP does not resume at its bundle (R211). -/
def Obligations.AssistAndEscal : Prop :=
  (∀ s c k a, s.who = some (.core false c k) → (s.lcAt k).trapMode = true → (Instr.escal a).wf = true →
    s.issue (.core false c k) (handlerOnly [a] []) = .go →
    ∃ s1, Retired s s1 (.core false c k) (handlerOnly [a] []) 0 0 .next ∧
      exec (.escal a) s = .next (s1.setLc k { s1.lcAt k with
        trapReq := none
        esc := some ⟨.escal (s.src (.core false c k) a),
          ⟨(s1.lcAt k).tcause.toNat % 256, (s1.lcAt k).tcause.toNat / 256 % 256, (s1.lcAt k).tcause.toNat / 65536 % 16,
            (s1.lcAt k).tstatus.getLsbD 1, (s1.lcAt k).tepc, (s1.lcAt k).taddr⟩, false⟩ })) ∧
  (∀ s c k a, s.who = some (.core false c k) → (s.lcAt k).trapMode = true → (Instr.asstDone a).wf = true →
    s.issue (.core false c k) (handlerOnly [a] []) = .go → (s.lcAt k).tcause.toNat % 256 = 6 →
    (s.src (.core false c k) a).toNat ≤ 1 →
    HandlerEnds (.asstDone a) s k (fun l => { resumed l with
      assist := if l.trapUnit = 2 ∧ (resumesAt l).2 ≠ l.epResume then none
        else some (l.trapUnit, s.src (.core false c k) a == 1) })) ∧
  (∀ s c k a, s.who = some (.core false c k) → (s.lcAt k).trapMode = true → (Instr.asstDone a).wf = true →
    s.issue (.core false c k) (handlerOnly [a] []) = .go →
    (s.lcAt k).tcause.toNat % 256 ≠ 6 ∨ 1 < (s.src (.core false c k) a).toNat →
    exec (.asstDone a) s = .next (s.takeTrap c k ⟨1, 0, 0, false, s.cur.pc, 0⟩))

/-- 07_traps.md R148: `halt` waits for the drain; then its stream ends, and with the second one the logical core. -/
def Obligations.HaltEnds : Prop :=
  ∀ s ep c k q e, s.who = some (.core ep c k) → (Instr.halt q e).wf = true →
    s.issue (.core ep c k) (noHandler q e false) = .go →
    ((if ep then (s.lcAt k).drained else (s.lcAt k).tokensWritten) = false →
      ∃ t, exec (.halt q e) s = .next t ∧ Stalled s t (.core ep c k) .drain) ∧
    ((if ep then (s.lcAt k).drained else (s.lcAt k).tokensWritten) = true →
      ∃ s1 t, exec (.halt q e) s = .next t ∧ Retired s s1 (.core ep c k) (noHandler q e false) 0 0 .next ∧
        (ep = true → s.cur.left ≠ 0 → t = s1) ∧
        (ep = false ∨ s.cur.left = 0 → ((s.lcAt k).strm (!ep)).halted = false →
          t = s1.setLc k (halts (s1.lcAt k) ep)) ∧
        (ep = false ∨ s.cur.left = 0 → ((s.lcAt k).strm (!ep)).halted = true →
          Ended (s1.setLc k (halts (s1.lcAt k) ep)) t c k))

/-- 03_registers.md R73 and 07_traps.md R145: `bank.rd` and `bank.wr` reach the record of the logical core in the inactive
bank; with none there the one gives 0 and the other does nothing; another offset is ILLEGAL. A `bank.wr` waits while the bank
is held or busy, and is ignored after that wait. What is written reads back, but for reserved bits (00_scope.md R2). `cyc`
gives CYCLE. -/
def Obligations.BankAndCycle : Prop :=
  (∀ s c k d a, s.who = some (.core false c k) → (s.lcAt k).trapMode = true →
    (s.src (.core false c k) a).toNat % 8 = 0 → (s.src (.core false c k) a).toNat < 32768 →
    Gives (.bankRd d a) s (.core false c k) (handlerOnly [a] [d]) d
      (match (s.coreAt c).shadow with
        | some j => (s.lcAt j).recWord 0 (s.src (.core false c k) a).toNat
        | none => 0) .next) ∧
  (∀ s c k a b, s.who = some (.core false c k) → (s.lcAt k).trapMode = true →
    (s.src (.core false c k) a).toNat % 8 = 0 → (s.src (.core false c k) a).toNat < 32768 →
    (s.coreAt c).held = false → (s.coreAt c).busy = false → (s.lcAt k).ap.stall ≠ some .bank →
    GivesFrom (match (s.coreAt c).shadow with
        | some j => s.setLc j ((s.lcAt j).setRecWord (s.src (.core false c k) a).toNat (s.src (.core false c k) b))
        | none => s) (.bankWr a b) s (.core false c k) (handlerOnly [a, b] []) 0 0 .next) ∧
  (∀ s c k a b, s.who = some (.core false c k) → (s.lcAt k).trapMode = true →
    (s.src (.core false c k) a).toNat % 8 = 0 → (s.src (.core false c k) a).toNat < 32768 →
    ((s.coreAt c).held = true ∨ (s.coreAt c).busy = true → (Instr.bankWr a b).wf = true →
      s.issue (.core false c k) (handlerOnly [a, b] []) = .go →
      ∃ t, exec (.bankWr a b) s = .next t ∧ Stalled s t (.core false c k) .bank) ∧
    ((s.coreAt c).held = false → (s.coreAt c).busy = false → (s.lcAt k).ap.stall = some .bank →
      Gives (.bankWr a b) s (.core false c k) (handlerOnly [a, b] []) 0 0 .next)) ∧
  (∀ s c k a b, s.who = some (.core false c k) → (s.lcAt k).trapMode = true → (Instr.bankWr a b).wf = true →
    s.issue (.core false c k) (handlerOnly [a, b] []) = .go →
    (s.src (.core false c k) a).toNat % 8 ≠ 0 ∨ 32768 ≤ (s.src (.core false c k) a).toNat →
    exec (.bankWr a b) s = .next (s.takeTrap c k ⟨1, 0, 0, false, s.cur.pc, 0⟩)) ∧
  (∀ (l : LCore) n v, 1 ≤ n → n < 24 →
    (l.spare.at? (0x18 + 8 * n) = none → l.recWord 0 (0x18 + 8 * n) = l.ap.regs.atD n 0) ∧
    (l.spare.at? (0xD8 + 8 * n) = none → l.recWord 0 (0xD8 + 8 * n) = l.ep.regs.atD n 0) ∧
    (l.setRecWord (0x18 + 8 * n) v).recWord 0 (0x18 + 8 * n) = v ∧
    (l.setRecWord (0xD8 + 8 * n) v).recWord 0 (0xD8 + 8 * n) = v) ∧
  (∀ (l : LCore) n v, n < 16 →
    (l.setRecWord (0x230 + 16 * n) v).recWord 0 (0x230 + 16 * n) = v ∧
    (l.setRecWord (0x238 + 16 * n) v).recWord 0 (0x238 + 16 * n) = v &&& 0x3FFFFFF ∧
    (l.setRecWord (0x600 + 16 * n) v).recWord 0 (0x600 + 16 * n) = v &&& ~~~ 0x7F8000 ∧
    (l.setRecWord (0x608 + 16 * n) v).recWord 0 (0x608 + 16 * n) = v) ∧
  (∀ s c k d a, s.who = some (.core false c k) → (s.lcAt k).trapMode = true → (Instr.bankRd d a).wf = true →
    s.issue (.core false c k) (handlerOnly [a] [d]) = .go →
    (s.src (.core false c k) a).toNat % 8 ≠ 0 ∨ 32768 ≤ (s.src (.core false c k) a).toNat →
    exec (.bankRd d a) s = .next (s.takeTrap c k ⟨1, 0, 0, false, s.cur.pc, 0⟩)) ∧
  (∀ s w q e d, s.who = some w → Gives (.cyc q e d) s w (anywhere q e [] [d]) d s.cycle .next)

namespace Sys2Proof.Spec

/-! ## Sync objects, the dirty log, rings and commands -/

/-- A word valid in the AP and the S slot, outside trap mode. -/
def streams (q : Rill) (e : Bool) (srcs dsts : List Nat) : Use :=
  { q := q, e := e, ap := true, ep := true, sl := false, srcs := srcs, dsts := dsts, inTrap := false, unit := 1 }

/-- The virtual address of entry `n` of the sync-object table of the context of logical core `k` (10_consistency.md R190). -/
def objectVa (s : State) (k : Nat) (n : Word) : Nat := ((s.ctxAt (s.lcAt k).ctx).sotab + 128 * n.toNat) % 2 ^ 64

/-- The entry that ga names is in the table, in a page that may be read, through the leaf at `p`: its 128 bytes `blk` lie at
`pa`, and `rs` says so. -/
def Entry (s : State) (k : Nat) (n : Word) (rs : List Run) (blk : List Byte) : Prop :=
  let va := objectVa s k n
  n.toNat < 1024 ∧ va % 128 = 0 ∧ ∃ pa p e, Paged s (s.lcAt k).ctx va pa p e ∧ permits .load e = true ∧
    rs = [⟨va, .phys pa (some p), 128⟩] ∧ blk = s.physBytes pa 128

/-- GEN of an entry. -/
def generation (blk : List Byte) : Nat := ofBytes (blk.take 4)

/-- An entry counts as valid (R191): V is set, at most 4 ranges are named, no reserved bit is set, and every range that is
named and not empty ends at or below the fixed windows. -/
def validEntry (blk : List Byte) : Prop :=
  let w (i : Nat) : Word := BitVec.ofNat 64 (ofBytes ((blk.drop (8 * i)).take 8))
  let nr := (w 0).toNat / 2 ^ 32 % 8
  (w 0).msb = true ∧ nr ≤ 4 ∧ (w 0).toNat / 2 ^ 35 % 2 ^ 28 = 0 ∧ w 1 = 0 ∧
  (∀ k, k < 4 → w (2 + 2 * k) &&& 0xFE0000000000007F = 0 ∧ (w (3 + 2 * k)).toNat < 2 ^ 32) ∧ (∀ i, i < 6 → w (10 + i) = 0) ∧
  ∀ k, k < nr → (w (3 + 2 * k)).toNat = 0 ∨ (w (2 + 2 * k)).toNat + (w (3 + 2 * k)).toNat * 128 ≤ 0x01FFFF0000000000

/-- `i` on an invalid entry acts as `fence core` (R191): it waits while a multicast store of the logical core to itself is in
flight, then retires; the entry is counted as a sync error, and left alone. -/
def ActsAsFence (i : Instr) (q : Rill) (e : Bool) (s : State) (ep : Bool) (c k : Nat) (srcs : List Nat) (rs : List Run) : Prop :=
  let w := Who.core ep c k
  (s.fencePending w 0 = false →
    GivesFrom ((s.readMarks (s.lcAt k).ctx rs).countErrs 1 1) i s w (streams q e srcs []) 0 0 .next) ∧
  (s.fencePending w 0 = true → i.wf = true → s.issue w (streams q e srcs []) = .go →
    ∃ t, exec i s = .next t ∧ Stalled s t w (.fence (s.fenceBound w)))

/-- An instruction on an entry above 1,023 raises PROTECTION (R238). -/
def NoEntry (i : Instr) (q : Rill) (e : Bool) (a : Nat) (srcs dsts : List Nat) : Prop :=
  ∀ s ep c k, s.who = some (.core ep c k) → 1024 ≤ (s.src (.core ep c k) a).toNat → MayTrap s (.core ep c k) →
    s.issue (.core ep c k) (streams q e srcs dsts) = .go →
    ∃ t, exec i s = .next t ∧
      Trapped s t (.core ep c k) 1 3 (BitVec.ofNat 64 (objectVa s k (s.src (.core ep c k) a)))

/-- ga names an initialised ring of logical core `k`, and gb is a count from 1 to the ring's size. -/
def RingReady (s : State) (k : Nat) (a b : Word) (r : Ring) : Prop :=
  a.toNat < 16 ∧ r = Ring.of ((s.lcAt k).rings.atD a.toNat 0) ∧ r.v = true ∧ 1 ≤ b.toNat ∧ b.toNat ≤ 2 ^ r.lgn

/-- Logical core `k` with ring `n` set to `r`. -/
def ringSet (s : State) (k n : Nat) (r : Ring) : State :=
  s.setLc k { s.lcAt k with rings := (s.lcAt k).rings.put n r.bits 0 }

/-- The virtual address of the slot of index `i`. -/
def slotVa (r : Ring) (i : Nat) : Word :=
  0x01FFFF0000000000 + BitVec.ofNat 64 (64 * r.base + i % 2 ^ r.lgn * 2 ^ (r.lgs + 6))

/-- A ring instruction with a result: where `wait` does not hold it retires with gt ← `v` and the ring as `f` says; where it
does it stalls. -/
def RingYields (mk : Rill → Nat → Nat → Nat → Instr) (wait : Ring → Nat → Prop) (f : Ring → Nat → Ring)
    (v : Ring → Word) : Prop :=
  ∀ s c k q t a b r, s.who = some (.core false c k) →
    let w := Who.core false c k
    let n := (s.src w b).toNat
    RingReady s k (s.src w a) (s.src w b) r →
    (¬ wait r n → GivesFrom (ringSet s k (s.src w a).toNat (f r n)) (mk q t a b) s w (apOnly q [a, b] [t]) t (v r) .next) ∧
    (wait r n → (mk q t a b).wf = true → s.issue w (apOnly q [a, b] [t]) = .go →
      ∃ x, exec (mk q t a b) s = .next x ∧ Stalled s x w .ring)

/-- A ring instruction without a result: it retires with the ring as `f` says, or where `bad` holds raises ILLEGAL. -/
def RingMoves (mk : Rill → Nat → Nat → Instr) (bad : Ring → Nat → Prop) (f : Ring → Nat → Ring) : Prop :=
  ∀ s c k q a b r, s.who = some (.core false c k) →
    let w := Who.core false c k
    let n := (s.src w b).toNat
    RingReady s k (s.src w a) (s.src w b) r →
    (¬ bad r n → GivesFrom (ringSet s k (s.src w a).toNat (f r n)) (mk q a b) s w (apOnly q [a, b] []) 0 0 .next) ∧
    (bad r n → MayTrap s w → (mk q a b).wf = true → s.issue w (apOnly q [a, b] []) = .go →
      ∃ x, exec (mk q a b) s = .next x ∧ Trapped s x w 0 1 0)

/-- Another ring instruction raises ILLEGAL for a ring number above 15, a ring that is not initialised, and a count of 0 or
above the ring's size. -/
def RingRefuses (i : Instr) (q : Rill) (a b : Nat) (dsts : List Nat) : Prop :=
  ∀ s c k, s.who = some (.core false c k) →
    let w := Who.core false c k
    let n := (s.src w b).toNat
    let r := Ring.of ((s.lcAt k).rings.atD (s.src w a).toNat 0)
    16 ≤ (s.src w a).toNat ∨ r.v = false ∨ n = 0 ∨ 2 ^ r.lgn < n → MayTrap s w →
    s.issue w (apOnly q [a, b] dsts) = .go → ∃ t, exec i s = .next t ∧ Trapped s t w 0 1 0

/-- The registers of the groups at ga and gb, `m` and `n` of them. -/
def groups (a m b n : Nat) : List Nat := (List.range m).map (a + ·) ++ (List.range n).map (b + ·)

/-- A copy or gather command (13_streams.md R245, R248): with room in its engine's FIFO it enters it, with the group's
values, the token register's number and its issue number, and the AP goes on; with none it stalls. -/
def Issues (mk : Rill → Nat → Nat → Nat → Instr) (ge fo : Bool) (m n : Nat) : Prop :=
  ∀ s c k q t a b, s.who = some (.core false c k) →
    let w := Who.core false c k
    let l := s.lcAt k
    let regs := groups a m b n
    let fifo := if ge then l.geFifo else l.ceFifo
    l.trapMode = false → (mk q t a b).wf = true → s.issue w (apOnly Rill.none regs []) = .go →
    (∀ r, r ∈ t :: regs → 1 ≤ r ∧ r < 24) → (ge = true → l.kern.units.testBit 2 = true) →
    (fo = true → l.kern.units.testBit 0 = true) →
    let cmd : CgCmd := ⟨(encodeWords (mk q t a b)).headD 0, t, regs.map (s.src w), s.cur.pc, l.cgSeq⟩
    let s1 := s.setLc k { l with
      ceFifo := if ge then l.ceFifo else l.ceFifo ++ [cmd]
      geFifo := if ge then l.geFifo ++ [cmd] else l.geFifo
      cgSeq := (l.cgSeq + 1) % 2 ^ 32 }
    (fifo.length < 16 → ∃ x, exec (mk q t a b) s = .next x ∧ Retired s1 x w (apOnly Rill.none [] []) 0 0 .next) ∧
    (16 ≤ fifo.length → ∃ x, exec (mk q t a b) s = .next x ∧ Stalled s x w .fifo)

end Sys2Proof.Spec

/-! ## Sync objects and fences -/

/-- 10_consistency.md R191, R192 and 12_vector_data.md R238: `acq`, `rel`, `acq.gen` and `so.gen`. On a valid entry `acq`
retires, and `rel` adds 1 to GEN modulo 2^32 in memory; on an invalid entry each acts as `fence core` and counts it;
`acq.gen` of another generation raises STALE-GENERATION with the object's address, before validity is asked; `so.gen` gives
GEN. -/
def Sys2Proof.Parts.SyncObjects : Prop :=
  (∀ blk : List Byte, soInvalid blk = false ↔ validEntry blk) ∧
  (∀ s ep c k q e a rs blk, s.who = some (.core ep c k) → Entry s k (s.src (.core ep c k) a) rs blk →
    validEntry blk →
    GivesFrom (s.readMarks (s.lcAt k).ctx rs) (.acq q e a) s (.core ep c k) (streams q e [a] []) 0 0 .next) ∧
  (∀ s ep c k q e a rs blk, s.who = some (.core ep c k) → Entry s k (s.src (.core ep c k) a) rs blk →
    ¬ validEntry blk →
    ActsAsFence (.acq q e a) q e s ep c k [a] rs ∧ ActsAsFence (.rel q e a) q e s ep c k [a] rs) ∧
  (∀ s ep c k q e a b rs blk, s.who = some (.core ep c k) → Entry s k (s.src (.core ep c k) a) rs blk →
    ¬ validEntry blk → generation blk = (s.src (.core ep c k) b).toNat % 2 ^ 32 →
    ActsAsFence (.acqGen q e a b) q e s ep c k [a, b] rs) ∧
  (∀ s ep c k q e a rs blk, s.who = some (.core ep c k) → Entry s k (s.src (.core ep c k) a) rs blk →
    validEntry blk →
    GivesFrom (((s.readMarks (s.lcAt k).ctx rs).writeMarks (s.lcAt k).ctx rs).putRuns rs (bytesOf 4 (generation blk + 1) ++ blk.drop 4))
      (.rel q e a) s (.core ep c k) (streams q e [a] []) 0 0 .next) ∧
  (∀ s ep c k q e a b rs blk, s.who = some (.core ep c k) → Entry s k (s.src (.core ep c k) a) rs blk →
    validEntry blk → generation blk = (s.src (.core ep c k) b).toNat % 2 ^ 32 →
    GivesFrom (s.readMarks (s.lcAt k).ctx rs) (.acqGen q e a b) s (.core ep c k) (streams q e [a, b] []) 0 0 .next) ∧
  (∀ s ep c k q e a b rs blk, s.who = some (.core ep c k) → Entry s k (s.src (.core ep c k) a) rs blk →
    generation blk ≠ (s.src (.core ep c k) b).toNat % 2 ^ 32 → MayTrap s (.core ep c k) →
    s.issue (.core ep c k) (streams q e [a, b] []) = .go →
    ∃ t, exec (.acqGen q e a b) s = .next t ∧
      Trapped s t (.core ep c k) 1 12 (BitVec.ofNat 64 (objectVa s k (s.src (.core ep c k) a)))) ∧
  (∀ s ep c k q e d a rs blk, s.who = some (.core ep c k) → Entry s k (s.src (.core ep c k) a) rs blk →
    GivesFrom (s.readMarks (s.lcAt k).ctx rs) (.soGen q e d a) s (.core ep c k) (streams q e [a] [d]) d
      (BitVec.ofNat 64 (generation blk)) .next) ∧
  (∀ q e a, NoEntry (.acq q e a) q e a [a] []) ∧ (∀ q e a, NoEntry (.rel q e a) q e a [a] []) ∧
  (∀ q e a b, NoEntry (.acqGen q e a b) q e a [a, b] []) ∧ (∀ q e d a, NoEntry (.soGen q e d a) q e a [a] [d])

/-- 10_consistency.md R194, R195 and 15_sluice.md R283: `fence` retires once what its scope names is performed, stalls
before that, and is ILLEGAL for a scope above 4. What a waiting fence covers is what had started when it first waited; every
access but a multicast store is performed in its step (the model's: log entry 10), and a collective whose starter a THAW does
not name may be any core's (log entry 34). -/
def Sys2Proof.Parts.Fences : Prop :=
  (∀ s w q e k, s.who = some w → k ≤ 4 → s.fencePending w k = false →
    Gives (.fence q e k) s w (anywhere q e [] []) 0 0 .next) ∧
  (∀ s w q e k, s.who = some w → s.fencePending w k = true → (Instr.fence q e k).wf = true → k ≤ 4 →
    s.issue w (anywhere q e [] []) = .go → ∃ t, exec (.fence q e k) s = .next t ∧ Stalled s t w (.fence (s.fenceBound w))) ∧
  (∀ s w q e k, s.who = some w → 4 < k → MayTrap s w →
    ∃ t, exec (.fence q e k) s = .next t ∧ Trapped s t w 1 1 0) ∧
  (∀ (s : State) ep c k scope, s.fencePending (.core ep c k) scope = true ↔
    (∃ m ∈ s.multicasts, m.writer = k ∧ (scope ≠ 0 ∨ k ∈ m.targets)) ∨
    (scope = 4 ∧ ∃ p ∈ (s.ctxAt (s.lcAt k).ctx).colls, (p.2.starter = k ∨ p.2.starter = 2 ^ 40) ∧ p.2.state = 1 ∧
      p.2.order < s.fenceBound (.core ep c k))) ∧
  (∀ (s : State) n scope, s.fencePending (.sluice n) scope = true ↔
    scope = 4 ∧ ∃ p ∈ (s.slAt n).transfers, p.2.coll = none ∧ p.2.state = 1 ∧ p.2.order < s.fenceBound (.sluice n)) ∧
  (∀ (s : State) ep c k, s.fenceBound (.core ep c k) = match ((s.lcAt k).strm ep).stall with
    | some (.fence b) => b
    | _ => (s.ctxAt (s.lcAt k).ctx).collCount) ∧
  (∀ (s : State) n, s.fenceBound (.sluice n) = match (s.slAt n).stall with
    | some (.fence b) => b
    | _ => (s.slAt n).xferCount)

/-- Two parts: SyncObjects and Fences.

10_consistency.md R191, R192 and 12_vector_data.md R238: `acq`, `rel`, `acq.gen` and `so.gen`. On a valid entry `acq`
retires, and `rel` adds 1 to GEN modulo 2^32 in memory; on an invalid entry each acts as `fence core` and counts it;
`acq.gen` of another generation raises STALE-GENERATION with the object's address, before validity is asked; `so.gen` gives
GEN.

10_consistency.md R194, R195 and 15_sluice.md R283: `fence` retires once what its scope names is performed, stalls
before that, and is ILLEGAL for a scope above 4. What a waiting fence covers is what had started when it first waited; every
access but a multicast store is performed in its step (the model's: log entry 10), and a collective whose starter a THAW does
not name may be any core's (log entry 34). -/
def Obligations.Synchronisation : Prop := Parts.SyncObjects ∧ Parts.Fences


/-! ## The dirty log -/

/-- 18_context_image.md R339: `dlog.arm` arms a log whose control block is in order, with a new epoch, head at tail and OVF
clear; over an armed log it stops that one and waits, as it does while the log settles; a block out of order raises
PROTECTION. `dlog.stop` leaves the log settling; `dlog.pos` gives head, OVF, ARMED, E and SETTLING; before the first arming
there is no block, and it gives 0 for head and OVF. -/
def Obligations.DirtyLog : Prop :=
  (∀ (s : State) x ga (blk : List Byte), s.dlogBlockOk x ga blk = true ↔
    let base := ofBytes (blk.take 8)
    let log2n := (blk.getD 16 0).toNat
    ga % 64 = 0 ∧ 9 ≤ log2n ∧ log2n ≤ 24 ∧ base % 4096 = 0 ∧ (blk.getD 17 0).toNat < 2 ∧ (∀ b ∈ blk.drop 18, b = 0) ∧
    ∀ i, i < 2 ^ log2n * 8 / 4096 → ∃ pa p e, Paged s x (base + 4096 * i) pa p e ∧ e.getLsbD 58 = true ∧ e.getLsbD 3 = true) ∧
  (∀ s c k q d, s.who = some (.core false c k) →
    let x := s.ctxAt (s.lcAt k).ctx
    x.dlPtr = 0 → Gives (.dlogPos q d) s (.core false c k) (apOnly q [] [d]) d
      (BitVec.ofNat 64 ((if x.dlArmed then 2 ^ 33 else 0) + (if x.dlE then 2 ^ 34 else 0) +
        (if x.dlSettling then 2 ^ 35 else 0))) .next) ∧
  (∀ s c k q a rs, s.who = some (.core false c k) →
    let w := Who.core false c k
    let x := (s.lcAt k).ctx
    let ga := (s.src w a).toNat
    let blk := s.runsBytes rs
    (s.ctxAt x).dlArmed = false → (s.ctxAt x).dlSettling = false → s.access x k .load ga 64 = .ok rs →
    s.dlogBlockOk x ga blk = true →
    let s1 := ((s.readMarks x rs).writeMarks x rs).putRuns rs
      (blk.take 8 ++ (blk.drop 12).take 4 ++ (blk.drop 12).take 5 ++ [(blk.getD 17 0) &&& 0xFE] ++ blk.drop 18)
    GivesFrom (s1.setCtx x { s1.ctxAt x with dlPtr := ga, dlE := !(s1.ctxAt x).dlE, dlArmed := true })
      (.dlogArm q a) s w (apOnly q [a] []) 0 0 .next) ∧
  (∀ s c k q a rs, s.who = some (.core false c k) →
    let w := Who.core false c k
    let x := (s.lcAt k).ctx
    (s.ctxAt x).dlArmed = false → (s.ctxAt x).dlSettling = false →
    s.access x k .load (s.src w a).toNat 64 = .ok rs → s.dlogBlockOk x (s.src w a).toNat (s.runsBytes rs) = false →
    MayTrap s w → (Instr.dlogArm q a).wf = true → s.issue w (apOnly q [a] []) = .go →
    ∃ t, exec (.dlogArm q a) s = .next t ∧ Trapped s t w 0 3 (s.src w a)) ∧
  (∀ s c k q a, s.who = some (.core false c k) →
    let w := Who.core false c k
    let x := (s.lcAt k).ctx
    (s.ctxAt x).dlArmed = true ∨ (s.ctxAt x).dlSettling = true → (Instr.dlogArm q a).wf = true →
    s.issue w (apOnly q [a] []) = .go →
    ∃ t, exec (.dlogArm q a) s = .next t ∧
      Stalled (if (s.ctxAt x).dlArmed then s.setCtx x { s.ctxAt x with dlArmed := false, dlSettling := true } else s)
        t w .sync) ∧
  (∀ s c k q, s.who = some (.core false c k) →
    let x := (s.lcAt k).ctx
    GivesFrom (s.setCtx x (if (s.ctxAt x).dlArmed then { s.ctxAt x with dlArmed := false, dlSettling := true } else s.ctxAt x))
      (.dlogStop q) s (.core false c k) (apOnly q [] []) 0 0 .next) ∧
  (∀ s c k q d rs, s.who = some (.core false c k) →
    let x := (s.lcAt k).ctx
    let blk := s.runsBytes rs
    let n (b : Bool) (i : Nat) : Nat := if b then 2 ^ i else 0
    (s.ctxAt x).dlPtr ≠ 0 → s.access x k .load (s.ctxAt x).dlPtr 64 = .ok rs →
    GivesFrom (s.readMarks x rs) (.dlogPos q d) s (.core false c k) (apOnly q [] [d]) d
      (BitVec.ofNat 64 (ofBytes ((blk.drop 8).take 4) + n ((blk.getD 17 0).getLsbD 0) 32 + n (s.ctxAt x).dlArmed 33 +
        n (s.ctxAt x).dlE 34 + n (s.ctxAt x).dlSettling 35)) .next)

/-! ## Queues, rings, copy and gather -/

/-- 13_streams.md R240 and R256: `cq.put` pushes ga[0] onto CQ, and stalls on a full one; `eng.st` gives the snapshot of a
unit, and is ILLEGAL for a unit above 4. -/
def Obligations.QueueAndEngine : Prop :=
  (∀ s c k q a, s.who = some (.core false c k) → (s.lcAt k).cq.length < 32 →
    GivesFrom (s.setLc k { s.lcAt k with cq := (s.lcAt k).cq ++ [(s.src (.core false c k) a).getLsbD 0] })
      (.cqPut q a) s (.core false c k) (apOnly q [a] []) 0 0 .next) ∧
  (∀ s c k q a, s.who = some (.core false c k) → 32 ≤ (s.lcAt k).cq.length → (Instr.cqPut q a).wf = true →
    s.issue (.core false c k) (apOnly q [a] []) = .go →
    ∃ t, exec (.cqPut q a) s = .next t ∧ Stalled s t (.core false c k) .cqFull) ∧
  (∀ s c k q d u, s.who = some (.core false c k) → u ≤ 4 →
    let l := s.lcAt k
    let v (p : Progress) (occ : Nat) : Nat :=
      p.count % 2 ^ 48 * 2 ^ 16 + (if p.started || p.waited || p.count != 0 then 256 else 0) + occ % 32
    Gives (.engSt q d u) s (.core false c k) (apOnly q [] [d]) d
      (BitVec.ofNat 64 (match u with
        | 0 => v l.ceProg l.ceFifo.length
        | 1 => v l.geProg l.geFifo.length
        | 2 => v l.mxProg l.mxFifo.length
        | 3 => v l.rtProg l.rtFifo.length
        | _ => l.vprog.toNat % 2 ^ 32 * 2 ^ 16 + if l.vdone = 0 then 0 else 256)) .next) ∧
  (∀ s c k q d u, s.who = some (.core false c k) → 4 < u → MayTrap s (.core false c k) →
    ∃ t, exec (.engSt q d u) s = .next t ∧ Trapped s t (.core false c k) 0 1 0)

/-- 13_streams.md R254, R255 and Table 8: the ring instructions, with the stall or the ILLEGAL that each raises. -/
def Obligations.RingResults : Prop :=
  (∀ s c k q a b, s.who = some (.core false c k) →
    let w := Who.core false c k
    let g := (s.src w b).toNat
    let bad := 16 ≤ (s.src w a).toNat ∨ g / 2 ^ 31 ≠ 0 ∨ g / 2 ^ 15 % 2 ^ 8 ≠ 0 ∨
      2097152 < 64 * (g % 2 ^ 15) + 2 ^ (g / 2 ^ 27 % 16 + g / 2 ^ 23 % 16 + 6)
    (bad → MayTrap s w → s.issue w (apOnly q [a, b] []) = .go →
      ∃ t, exec (.ringInit q a b) s = .next t ∧ Trapped s t w 0 1 0) ∧
    (¬ bad → ((s.lcAt k).ceFifo ++ (s.lcAt k).geFifo).any (fun x => x.rcRing == some (s.src w a).toNat) = true →
      s.issue w (apOnly q [a, b] []) = .go → ∃ t, exec (.ringInit q a b) s = .next t ∧ Stalled s t w .ring)) ∧
  (∀ q a b, RingRefuses (.ringCommit q a b) q a b []) ∧ (∀ q a b, RingRefuses (.ringRel q a b) q a b []) ∧
  (∀ q t a b, RingRefuses (.ringClaim q t a b) q a b [t]) ∧ (∀ q t a b, RingRefuses (.ringWfill q t a b) q a b [t]) ∧
  (∀ q t a b, RingRefuses (.ringWfree q t a b) q a b [t]) ∧
  (∀ (x : CgCmd) n, x.rcRing = some n ↔
    (x.group.getD 1 0).getLsbD 40 = true ∧ n = (x.group.getD 1 0).toNat / 2 ^ 41 % 16) ∧
  (∀ s c k q a b, s.who = some (.core false c k) →
    let w := Who.core false c k
    let g := (s.src w b).toNat
    (s.src w a).toNat < 16 → g / 2 ^ 31 = 0 → g / 2 ^ 15 % 2 ^ 8 = 0 →
    64 * (g % 2 ^ 15) + 2 ^ (g / 2 ^ 27 % 16 + g / 2 ^ 23 % 16 + 6) ≤ 2097152 →
    ((s.lcAt k).ceFifo ++ (s.lcAt k).geFifo).any (fun x => x.rcRing == some (s.src w a).toNat) = false →
    GivesFrom (s.setLc k { s.lcAt k with
        rings := (s.lcAt k).rings.put (s.src w a).toNat (BitVec.ofNat 128 (g + 2 ^ 31)) 0 })
      (.ringInit q a b) s w (apOnly q [a, b] []) 0 0 .next) ∧
  RingYields .ringClaim (fun r n => 2 ^ r.lgn < gap (r.claim + n) r.head)
    (fun r n => { r with claim := (r.claim + n) % 2 ^ 32 }) (fun r => slotVa r r.claim) ∧
  RingYields .ringWfill (fun r n => gap r.tail r.head < n) (fun r _ => r) (fun r => slotVa r r.head) ∧
  RingYields .ringWfree (fun r n => 2 ^ r.lgn - gap r.claim r.head < n) (fun r _ => r)
    (fun r => BitVec.ofNat 64 (2 ^ r.lgn - gap r.claim r.head)) ∧
  RingMoves .ringCommit (fun r n => gap r.claim r.tail < n) (fun r n => { r with tail := (r.tail + n) % 2 ^ 32 }) ∧
  RingMoves .ringRel (fun r n => gap r.tail r.head < n) (fun r n => { r with head := (r.head + n) % 2 ^ 32 }) ∧
  (∀ r : Ring, r.claim < 2 ^ 32 → r.tail < 2 ^ 32 → r.head < 2 ^ 32 → r.lgn < 16 → r.lgs < 16 → r.base < 2 ^ 15 →
    Ring.of r.bits = r)

/-- 13_streams.md R245, R248 and Table 3: the copy and gather commands. -/
def Obligations.CommandIssue : Prop :=
  Issues .cp false false 2 1 ∧ Issues .cpFo false true 2 6 ∧ Issues .cp2d false false 3 2 ∧
  Issues .cp2dFo false true 3 7 ∧ Issues .cpMc false false 2 1 ∧ Issues .cpFill false false 2 1 ∧
  Issues .geGather true false 2 2 ∧ Issues .geGather2d true false 3 2 ∧ Issues .geScatter true false 2 2

namespace Sys2Proof.Spec

/-! ## Signals, flags and the distributor's instructions -/

/-- The 8 bytes at `va` are a signal of context `x`: aligned, in the basin window, within the context's grant on that die;
their home is physical address `pa` (08_memory.md R161, 19_counters.md R340). -/
abbrev SignalHome (s : State) (x va pa : Nat) : Prop :=
  let o := va - 0x01FFFF0040000000
  let d := o / 2 ^ 27
  va % 8 = 0 ∧ 0x01FFFF0040000000 ≤ va ∧ va < 0x01FFFF0060000000 ∧ o % 2 ^ 27 + 8 ≤ (s.ctxAt x).grantSize d ∧
  pa = 0x1000000000000 + d * 2 ^ 27 + (s.ctxAt x).grantBase d + o % 2 ^ 27

/-- The signal at ga may be used: it has a home and lies in no listed range. -/
def Signal (s : State) (w : Who) (ga : Word) (pa : Nat) : Prop :=
  SignalHome s (s.ctxOf w) ga.toNat pa ∧ s.inRange (s.ctxOf w) ga.toNat 8 = false

/-- The value of the signal at home `pa`. -/
def signalAt (s : State) (pa : Nat) : Word := BitVec.ofNat 64 (ofBytes (s.rawBytes pa 8))

/-- The address checks of a signal form, in their order (19_counters.md R344): MISALIGNED, PROTECTION, COLLECTIVE-RANGE. -/
def SignalTraps (i : Instr) (q : Rill) (e : Bool) (a : Nat) (srcs dsts : List Nat) : Prop :=
  ∀ s ep c k, s.who = some (.core ep c k) →
    let w := Who.core ep c k
    let ga := s.src w a
    MayTrap s w → s.issue w (streams q e srcs dsts) = .go →
    (ga.toNat % 8 ≠ 0 → ∃ t, exec i s = .next t ∧ Trapped s t w 1 2 ga) ∧
    (ga.toNat % 8 = 0 → (∀ pa, ¬ SignalHome s (s.ctxOf w) ga.toNat pa) →
      ∃ t, exec i s = .next t ∧ Trapped s t w 1 3 ga) ∧
    (∀ pa, SignalHome s (s.ctxOf w) ga.toNat pa → s.inRange (s.ctxOf w) ga.toNat 8 = true →
      ∃ t, exec i s = .next t ∧ Trapped s t w 1 5 ga)

/-- The key of logical core `n` of the node of logical core `k`. -/
def member (s : State) (k n : Nat) : Nat := (s.lcAt k).node * 65536 + n

/-- Slot `f` of logical core `j` holds `v`. -/
def flagSet (s : State) (j f : Nat) (v : Word) : State :=
  s.setLc j { s.lcAt j with flags := (s.lcAt j).flags.put f v 0 }

/-- A target that `flag.mset` names: core 64·ga[63:40] + b for a bit b of gb. -/
def msetNames (ga gb : Word) : List Nat := ((List.range 64).filter gb.getLsbD).map (64 * (ga.toNat / 2 ^ 40) + ·)

/-- TEAMSIZE. -/
def team (s : State) (k : Nat) : Nat := ((s.lcAt k).launch.atD 2 0).toNat

/-- An AP instruction that puts `v` into gd, in the state `s1`. -/
def Answers (s1 : State) (i : Instr) (s : State) (c k : Nat) (q : Rill) (srcs : List Nat) (d : Nat) (v : Word) : Prop :=
  GivesFrom s1 i s (.core false c k) (apOnly q srcs [d]) d v .next

/-- The error values of majors 0x38 and 0x39: −1 to −4 (16_distributor.md R301). -/
def err (n : Nat) : Word := - BitVec.ofNat 64 n

/-- The `n`-byte field at offset `o` of the descriptor, packet or record `b`. -/
def at_ (b : List Byte) (o n : Nat) : Nat := ofBytes ((b.drop o).take n)

/-- The lowest number below `n` for which `p` holds. -/
abbrev Lowest (n : Nat) (p : Nat → Prop) (i : Nat) : Prop := i < n ∧ p i ∧ ∀ j, j < i → ¬ p j

/-- Bytes `lo` up to `hi` of a packet are zero. -/
abbrev ZeroIn (b : List Byte) (lo hi : Nat) : Prop := ∀ i, i < hi → lo ≤ i → b.getD i 0 = 0

/-- The address is that of a signal of context `ctx` (14_host_queues.md R262). -/
abbrev IsSignal (s : State) (ctx va : Nat) : Prop :=
  let o := va - 0x01FFFF0040000000
  va % 8 = 0 ∧ 0x01FFFF0040000000 ≤ va ∧ va < 0x01FFFF0060000000 ∧ o % 2 ^ 27 + 8 ≤ (s.ctxAt ctx).grantSize (o / 2 ^ 27)

/-- The body of a LAUNCH keeps 14_host_queues.md R262, Table 4: slot, condition fields, predicate and record addresses, reserved bytes. -/
abbrev GoodLaunch (b : List Byte) : Prop :=
  at_ b 0x10 1 ≤ 63 ∧ at_ b 0x14 2 ≤ 1023 ∧ ZeroIn b 0x16 0x18 ∧ at_ b 0x18 8 % 4 = 0 ∧ at_ b 0x20 8 % 64 = 0 ∧ ZeroIn b 0x28 0x40

end Sys2Proof.Spec

/-! ## Signals, flag slots, counters -/

/-- 19_counters.md R344, R345 and Table 1: `sig.add`, `sig.rd` and `sig.wait`, and the faults of their address. -/
def Obligations.SignalResults : Prop :=
  (∀ s ep c k q e d a b pa, s.who = some (.core ep c k) →
    let w := Who.core ep c k
    Signal s w (s.src w a) pa →
    GivesFrom (s.setRaws pa (bytesOf 8 (signalAt s pa + s.src w b).toNat)) (.sigAdd q e d a b) s w
      (streams q e [a, b] [d]) d (signalAt s pa) .next) ∧
  (∀ s ep c k q e d a pa, s.who = some (.core ep c k) →
    let w := Who.core ep c k
    Signal s w (s.src w a) pa → Gives (.sigRd q e d a) s w (streams q e [a] [d]) d (signalAt s pa) .next) ∧
  (∀ s ep c k q e d a b pa, s.who = some (.core ep c k) →
    let w := Who.core ep c k
    let v := signalAt s pa
    Signal s w (s.src w a) pa →
    (v.toInt ≤ (s.src w b).toInt ∨ v.toInt < 0 →
      Gives (.sigWait q e d a b) s w (streams q e [a, b] [d]) d v .next) ∧
    (¬ (v.toInt ≤ (s.src w b).toInt ∨ v.toInt < 0) → s.issue w (streams q e [a, b] [d]) = .go →
      ∃ t, exec (.sigWait q e d a b) s = .next t ∧ Stalled s t w .sync)) ∧
  (∀ q e d a b, SignalTraps (.sigAdd q e d a b) q e a [a, b] [d]) ∧
  (∀ q e d a, SignalTraps (.sigRd q e d a) q e a [a] [d]) ∧
  (∀ q e d a b, SignalTraps (.sigWait q e d a b) q e a [a, b] [d])

/-- 19_counters.md R342 to R346: `flag.add`, `flag.mset` and `flag.wait`. A slot or a target that does not exist, or a
reserved bit, raises PROTECTION with TADDR = ga. -/
def Sys2Proof.Parts.FlagResults : Prop :=
  (∀ s ep c k q e d a b, s.who = some (.core ep c k) →
    let w := Who.core ep c k
    let ga := (s.src w a).toNat
    let f := ga / 2 ^ 32 % 64
    let j := member s k (ga % 2 ^ 32)
    ga / 2 ^ 38 = 0 → f < (s.lcAt k).kern.flags → ga % 2 ^ 32 < team s k → s.flagsMoving j = false →
    GivesFrom (flagSet s j f ((s.lcAt j).flags.atD f 0 + s.src w b)) (.flagAdd q e d a b) s w
      (streams q e [a, b] [d]) d ((s.lcAt j).flags.atD f 0) .next) ∧
  (∀ s ep c k q e d a b, s.who = some (.core ep c k) →
    let w := Who.core ep c k
    let ga := s.src w a
    let js := (msetNames ga (s.src w b)).map (member s k)
    ga.toNat / 64 % 4 = 0 → ga.toNat % 64 < (s.lcAt k).kern.flags →
    (∀ n ∈ msetNames ga (s.src w b), n < team s k) → (∀ j ∈ js, s.flagsMoving j = false) →
    GivesFrom (js.foldl (fun t j => flagSet t j (ga.toNat % 64) (signed 32 (ga.toNat / 2 ^ 8))) s) (.flagMset q e d a b) s w
      (streams q e [a, b] [d]) d (BitVec.ofNat 64 js.length) .next) ∧
  (∀ s ep c k q e d a b, s.who = some (.core ep c k) →
    let w := Who.core ep c k
    let ga := (s.src w a).toNat
    let v := (s.lcAt k).flags.atD ga 0
    ga < 64 → ga < (s.lcAt k).kern.flags →
    ((s.src w b).toInt ≤ v.toInt → Gives (.flagWait q e d a b) s w (streams q e [a, b] [d]) d v .next) ∧
    (v.toInt < (s.src w b).toInt → s.issue w (streams q e [a, b] [d]) = .go →
      ∃ t, exec (.flagWait q e d a b) s = .next t ∧ Stalled s t w .sync)) ∧
  (∀ s ep c k q e d a b, s.who = some (.core ep c k) →
    let w := Who.core ep c k
    let ga := s.src w a
    let n := ga.toNat
    MayTrap s w → s.issue w (streams q e [a, b] [d]) = .go →
    (n / 2 ^ 38 ≠ 0 ∨ (s.lcAt k).kern.flags ≤ n / 2 ^ 32 % 64 ∨ team s k ≤ n % 2 ^ 32 →
      ∃ t, exec (.flagAdd q e d a b) s = .next t ∧ Trapped s t w 1 3 ga) ∧
    (n / 64 % 4 ≠ 0 ∨ (s.lcAt k).kern.flags ≤ n % 64 ∨ (∃ j ∈ msetNames ga (s.src w b), team s k ≤ j) →
      ∃ t, exec (.flagMset q e d a b) s = .next t ∧ Trapped s t w 1 3 ga) ∧
    (64 ≤ n ∨ (s.lcAt k).kern.flags ≤ n → ∃ t, exec (.flagWait q e d a b) s = .next t ∧ Trapped s t w 1 3 ga))

/-- 19_counters.md R347 to R351: `ctr.rd` reads a counter by number (0 for a number that names none); `ctr.sel` selects an
event for a counter of the logical core, sets it to 0 and gives its old value, or −1 out of range. -/
def Sys2Proof.Parts.CounterResults : Prop :=
  (∀ s ep c k q e d a, s.who = some (.core ep c k) →
    let w := Who.core ep c k
    Gives (.ctrRd q e d a) s w (streams q e [a] [d]) d (s.counter c (s.lcAt k) (s.src w a).toNat) .next) ∧
  (∀ (s : State) c l n,
    (n ≤ 15 → n ≠ 1 → n ≠ 14 → s.counter c l n = (s.coreAt c).idle.atD n 0) ∧
    (n = 14 → s.counter c l n = 0) ∧ (0x10 ≤ n → n < 0x18 → s.counter c l n = l.pcs.atD (n - 0x10) 0) ∧
    (n = 0x18 → s.counter c l n = l.pcsel) ∧ (0x100 ≤ n → n < 0x108 → s.counter c l n = s.errs.atD (n - 0x100) 0) ∧
    (∀ p i, p < 48 → n = 0x200 + 4 * p + i → i < 4 →
      s.counter c l n = [(s.portAt p).drop, (s.portAt p).reject, (s.portAt p).dup, (s.portAt p).late].getD i 0) ∧
    (0x18 < n → n < 0x100 ∨ 0x108 ≤ n ∧ n < 0x200 ∨ 0x2C0 ≤ n → s.counter c l n = 0)) ∧
  (∀ (s : State) c, ((List.range 14).map (s.idleAt c)).foldl (· + ·) 0 = s.cycle) ∧
  (∀ s c k q d a b, s.who = some (.core false c k) →
    let l := s.lcAt k
    let i := (l.reg false a).toNat
    let code := (l.reg false b).toNat
    (i ≤ 7 → code ≤ 14 →
      Answers (s.setLc k { l with
          pcsel := (l.pcsel &&& ~~~ ((0xFF : Word) <<< (8 * i))) ||| (BitVec.ofNat 64 code <<< (8 * i))
          pcs := l.pcs.put i 0 0 })
        (.ctrSel q d a b) s c k q [a, b] d (l.pcs.atD i 0)) ∧
    (7 < i ∨ 14 < code → Answers s (.ctrSel q d a b) s c k q [a, b] d (err 1)))

/-- Two parts: FlagResults and CounterResults.

19_counters.md R342 to R346: `flag.add`, `flag.mset` and `flag.wait`. A slot or a target that does not exist, or a
reserved bit, raises PROTECTION with TADDR = ga.

19_counters.md R347 to R351: `ctr.rd` reads a counter by number (0 for a number that names none); `ctr.sel` selects an
event for a counter of the logical core, sets it to 0 and gives its old value, or −1 out of range. -/
def Obligations.FlagsAndCounters : Prop := Parts.FlagResults ∧ Parts.CounterResults


/-! ## The distributor's instructions -/

/-- 16_distributor.md R301, R303 and Table 7: `seq.rd`, `seq.kv` and `dist.hint`. -/
def Sys2Proof.Parts.SequenceReads : Prop :=
  (∀ s c k q d a b, s.who = some (.core false c k) →
    let l := s.lcAt k
    let n := (l.reg false a).toNat
    let g := (l.reg false b).toNat
    let x := s.slotAt l.kern.slot
    let i := Instr.seqRd q d a b
    (g ≤ 11 → n < 4096 → (s.seqWord n 0).toNat % 2 ^ 16 = l.ctx → Answers s i s c k q [a, b] d (s.seqWord n g)) ∧
    (g ≤ 11 → n < 4096 → (s.seqWord n 0).toNat % 2 ^ 16 ≠ l.ctx → Answers s i s c k q [a, b] d 0) ∧
    (g ≤ 11 → 4096 ≤ n → Answers s i s c k q [a, b] d (err 1)) ∧
    (g = 12 → Answers s i s c k q [a, b] d (BitVec.ofNat 64 x.steps.length)) ∧
    (∀ e, g = 13 → x.steps[n]? = some e → Answers s i s c k q [a, b] d (BitVec.ofNat 64 e)) ∧
    (g = 13 → x.steps.length ≤ n → Answers s i s c k q [a, b] d (err 1)) ∧
    (g = 14 → Answers s i s c k q [a, b] d (BitVec.ofNat 64 x.stepno)) ∧
    (14 < g → Answers s i s c k q [a, b] d (err 1))) ∧
  (∀ s c k q d a b, s.who = some (.core false c k) →
    let l := s.lcAt k
    let n := (l.reg false a).toNat
    let g := (l.reg false b).toNat
    let i := Instr.seqKv q d a b
    let st := (s.seqWord n 0).toNat / 2 ^ 62
    let mine := (s.seqWord n 0).toNat % 2 ^ 16 = l.ctx ∧ 2 ≤ st
    let count := (s.seqWord n 2).toNat % 2 ^ 32
    (4096 ≤ n → Answers s i s c k q [a, b] d (err 1)) ∧
    (n < 4096 → ¬ mine → Answers s i s c k q [a, b] d (err 3)) ∧
    (n < 4096 → mine → count ≤ g → Answers s i s c k q [a, b] d (err 1)) ∧
    (∀ bs s1, n < 4096 → mine → g < count → s.readVa l.ctx k ((s.seqWord n 1).toNat + 8 * g) 8 = .ok (bs, s1) →
      Answers s1 i s c k q [a, b] d (BitVec.ofNat 64 (ofBytes bs)))) ∧
  (∀ s c k q d a b, s.who = some (.core false c k) →
    let l := s.lcAt k
    let g := l.reg false a
    let v := (l.reg false b).toNat
    let i := Instr.distHint q d a b
    let old := BitVec.ofNat 64 (s.ctxAt l.ctx).floor
    (g = 0 → v ≤ 256 → Answers (s.setCtx l.ctx { s.ctxAt l.ctx with floor := v }) i s c k q [a, b] d old) ∧
    (g = 1 → v = 0 → Answers s i s c k q [a, b] d old) ∧
    (g = 0 ∧ 256 < v ∨ g = 1 ∧ v ≠ 0 ∨ 1 < g.toNat → Answers s i s c k q [a, b] d (err 1)))

/-- 16_distributor.md R302: `seq.retire` either finds too little room, answers −2 and changes no entry, or answers the number
of entries that it retired: each was ACTIVE and in the slot's step list, becomes RETIRING, and no other word of the table
changes. A count above 4,096 gives −1. -/
def Sys2Proof.Parts.SequenceRetire : Prop :=
  (∀ s c k q d a b v t, s.who = some (.core false c k) →
    let l := s.lcAt k
    (l.reg false b).toNat ≤ 4096 →
    s.seqRetire l.ctx k l.kern.slot (l.reg false a).toNat (l.reg false b).toNat = .ok (v, t) →
    Answers t (.seqRetire q d a b) s c k q [a, b] d v) ∧
  (∀ s c k q d a b, s.who = some (.core false c k) → 4096 < ((s.lcAt k).reg false b).toNat →
    Answers s (.seqRetire q d a b) s c k q [a, b] d (err 1)) ∧
  (∀ (s t : State) ctx k sl va c v, s.seqRetire ctx k sl va c = .ok (v, t) →
    (v = err 2 ∧ t.seqs = s.seqs) ∨
    (∃ sel : List Nat, v = BitVec.ofNat 64 sel.length ∧ sel.length ≤ c ∧
      (∀ e ∈ sel, e ∈ (s.slotAt sl).steps ∧ (s.seqWord e 0).toNat / 2 ^ 62 = 2) ∧
      (∀ e w, w < 12 → t.seqWord e w =
        if e ∈ sel ∧ w = 0 then (s.seqWord e w &&& ~~~ ((3 : Word) <<< 62)) ||| ((3 : Word) <<< 62) else s.seqWord e w)))

/-- Two parts: SequenceReads and SequenceRetire.

16_distributor.md R301, R303 and Table 7: `seq.rd`, `seq.kv` and `dist.hint`.

16_distributor.md R302: `seq.retire` either finds too little room, answers −2 and changes no entry, or answers the number
of entries that it retired: each was ACTIVE and in the slot's step list, becomes RETIRING, and no other word of the table
changes. A count above 4,096 gives −1. -/
def Obligations.SequenceResults : Prop := Parts.SequenceReads ∧ Parts.SequenceRetire


/-- 16_distributor.md R304, R291, R293: `node.launch` answers −1 for a hold other than 0 or 1 and for a packet that is not in order, minus
the cause word of the launch check that fails, and −2 for a full pool; else the node enters the pool under the lowest free
number, which it answers. An error changes nothing but the marks of the pages read. `node.sig` releases a held node of the context,
and gives −4 for any other. -/
def Obligations.NodeResults : Prop :=
  (∀ s c k q d a b, s.who = some (.core false c k) → 1 < ((s.lcAt k).reg false b).toNat →
    Answers s (.nodeLaunch q d a b) s c k q [a, b] d (err 1)) ∧
  (∀ s c k q d a b bs s1, s.who = some (.core false c k) →
    let l := s.lcAt k
    let held := (l.reg false b).toNat
    let csig := at_ bs 8 8
    let ok := at_ bs 0 4 = 0x00040001 ∧ (csig = 0 ∨ IsSignal s1 l.ctx csig) ∧ at_ bs 0x12 2 ≤ 1 ∧ GoodLaunch bs
    let gives (t : State) (v : Word) : Prop := Answers t (.nodeLaunch q d a b) s c k q [a, b] d v
    held ≤ 1 → s.readVa l.ctx k (l.reg false a).toNat 256 = .ok (bs, s1) →
    (¬ ok → gives s1 (err 1)) ∧
    (ok → ∀ e, s1.launchChecks l.ctx true bs = some e → gives s1 (err e.cause)) ∧
    (ok → s1.launchChecks l.ctx true bs = none → (∀ n, n < 4096 → s1.nodes.at? n ≠ none) → gives s1 (err 2)) ∧
    (ok → s1.launchChecks l.ctx true bs = none → ∀ n, Lowest 4096 (fun n => s1.nodes.at? n = none) n →
      let parent := s1.nodes.at? l.node
      gives ((s1.enterNode n l.ctx bs ((parent.map Node.queue).getD 0) 0 4 ((parent.map Node.prio).getD 0) (decide (held = 1)) none
        0).settle) (BitVec.ofNat 64 n))) ∧
  (∀ s c k q d a b cause va, s.who = some (.core false c k) → MayTrap s (.core false c k) →
    let l := s.lcAt k
    let i := Instr.nodeLaunch q d a b
    i.wf = true → s.issue (.core false c k) (apOnly q [a, b] [d]) = .go → (l.reg false b).toNat ≤ 1 →
    s.readVa l.ctx k (l.reg false a).toNat 256 = .fault cause va false →
    ∃ t, exec i s = .next t ∧ Trapped s t (.core false c k) 0 cause va) ∧
  (∀ s c k q d a n, s.who = some (.core false c k) →
    let l := s.lcAt k
    n = (l.reg false a).toNat →
    (∀ x, s.nodes.at? n = some x → x.held = true → x.ctx = l.ctx →
      Answers ((s.setNode n { x with held := false }).settle) (.nodeSig q d a) s c k q [a] d 0) ∧
    ((∀ x, s.nodes.at? n = some x → ¬ (x.held = true ∧ x.ctx = l.ctx)) →
      Answers s (.nodeSig q d a) s c k q [a] d (err 4)))

namespace Sys2Proof.Spec

/-! ## Tensors, collectives, ranges -/

/-- The image of a tensor descriptor, of eight words. -/
def imageOf (bs : List Byte) : List Word := (List.range 8).map (fun i => BitVec.ofNat 64 (ofBytes ((bs.drop (8 * i)).take 8)))

/-- Context `c` with descriptor `t` written with `ws`; what was staged for it and its completed chunks are forgotten. -/
def tensorSet (c : Ctx) (t : Nat) (ws : List Word) : Ctx :=
  { c.dropStage t with tns := (List.range ws.length).foldl (fun m i => m.put (8 * t + i) (ws.getD i 0) 0) c.tns }

/-- Entry `r` of a range table with the words `w0`, `w1` and `w2`. -/
def rangeSet (c : Ctx) (r : Nat) (w0 w1 w2 : Word) : Ctx :=
  { c with ranges := ((c.ranges.put (3 * r) w0 0).put (3 * r + 1) w1 0).put (3 * r + 2) w2 0 }

/-- Entry `r` of a range table is valid. -/
def rangeOn (c : Ctx) (r : Nat) : Bool := (c.ranges.atD (3 * r) 0).msb

end Sys2Proof.Spec

/-- 17_collectives.md R308, R319, R320: `tns.set` writes a descriptor whose image is in order and whose staging fits in what its
port has, or clears one; what is staged for it or under way to it is forgotten;
`tns.wait` waits for the arrival bits that its entry names; `tns.bits` reads arrival bits or a contributor record. -/
def Obligations.TensorResults : Prop :=
  (∀ s c k q d a b bs s1, s.who = some (.core false c k) →
    let l := s.lcAt k
    let ga := (l.reg false a).toNat
    let t := (l.reg false b).toNat
    let x := s1.ctxAt l.ctx
    let img := TDesc.of (fun i => (imageOf bs).getD i 0)
    let i := Instr.tnsSet q d a b
    ga ≠ 0 → ga % 64 = 0 → s.readVa l.ctx k ga 64 = .ok (bs, s1) →
    let fits := img.reserve = 0 ∨
      s1.stagingUsed img.rport l.ctx t + img.reserve ≤ (if (s1.portAt img.rport).reduces then 8 * 2 ^ 20 else 0)
    let ok := t < 4096 ∧ s1.tdescOk l.ctx img = true
    (ok → fits → Answers (s1.setCtx l.ctx (tensorSet x t (imageOf bs))) i s c k q [a, b] d 0) ∧
    (¬ ok → Answers s1 i s c k q [a, b] d (err 1)) ∧ (ok → ¬ fits → Answers s1 i s c k q [a, b] d (err 2))) ∧
  (∀ s c k q d a b, s.who = some (.core false c k) →
    let l := s.lcAt k
    let ga := l.reg false a
    let t := (l.reg false b).toNat
    let x := s.ctxAt l.ctx
    let i := Instr.tnsSet q d a b
    (ga = 0 → t < 4096 →
      Answers (s.setCtx l.ctx (tensorSet x t [x.tns.atD (8 * t) 0 &&& ~~~ (BitVec.twoPow 64 63)])) i s c k q [a, b] d 0) ∧
    (ga = 0 → 4096 ≤ t → Answers s i s c k q [a, b] d (err 1)) ∧
    (ga.toNat % 64 ≠ 0 → MayTrap s (.core false c k) → s.issue (.core false c k) (apOnly q [a, b] [d]) = .go →
      ∃ u, exec i s = .next u ∧ Trapped s u (.core false c k) 0 2 ga)) ∧
  (∀ s c k q d a, s.who = some (.core false c k) →
    let l := s.lcAt k
    let g := (l.reg false a).toNat
    let first := g / 2 ^ 16 % 2 ^ 28
    let count := g / 2 ^ 44 % 2 ^ 16
    let t := (s.ctxAt l.ctx).tdesc (g % 2 ^ 12)
    let i := Instr.tnsWait q d a
    let bad := g / 2 ^ 60 ≠ 0 ∨ g / 2 ^ 12 % 16 ≠ 0 ∨ count = 0
    let absent := t.v = false ∨ t.n < first + count
    let here := ∀ j, j < count → s.basinBit l.ctx t.bitmap (first + j) = true
    (bad → Answers s i s c k q [a] d (err 1)) ∧ (¬ bad → absent → Answers s i s c k q [a] d (err 3)) ∧
    (¬ bad → ¬ absent → here → Answers s i s c k q [a] d 0) ∧
    (¬ bad → ¬ absent → ¬ here → s.issue (.core false c k) (apOnly q [a] [d]) = .go →
      ∃ u, exec i s = .next u ∧ Stalled s u (.core false c k) .sync)) ∧
  (∀ s c k q d a b, s.who = some (.core false c k) →
    let l := s.lcAt k
    let n := (l.reg false a).toNat
    let g := (l.reg false b).toNat
    let t := (s.ctxAt l.ctx).tdesc n
    let j := g % 2 ^ 28
    let i := Instr.tnsBits q d a b
    let bad := 4096 ≤ n ∨ g / 2 ^ 28 % 2 ^ 35 ≠ 0
    (bad → Answers s i s c k q [a, b] d (err 1)) ∧ (¬ bad → t.v = false → Answers s i s c k q [a, b] d (err 3)) ∧
    (¬ bad → t.v = true → g < 2 ^ 63 → ∃ v : Word, Answers s i s c k q [a, b] d v ∧
      ∀ m, m < 64 → v.getLsbD m = (decide (j + m < t.n) && s.basinBit l.ctx t.bitmap (j + m))) ∧
    (¬ bad → t.v = true → 2 ^ 63 ≤ g → t.mode = 0 → Answers s i s c k q [a, b] d (err 3)) ∧
    (¬ bad → t.v = true → 2 ^ 63 ≤ g → t.mode ≠ 0 → t.n ≤ j → Answers s i s c k q [a, b] d (err 1)) ∧
    (¬ bad → t.v = true → 2 ^ 63 ≤ g → t.mode ≠ 0 → j < t.n →
      Answers s i s c k q [a, b] d
        (BitVec.ofNat 64 (ofBytes ((List.range 8).map (fun m => s.basinByte l.ctx (t.cmap + j * t.recLen + m))))))) ∧
  (∀ (c : Ctx) t, c.dropStage t = { c with
    stage := (c.dropStage t).stage
    finished := (c.dropStage t).finished
    claims := c.claims.filter (fun d => !(at_ d.packet.header 4 2 == t && at_ d.packet.header 1 1 != 0))
    waiting := c.waiting.filter (fun d => !(at_ d.2.1.header 4 2 == t && at_ d.2.1.header 1 1 != 0)) } ∧
    ∀ k, (c.dropStage t).stage.at? k = (if k / 2 ^ 28 = t then none else c.stage.at? k) ∧
      (c.dropStage t).finished.at? k = (if k / 2 ^ 28 = t then none else c.finished.at? k))

/-- 17_collectives.md R314, R322: an access overlaps the ranges of the valid entries of its context's table; `rng.set` enters a
range in the lowest free entry, whose HANDLE keeps what it held, or clears an entry that a program entered. -/
def Obligations.RangeResults : Prop :=
  (∀ (s : State) ctx va n, s.inRange ctx va n = true ↔ ∃ x, s.ctxs.at? ctx = some x ∧ ∃ r, r < 64 ∧ rangeOn x r = true ∧
    let base := (x.ranges.atD (3 * r + 1) 0).toNat % 2 ^ 57
    let len := (x.ranges.atD (3 * r + 2) 0).toNat % 2 ^ 41
    0 < len ∧ va < base + len ∧ base < va + n) ∧
  ∀ s c k q d a b, s.who = some (.core false c k) →
    let l := s.lcAt k
    let ga := (l.reg false a).toNat
    let gb := (l.reg false b).toNat
    let x := s.ctxAt l.ctx
    let i := Instr.rngSet q d a b
    let w0 := x.ranges.atD (3 * ga) 0
    (∀ r, gb ≠ 0 → gb ≤ 2 ^ 40 → ga < 2 ^ 57 → Lowest 64 (fun r => rangeOn x r = false) r →
      Answers (s.setCtx l.ctx (rangeSet x r ((x.ranges.atD (3 * r) 0 &&& ~~~ ((3 : Word) <<< 62)) ||| BitVec.twoPow 64 63)
        (BitVec.ofNat 64 ga) (BitVec.ofNat 64 gb))) i s c k q [a, b] d (BitVec.ofNat 64 r)) ∧
    (gb ≠ 0 → gb ≤ 2 ^ 40 → ga < 2 ^ 57 → (∀ r, r < 64 → rangeOn x r = true) → Answers s i s c k q [a, b] d (err 2)) ∧
    (gb ≠ 0 → 2 ^ 40 < gb ∨ 2 ^ 57 ≤ ga → Answers s i s c k q [a, b] d (err 1)) ∧
    (gb = 0 → ga < 64 → rangeOn x ga = true → w0.getLsbD 62 = false →
      Answers (s.setCtx l.ctx (rangeSet x ga (w0 &&& ~~~ (BitVec.twoPow 64 63)) (x.ranges.atD (3 * ga + 1) 0)
        (x.ranges.atD (3 * ga + 2) 0))) i s c k q [a, b] d 0) ∧
    (gb = 0 → ga < 64 → rangeOn x ga = false ∨ w0.getLsbD 62 = true → Answers s i s c k q [a, b] d (err 3)) ∧
    (gb = 0 → 64 ≤ ga → Answers s i s c k q [a, b] d (err 1))

/-- 17_collectives.md R321: `coll.start` enters a record whose fields are in order under the lowest free handle, with a range
over the source bytes of its transfers, and raises NODE at the Sluice core that serves its port, waiting while that core has an
event of the distributor pending (R284); `coll.stat` gives the state and the count, and frees an ended handle. -/
def Obligations.CollectiveResults : Prop :=
  (∀ s c k q d a r s1, s.who = some (.core false c k) →
    let l := s.lcAt k
    let x := s1.ctxAt l.ctx
    let i := Instr.collStart q d a
    let n := cPort r / 3
    let rec0 (e : Option Nat) : Coll := ⟨r, 1, cNext r (cPoints r) 0, 0, 0, 0, false, e, k, l.node, x.collCount⟩
    let enter (y : Ctx) (h : Nat) (e : Option Nat) : State :=
      (s1.setCtx l.ctx { y with colls := y.colls.ins h (rec0 e), collCount := y.collCount + 1 }).raiseEv n 259 1 255 h l.node 0 0
    let freeH := Lowest 256 (fun n => x.colls.at? n = none)
    s.readVa l.ctx k (l.reg false a).toNat 128 = .ok (r, s1) →
    (s1.collOk l.ctx r = false → Answers s1 i s c k q [a] d (err 1)) ∧
    (s1.collOk l.ctx r = true → (∀ h, h < 256 → x.colls.at? h ≠ none) → Answers s1 i s c k q [a] d (err 2)) ∧
    (∀ h lo len, s1.collOk l.ctx r = true → freeH h → cSpan r = some (lo, len) → (∀ e, e < 64 → rangeOn x e = true) →
      Answers s1 i s c k q [a] d (err 2)) ∧
    (∀ h e lo len, s1.collOk l.ctx r = true → freeH h → cSpan r = some (lo, len) →
      Lowest 64 (fun e => rangeOn x e = false) e → (s1.slAt n).pending.at? 259 = none →
      Answers (enter (rangeSet x e (BitVec.ofNat 64 (2 ^ 63 + 2 ^ 62 + h)) (BitVec.ofNat 64 lo) (BitVec.ofNat 64 len)) h (some e))
        i s c k q [a] d (BitVec.ofNat 64 h)) ∧
    (∀ h, s1.collOk l.ctx r = true → freeH h → cSpan r = none → (s1.slAt n).pending.at? 259 = none →
      Answers (enter x h none) i s c k q [a] d (BitVec.ofNat 64 h)) ∧
    (∀ h, s1.collOk l.ctx r = true → freeH h → cSpan r = none ∨ (∃ e, e < 64 ∧ rangeOn x e = false) →
      (s1.slAt n).pending.at? 259 ≠ none → s.issue (.core false c k) (apOnly q [a] [d]) = .go →
      ∃ u, exec i s = .next u ∧ Stalled s u (.core false c k) .sync)) ∧
  (∀ s c k q d a, s.who = some (.core false c k) →
    let l := s.lcAt k
    let h := (l.reg false a).toNat
    let x := s.ctxAt l.ctx
    let i := Instr.collStat q d a
    let v (r : Coll) : Word := BitVec.ofNat 64 (r.state * 2 ^ 62 + r.completed % 2 ^ 32)
    (256 ≤ h → Answers s i s c k q [a] d (err 1)) ∧ (h < 256 → x.colls.at? h = none → Answers s i s c k q [a] d 0) ∧
    (∀ r, h < 256 → x.colls.at? h = some r → r.state = 1 → Answers s i s c k q [a] d (v r)) ∧
    (∀ r, h < 256 → x.colls.at? h = some r → r.state ≠ 1 →
      Answers (s.setCtx l.ctx { x with colls := x.colls.del h }) i s c k q [a] d (v r)))

namespace Sys2Proof.Spec

/-! ## The Sluice instructions -/

/-- A word valid in the Sluice cores only, outside their handlers. -/
def sluiceOnly (srcs dsts : List Nat) : Use :=
  { q := Rill.none, e := false, ap := false, ep := false, sl := true, srcs := srcs, dsts := dsts, inTrap := false, unit := 1 }

/-- A Sluice instruction on ga and gb that puts `v` into gd, in the state `s1`. -/
def SlGives (s1 : State) (i : Instr) (s : State) (n : Nat) (srcs : List Nat) (d : Nat) (v : Word) : Prop :=
  GivesFrom s1 i s (.sluice n) (sluiceOnly srcs [d]) d v .next

/-- A Sluice instruction raises `cause` with SADDR `addr`, precisely. -/
def SlTraps (i : Instr) (s : State) (n cause : Nat) (addr : Word) : Prop :=
  SluiceHasHandler s n → ∃ t, exec i s = .next t ∧ SluiceHandlerEntered s t n cause s.cur.pc addr

/-- The address checks of an operand of `n` bytes in SRAM. -/
def SramTraps (i : Instr) (s : State) (core n : Nat) (ga : Word) : Prop :=
  (ga.toNat % n ≠ 0 → SlTraps i s core 2 ga) ∧
  (ga.toNat % n = 0 → 262144 < ga.toNat + n → SlTraps i s core 3 ga)

/-- A record of the event queue as bytes. -/
def recordIn (r : List Word) : List Byte := r.flatMap (fun w => bytesOf 8 w.toNat)

/-- Handle `h` is the lowest free one after the one last allocated (15_sluice.md R286). -/
def NextHandle (x : Sluice) (h : Nat) : Prop :=
  ∃ j, j < 4096 ∧ h = (x.lastHandle + 1 + j) % 4096 ∧ x.transfers.at? h = none ∧
    ∀ i, i < j → x.transfers.at? ((x.lastHandle + 1 + i) % 4096) ≠ none

/-- Flow `f` of a Sluice core with the queue `ps`. -/
def queued (x : Sluice) (f : Nat) (ps : List OutPkt) : Sluice :=
  { x with flowSt := x.flowSt.put f { x.flowSt.atD f FlowSt.fresh with queue := ps } FlowSt.fresh }

/-- What waits on flow `f`. -/
def waiting (x : Sluice) (f : Nat) : List OutPkt := (x.flowSt.atD f FlowSt.fresh).queue

/-- Word `w` of flow `f`, and the flow's V. -/
def flowWord (x : Sluice) (f w : Nat) : Word := x.flows.atD (8 * f + w) 0
def flowOn (x : Sluice) (f : Nat) : Bool := (flowWord x f 0).msb

/-- A Sluice instruction on flow ga: −1 where ga or gb is out of range, −3 for an invalid flow, else `v`, in the state
`s1`. -/
def FlowGives (mk : Nat → Nat → Nat → Instr) (ok : Nat → Prop) (f : Sluice → Nat → Word → Sluice) (v : Sluice → Nat → Word) : Prop :=
  ∀ s n d a b, s.who = some (.sluice n) →
    let x := s.slAt n
    let ga := (x.reg a).toNat
    let gb := x.reg b
    let i := mk d a b
    (512 ≤ ga ∨ ¬ ok gb.toNat → SlGives s i s n [a, b] d (err 1)) ∧
    (ga < 512 → ok gb.toNat → flowOn x ga = false → SlGives s i s n [a, b] d (err 3)) ∧
    (ga < 512 → ok gb.toNat → flowOn x ga = true → SlGives (s.setSl n (f x ga gb)) i s n [a, b] d (v x ga))

/-- Flow `f` sends: valid, not held, with a path and a rate (15_sluice.md R276). -/
def flowSends (x : Sluice) (f : Nat) : Bool :=
  (flowWord x f 0).msb && !(flowWord x f 0).getLsbD 62 && flowWord x f 1 != 0 && (flowWord x f 3 &&& 0x1FFF) != 0

/-- Word `w` of flow `f` is written: its pacing bucket is full, at 64 times 4,372 bytes, when the flow becomes able to send
(R276). -/
def flowPut (x : Sluice) (f w : Nat) (v : Word) : Sluice :=
  let y := { x with flows := x.flows.put (8 * f + w) v 0 }
  if flowSends y f && !flowSends x f then
    { y with flowSt := y.flowSt.put f { y.flowSt.atD f FlowSt.fresh with bucket := 64 * 4372 * 176 } FlowSt.fresh }
  else y

/-- Flow `f` goes out at local port `i` to the peer of connection `c`. -/
def flowNames (x : Sluice) (i : Nat) (c : Conn) (f : Nat) : Prop :=
  (flowWord x f 0).toNat / 2 ^ 60 % 4 = i ∧ (flowWord x f 4).toNat * 2 ^ 64 + (flowWord x f 5).toNat = c.addr ∧
  (flowWord x f 6).toNat % 2 ^ 16 = c.udp ∧ (flowWord x f 0).toNat / 2 ^ 44 % 2 ^ 16 = c.ctx

/-- Port `p` of Sluice core `n` has sent one packet of `b` counted bytes under SA `a`, with the SA's next counter value, which
is not its last one (R271). -/
def Transmitted (s t : State) (n p a b : Nat) (mk : Nat → Sent) : Prop :=
  ∃ k, (s.slAt n).sas.at? a = some k ∧ k.counter + 1 < 2 ^ 64 - 2 ^ 32 ∧
    let s1 := s.setSl n { s.slAt n with sas := (s.slAt n).sas.ins a { k with counter := k.counter + 1 } }
    let s2 := s1.setPort p { s1.portAt p with sent := (s1.portAt p).sent + b }
    t = { s2 with sent := s2.sent ++ [mk k.counter] }

/-- A control packet with operand `arg`, queued behind what waits on flow `f`. -/
def control (x : Sluice) (f op arg : Nat) : Sluice :=
  queued x f (waiting x f ++ [.control (controlHdr op ((flowWord x f 0).toNat / 2 ^ 44 % 2 ^ 16) 0 0 0 arg)])

/-- The next `k` tickets of port `p` are called, in order: the holder of each is answered with a CALL that carries its number
(R277). -/
def called (p : Nat) : Nat → State → State
  | 0, s => s
  | k + 1, s =>
    let y := s.portAt p
    let t := match y.holders[gap y.called y.base]? with
      | some h => s.reply p h.holder (controlHdr 8 h.holder.ctx 0 0 0 y.called)
      | none => s
    called p k (t.setPort p { t.portAt p with called := (y.called + 1) % 2 ^ 32 })

/-- The byte of a bitmap at `va` of Sluice core `n`, and the state with that byte changed: in SRAM, or in the basin grant of
the bound context (15_sluice.md R280, R286). -/
def bitByte (s : State) (n va : Nat) : Option (Byte × (Byte → State)) :=
  let x := s.slAt n
  let o := va - 0x01FFFF0040000000
  let c := s.ctxAt x.ctx
  let pa := 0x1000000000000 + o / 2 ^ 27 * 2 ^ 27 + c.grantBase (o / 2 ^ 27) + o % 2 ^ 27
  if va < 262144 then some (x.sram.atD va 0, fun v => s.setSl n { x with sram := x.sram.put va v 0 })
  else if 0x01FFFF0040000000 ≤ va ∧ va < 0x01FFFF0060000000 ∧ x.bound = true ∧ o % 2 ^ 27 < c.grantSize (o / 2 ^ 27) then
    some (s.rawByte pa, fun v => s.setRaw pa v)
  else none

/-- The address of the byte that holds bit `i` of the bitmap at ga. -/
def bitVa (ga : Word) (i : Nat) : Nat := (ga.toNat + i / 8) % 2 ^ 64

/-- A bitmap instruction on bit gb: gd gets the old bit, and the byte becomes `f` of it and the bit's mask. -/
def BitOp (mk : Nat → Nat → Nat → Instr) (f : Byte → Byte → Byte) : Prop :=
  ∀ s n d a b, s.who = some (.sluice n) →
    let x := s.slAt n
    let gb := (x.reg b).toNat
    let va := bitVa (x.reg a) gb
    let i := mk d a b
    (2 ^ 32 ≤ gb → SlGives s i s n [a, b] d (err 1)) ∧
    (∀ v put, gb < 2 ^ 32 → bitByte s n va = some (v, put) →
      SlGives (put (f v (BitVec.twoPow 8 (gb % 8)))) i s n [a, b] d (if v.getLsbD (gb % 8) then 1 else 0)) ∧
    (gb < 2 ^ 32 → bitByte s n va = none → SlTraps i s n 3 (BitVec.ofNat 64 va))

/-- Bit `i` of the bitmap at ga, where its byte can be reached. -/
def bitOf (s : State) (n : Nat) (ga : Word) (i : Nat) : Option Bool :=
  (bitByte s n (bitVa ga i)).map (fun p => p.1.getLsbD (i % 8))

end Sys2Proof.Spec

/-! ## The Sluice instructions -/

/-- 15_sluice.md R284, R286 and Table 8: `ev.pop` and `ev.peek` write the head record to SRAM and give its type; with an empty
queue the one waits and the other gives 0. -/
def Obligations.EventResults : Prop :=
  (∀ s n d a r rest, s.who = some (.sluice n) →
    let x := s.slAt n
    let ga := x.reg a
    ga.toNat % 32 = 0 → ga.toNat + 32 ≤ 262144 → x.evq = r :: rest →
    SlGives (s.setSl n ({ x with evq := rest }.setSram ga.toNat (recordIn r))) (.evPop d a) s n [a, 0] d
      (r.getD 0 0 &&& 0xFF) ∧
    SlGives (s.setSl n (x.setSram ga.toNat (recordIn r))) (.evPeek d a) s n [a, 0] d (r.getD 0 0 &&& 0xFF)) ∧
  (∀ s n d a, s.who = some (.sluice n) →
    let ga := (s.slAt n).reg a
    ga.toNat % 32 = 0 → ga.toNat + 32 ≤ 262144 → (s.slAt n).evq = [] →
    (∃ t, exec (.evPop d a) s = .next t ∧ Stalled s t (.sluice n) .other) ∧ SlGives s (.evPeek d a) s n [a, 0] d 0) ∧
  (∀ s n d a, s.who = some (.sluice n) →
    SramTraps (.evPop d a) s n 32 ((s.slAt n).reg a) ∧ SramTraps (.evPeek d a) s n 32 ((s.slAt n).reg a)) ∧
  (∀ (x : Sluice) o bs j, (x.setSram o bs).sram.atD j 0 =
    (if h : o ≤ j ∧ j < o + bs.length then bs[j - o]'(by omega) else x.sram.atD j 0) ∧
    x.setSram o bs = { x with sram := (x.setSram o bs).sram })

/-- 15_sluice.md R286, R287: `pkt.send` allocates a transfer and queues its chunks; `pkt.resend` queues the chunks that are not
acknowledged ahead of new ones; each error has its value. -/
def Obligations.TransferResults : Prop :=
  (∀ s n d a b, s.who = some (.sluice n) →
    let x := s.slAt n
    let ga := x.reg a
    let f := (x.reg b).toNat
    let desc := x.sramBytes ga.toNat 64
    let i := Instr.pktSend d a b
    let count := at_ desc 0x24 2
    SramTraps i s n 64 ga ∧
    (ga.toNat % 64 = 0 → ga.toNat + 64 ≤ 262144 →
      let good := f < 512 ∧ s.sendOk x.ctx desc = true
      (¬ good → SlGives s i s n [a, b] d (err 1)) ∧ (good → flowOn x f = false → SlGives s i s n [a, b] d (err 3)) ∧
      (good → flowOn x f = true → (∀ h, h < 4096 → x.transfers.at? h ≠ none) → SlGives s i s n [a, b] d (err 2)) ∧
      (∀ h, good → flowOn x f = true → NextHandle x h →
        SlGives (s.setSl n { queued x f (waiting x f ++ (List.range count).map (fun j => OutPkt.chunk h j false)) with
            transfers := x.transfers.ins h ⟨desc.take 48, f, 1, [], none, none, 0, x.xferCount⟩
            lastHandle := h
            xferCount := x.xferCount + 1 })
          i s n [a, b] d (BitVec.ofNat 64 h)))) ∧
  (∀ (s : State) ctx b, s.sendOk ctx b = true ↔
    1 ≤ at_ b 0x24 2 ∧ 1 ≤ at_ b 0x1E 2 ∧ at_ b 0x1E 2 ≤ 4096 ∧
    at_ b 0x24 2 = (at_ b 8 8 + at_ b 0x1E 2 - 1) / at_ b 0x1E 2 ∧ at_ b 0x18 2 < 4096 ∧ at_ b 0x1A 1 ≤ 2 ∧
    at_ b 0x26 2 = 0 ∧ at_ b 0x30 16 = 0 ∧ s.ackmapOk ctx (at_ b 0x28 8) (at_ b 0x24 2) = true) ∧
  (∀ s n d a b, s.who = some (.sluice n) →
    let x := s.slAt n
    let h := (x.reg a).toNat
    let g := (x.reg b).toNat
    let i := Instr.pktResend d a b
    (2 ^ 32 ≤ g → SlGives s i s n [a, b] d (err 1)) ∧
    (g < 2 ^ 32 → x.transfers.at? h = none → SlGives s i s n [a, b] d (err 4)) ∧
    (∀ t, g < 2 ^ 32 → x.transfers.at? h = some t →
      let ks := ((List.range (max 1 (g / 2 ^ 16))).map (g % 2 ^ 16 + ·)).filter (fun k =>
        decide (k < at_ t.desc 0x24 2) && !(t.chunks.atD k Chunk.fresh).acked && !(t.chunks.atD k Chunk.fresh).gated)
      let again := (waiting x t.flow).takeWhile OutPkt.isRtx
      SlGives (s.setSl n (queued x t.flow (again ++ ks.map (fun k => OutPkt.chunk h k true) ++
          (waiting x t.flow).drop again.length)))
        i s n [a, b] d (BitVec.ofNat 64 ks.length)))

/-- 15_sluice.md R271, R275, R286: `chk.req` answers through the connection that holds the record's index with a CHK-REQ,
`coll.step` adds to a walker's budget and gives the transfers emitted, `port.st` reads a port. An answer is queued on the
lowest flow that goes out at the port to the peer; where no flow does it leaves at once, with the next counter value of the
connection's SA (the model's: log entry 46). -/
def Obligations.PortInstructions : Prop :=
  (∀ (s : State) p (c : Conn) hdr,
    let x := s.slAt (p / 3)
    (∀ f, Lowest 512 (flowNames x (p % 3) c) f →
      s.reply p c hdr = s.setSl (p / 3) (queued x f (waiting x f ++ [.control hdr]))) ∧
    ((∀ f, f < 512 → ¬ flowNames x (p % 3) c f) →
      (∀ k, x.sas.at? c.sa = some k → k.counter + 1 < 2 ^ 64 - 2 ^ 32 →
        Transmitted s (s.reply p c hdr) (p / 3) p c.sa (frameSize 32 - 20) (fun n => .reply p c.addr c.udp c.sa n hdr)) ∧
      (x.sas.at? c.sa = none → s.reply p c hdr = s) ∧
      (∀ k, x.sas.at? c.sa = some k → 2 ^ 64 - 2 ^ 32 ≤ k.counter → s.reply p c hdr = s))) ∧
  (∀ s n d a b, s.who = some (.sluice n) →
    let x := s.slAt n
    let ga := x.reg a
    let g := (x.reg b).toNat
    let r := x.sramBytes ga.toNat 32
    let port := at_ r 1 1
    let idx := at_ r 16 2 % 2 ^ 12
    let good := 1 ≤ g ∧ g < 2 ^ 16 ∧ at_ r 0 1 = 4 ∧ port / 3 = n
    let i := Instr.chkReq d a b
    SramTraps i s n 32 ga ∧
    (ga.toNat % 32 = 0 → ga.toNat + 32 ≤ 262144 →
      (¬ good ∨ (s.portAt port).conns.at? idx = none → SlGives s i s n [a, b] d (err 1)) ∧
      (∀ c, good → (s.portAt port).conns.at? idx = some c →
        SlGives (s.reply port c (controlHdr 3 c.ctx 0 (at_ r 12 2) (at_ r 8 2) g)) i s n [a, b] d 0))) ∧
  (∀ s n d a b, s.who = some (.sluice n) →
    let x := s.slAt n
    let h := (x.reg a).toNat
    let g := (x.reg b).toNat
    let c := s.ctxAt x.ctx
    let i := Instr.collStep d a b
    let serves (r : Coll) : Prop := x.bound = true ∧ r.state = 1 ∧ cPort r.record / 3 = n
    (2 ^ 16 ≤ g → SlGives s i s n [a, b] d (err 1)) ∧
    (g < 2 ^ 16 → (∀ r, c.colls.at? h = some r → ¬ serves r) → SlGives s i s n [a, b] d (err 4)) ∧
    (∀ r, g < 2 ^ 16 → c.colls.at? h = some r → serves r →
      SlGives (s.setCtx x.ctx { c with colls := c.colls.ins h { r with budget := r.budget + g } })
        i s n [a, b] d (BitVec.ofNat 64 r.emitted))) ∧
  (∀ s n d a b, s.who = some (.sluice n) →
    let x := s.slAt n
    let p := (x.reg a).toNat
    let g := (x.reg b).toNat
    let y := s.portAt (3 * n + p)
    let i := Instr.portSt d a b
    (2 < p ∨ 3 < g → SlGives s i s n [a, b] d (err 1)) ∧
    (p ≤ 2 → g = 0 → SlGives s i s n [a, b] d (BitVec.ofNat 64 ((if y.up then 1 else 0) + (if y.slow then 2 else 0) +
      (if s.fencedPorts.contains (3 * n + p) then 4 else 0)))) ∧
    (p ≤ 2 → g = 1 → SlGives s i s n [a, b] d (BitVec.ofNat 64 (x.unacked p))) ∧
    (p ≤ 2 → g = 2 → SlGives s i s n [a, b] d (BitVec.ofNat 64 y.sent)) ∧
    (p ≤ 2 → g = 3 → SlGives s i s n [a, b] d (BitVec.ofNat 64 y.received)))

/-- 15_sluice.md R286: the bitmap instructions act on one bit at its home; `bmp.scan` gives the first clear bit of a span, or
its end. -/
def Obligations.BitmapResults : Prop :=
  BitOp .bmpSet (fun v m => v ||| m) ∧ BitOp .bmpClr (fun v m => v &&& ~~~ m) ∧ BitOp .bmpTest (fun v _ => v) ∧
  (∀ s n d a b, s.who = some (.sluice n) →
    let x := s.slAt n
    let first := (x.reg b).toNat % 2 ^ 32
    let last := (x.reg b).toNat / 2 ^ 32
    let i := Instr.bmpScan d a b
    (last ≤ first → SlGives s i s n [a, b] d (BitVec.ofNat 64 last)) ∧
    (∀ m, first ≤ m → m < last → bitOf s n (x.reg a) m = some false →
      (∀ j, first ≤ j → j < m → bitOf s n (x.reg a) j = some true) → SlGives s i s n [a, b] d (BitVec.ofNat 64 m)) ∧
    (first < last → (∀ j, first ≤ j → j < last → bitOf s n (x.reg a) j = some true) →
      SlGives s i s n [a, b] d (BitVec.ofNat 64 last)) ∧
    (∀ m, first ≤ m → m < last → bitOf s n (x.reg a) m = none →
      (∀ j, first ≤ j → j < m → bitOf s n (x.reg a) j = some true) →
      SlTraps i s n 3 (BitVec.ofNat 64 (bitVa (x.reg a) m))))

/-- 15_sluice.md R275, R277, R286: timers, the fields of a flow entry, pause and Weir control packets, and ticket calls. -/
def Obligations.FlowInstructions : Prop :=
  (∀ s n d a b, s.who = some (.sluice n) →
    let x := s.slAt n
    let m := (x.reg a).toNat
    let g := (x.reg b).toNat
    let was : Word := if (x.timers.at? m).isSome then 1 else 0
    (256 ≤ m ∨ g % 2 ^ 40 = 0 → SlGives s (.tmrSet d a b) s n [a, b] d (err 1)) ∧
    (m < 256 → g % 2 ^ 40 ≠ 0 → SlGives (s.setSl n { x with timers := x.timers.ins m (g % 2 ^ 40, g / 2 ^ 40) })
      (.tmrSet d a b) s n [a, b] d was) ∧
    (256 ≤ m → SlGives s (.tmrClr d a) s n [a, 0] d (err 1)) ∧
    (m < 256 → SlGives (s.setSl n { x with timers := x.timers.del m }) (.tmrClr d a) s n [a, 0] d was)) ∧
  FlowGives .rateSet (fun g => g ≤ 8000)
    (fun x f g => flowPut x f 3 ((flowWord x f 3 &&& ~~~ 0x1FFF) ||| g)) (fun x f => flowWord x f 3 &&& 0x1FFF) ∧
  FlowGives .pathSet (fun _ => True) (fun x f g => flowPut x f 1 g) (fun x f => flowWord x f 1) ∧
  FlowGives .rtoSet (fun g => g < 2 ^ 40)
    (fun x f g => flowPut x f 2 ((flowWord x f 2 &&& ~~~ 0xFFFFFFFFFF) ||| g)) (fun x f => flowWord x f 2 &&& 0xFFFFFFFFFF) ∧
  FlowGives .pauseSnd (fun g => g ≤ 1) (fun x f g => control x f (4 + g.toNat) 0) (fun _ _ => 0) ∧
  FlowGives .weirTake (fun g => 1 ≤ g ∧ g ≤ 2 ^ 40) (fun x f g => control x f 6 ((g.toNat + 4095) / 4096)) (fun _ _ => 0) ∧
  FlowGives .weirDone (fun g => g < 2 ^ 32) (fun x f g => control x f 9 g.toNat) (fun _ _ => 0) ∧
  (∀ s n d a b, s.who = some (.sluice n) →
    let p := 3 * n + ((s.slAt n).reg a).toNat
    let g := ((s.slAt n).reg b).toNat
    let y := s.portAt p
    let i := Instr.weirCall d a b
    let k := if gap g y.called < 2 ^ 31 then min (gap g y.called + 1) (gap y.next y.called) else 0
    (3 ≤ ((s.slAt n).reg a).toNat ∨ 2 ^ 32 ≤ g → SlGives s i s n [a, b] d (err 1)) ∧
    (((s.slAt n).reg a).toNat < 3 → g < 2 ^ 32 → SlGives (called p k s) i s n [a, b] d (BitVec.ofNat 64 k)))

namespace Sys2Proof.Spec

/-! ## Vector syllables -/

/-- Uses of a vector syllable: the V slot of the EP (02_encoding.md R40, 11_vector_arith.md R212). -/
def vectorUse (q : Rill) (e : Bool) (srcs dsts : List Nat) : Use :=
  { q := q, e := e, ap := false, ep := true, sl := false, srcs := srcs, dsts := dsts, inTrap := false, unit := 2 }

/-- Element `x` of a region of `l` passes the checks of 11_vector_arith.md Table 3: an aligned base, bits inside the window,
allotted pages, bytes in no range; and its pages are present. -/
def Reachable (s : State) (l : LCore) (x : El) : Prop :=
  x.mis = false ∧ 0 ≤ x.pos ∧ x.pos + x.b ≤ 2 ^ 24 ∧
  (∀ v, v = x.off / 16384 ∨ v = (x.off + x.len - 1) / 16384 → l.lsAllotted v = true ∧ l.lsPresent v = true) ∧
  s.inRange l.ctx (0x01FFFF0000000000 + x.off) x.len = false

/-- Region `d` of `l`, and its number of elements. -/
def rg (l : LCore) (d : Nat) : Region := l.region d
def cnt (l : LCore) (d : Nat) : Nat := (l.region d).count0 * (l.region d).count1

/-- The regions `ds` of `l` hold type `ty`. -/
abbrev typed (l : LCore) (ty : Nat) (ds : List Nat) : Prop := ∀ d ∈ ds, (l.region d).ty = ty

/-- `n` elements of the regions `ds` fit in one beat (R208). -/
abbrev oneBeat (l : LCore) (ds : List Nat) (n : Nat) : Prop := ∀ d ∈ ds, n * tyBits (l.region d).ty ≤ 4096

/-- The beat from index `lo` to `hi` is as long as a beat over the regions `ds` can be, or the last one. -/
abbrev isBeat (l : LCore) (ds : List Nat) (lo hi last : Nat) : Prop :=
  lo < hi ∧ hi ≤ last ∧ oneBeat l ds (hi - lo) ∧ (hi = last ∨ ¬ oneBeat l ds (hi + 1 - lo))

/-- The fate of tiny results (09_numbers.md R178). -/
def tiny (l : LCore) : Sub := if l.fpmode.getLsbD 0 then .flush else .assist

/-- The flags of results, joined. -/
def joined (rs : List RRes) : Nat := rs.foldl (fun f r => f ||| r.flags) 0

/-- Logical core `l` after a committed step that counts `n`: progress, and the pending numeric status of syllables that have
one (R211, 09_numbers.md R183). -/
def stepped (l : LCore) (num : Bool) (n flags : Nat) (nan : Bool) (mag : Nat) (pos : Option Nat) : LCore :=
  { l with
    vdone := l.vdone + n
    vpos := pos
    pendV := if num then ⟨true, l.pendV.flags ||| flags, l.pendV.nan || nan, max l.pendV.mag mag⟩ else l.pendV
    epBusy := true
    dlcnt := 0
    pcs := (l.count 4 1).pcs }

/-- The next step of the vector syllable `i`, of `work` steps in all: no assist ruling is owed to the unit and the elements
`els` can be reached. It leaves memory as `s1` has it, counts `n` and has the numeric results `flags`, `nan` and `mag`; and
with the last one the syllable retires, and queues the value `push` for q6. -/
def StepIs (i : Instr) (u : Use) (s : State) (c k work : Nat) (els : List El) (s1 : State) (num : Bool) (n flags : Nat)
    (nan : Bool) (mag : Nat) (pos : Option Nat) (push : Option Word) : Prop :=
  let l := s.lcAt k
  s.who = some (.core true c k) → (∀ r, l.assist ≠ some (2, r)) → l.vdone < work → (∀ x ∈ els, Reachable s l x) →
  (∀ v, i.vop = some v → s.vstep k v = .ok s1 n flags nan mag pos) ∧
  (work ≤ l.vdone + n →
    let s2 := s1.setLc k (stepped (s1.lcAt k) num n flags nan mag pos)
    GivesFrom (match push with
        | some x => { s2 with cur := { s2.cur with regWrite := some (30, x) } }
        | none => s2) i s (.core true c k) u 0 0 .next)

/-- A step that copies bits: no numeric result. -/
def CopyStep (i : Instr) (u : Use) (s : State) (c k work : Nat) (els : List El) (ws : List (El × Nat)) (n : Nat)
    (pos : Option Nat) (push : Option Word) : Prop :=
  StepIs i u s c k work els (s.writeEls (s.lcAt k) ws) false n 0 false 0 pos push

/-- The indices of a beat. -/
def upTo (lo hi : Nat) : List Nat := (List.range (hi - lo)).map (lo + ·)

/-- An element-wise syllable (R206, R208): in a beat, element `n` of dd gets `f` of the source elements `n`, or of the edge
value of a source that has fewer, and of its own old value; where `f` has no result it keeps its value. The beat reads all
of its elements before it writes. -/
def Lanes (i : Instr) (q : Rill) (e : Bool) (g : List Nat) (d : Nat) (srcs : List (Nat × Nat)) (num : Bool)
    (types : LCore → Prop) (f : State → LCore → Sub → List Nat → Nat → Option RRes) (amax : Option Nat) : Prop :=
  ∀ (s : State) c k hi,
    let l := s.lcAt k
    let dr := rg l d
    let arg (n : Nat) := srcs.map (fun p => if n < cnt l p.1 then s.readEl l ((rg l p.1).el n) else p.2)
    let res (n : Nat) := f s l (tiny l) (arg n) (s.readEl l (dr.el n))
    let ns := upTo l.vdone hi
    let mags := match amax, srcs with
      | some ty, (a, _) :: _ =>
        (ns.filter (fun n => decide (n < cnt l a))).map (fun n => amaxOf ty (s.readEl l ((rg l a).el n)))
      | _, _ => []
    i.wf = true → types l → isBeat l (d :: srcs.map Prod.fst) l.vdone hi (cnt l d) →
    (∀ n r, n ∈ ns → res n = some r → r.assist = false) →
    StepIs i (vectorUse q e g []) s c k (cnt l d)
      (ns.flatMap (fun n => dr.el n :: (srcs.filter (fun p => decide (n < cnt l p.1))).map (fun p => (rg l p.1).el n)))
      (s.writeEls l (ns.filterMap (fun n => (res n).map (fun r => (dr.el n, r.bits)))))
      num (hi - l.vdone) (joined (ns.filterMap res)) (mags.any Prod.fst) ((mags.map Prod.snd).foldl max 0) none none

/-- The types of arithmetic: the floats, and the integers of 8 bits or more (R207). -/
abbrev arithmetic (ty : Nat) : Prop := ty ≤ 5 ∨ (8 ≤ ty ∧ ty ≤ 14)

/-- The types with a sign. -/
abbrev signedType (ty : Nat) : Prop := ty ≤ 5 ∨ (8 ≤ ty ∧ ty ≤ 11)

/-- An operation takes the rounding mode of code `rm`: an integer type takes only the first (R207). -/
abbrev modeOk (rm ty : Nat) : Prop := arithmetic ty ∧ (rm = 0 ∨ ty ≤ 5)

/-- The lowest and the highest value of a type, for edge elements (R206, Table 1). -/
def lowest (ty : Nat) : Nat :=
  [0xFFF0000000000000, 0xFF800000, 0xFF80, 0xFC00, 0xFE, 0xFC, 8, 3, 2 ^ 63, 2 ^ 31, 2 ^ 15, 2 ^ 7, 0, 0, 0, 0].getD ty 0
def highest (ty : Nat) : Nat :=
  [0x7FF0000000000000, 0x7F800000, 0x7F80, 0x7C00, 0x7E, 0x7C, 7, 1, 2 ^ 63 - 1, 2 ^ 31 - 1, 2 ^ 15 - 1, 2 ^ 7 - 1,
    2 ^ 32 - 1, 2 ^ 16 - 1, 2 ^ 8 - 1, 1].getD ty 0

/-- dd[n] ← f(da[n], db[n], dd[n]) on regions of one type. -/
def Binary (mk : Rill → Bool → Nat → Nat → Nat → Instr) (ty edge : Nat) (num : Bool) (ok : Prop)
    (f : Sub → Nat → Nat → Nat → RRes) : Prop :=
  ∀ q e d a b, ok → Lanes (mk q e d a b) q e [] d [(a, edge), (b, edge)] num (fun l => typed l ty [d, a, b])
    (fun _ _ sub xs c => some (f sub (xs.getD 0 0) (xs.getD 1 0) c)) none

/-- dd[n] ← f(da[n]). -/
def Unary (mk : Rill → Bool → Nat → Nat → Instr) (ty : Nat) (num : Bool) (ok : Prop) (f : Sub → Nat → RRes) : Prop :=
  ∀ q e d a, ok → Lanes (mk q e d a) q e [] d [(a, 0)] num (fun l => typed l ty [d, a])
    (fun _ _ sub xs _ => some (f sub (xs.getD 0 0))) none

/-- dd[n] ← f(da[n], scalar, dd[n]). -/
def WithScalar (mk : Rill → Bool → Nat → Nat → Nat → Instr) (ty edge : Nat) (f : Sub → Nat → Nat → Nat → RRes) : Prop :=
  ∀ q e d a g, arithmetic ty → Lanes (mk q e d a g) q e [g] d [(a, edge)] (decide (ty ≤ 5)) (fun l => typed l ty [d, a])
    (fun _ l sub xs c => some (f sub (xs.getD 0 0) ((l.reg true g).toNat % 2 ^ tyBits ty) c)) none

/-- A comparison of da[n] and db[n] into bit n of dd (R215). -/
def Compares (mk : Rill → Bool → Nat → Nat → Nat → Instr) (ty : Nat) (op : Cmp) : Prop :=
  ∀ q e d a b, arithmetic ty → Lanes (mk q e d a b) q e [] d [(a, 0), (b, 0)] (decide (ty ≤ 5))
    (fun l => typed l ty [a, b] ∧ typed l 15 [d]) (fun _ _ _ xs _ => some (cmpE op ty (xs.getD 0 0) (xs.getD 1 0))) none

/-- The pattern `x` with no flags. -/
def bits (x : Nat) : RRes := ⟨x, 0, false⟩

/-- A reduction's step: element `n` of dd gets `f` of the row `n` of da. -/
def Reduces (mk : Rill → Bool → Nat → Nat → Instr) (ty : Nat) (ok : Prop) (dest : Nat → Prop)
    (f : Nat → Sub → List Nat → RRes) : Prop :=
  ∀ (s : State) c k q e d a,
    let l := s.lcAt k
    let n := l.vdone
    let row := (List.range (rg l a).count0).map (fun e0 => (rg l a).at2 e0 n)
    let r := f (rg l d).ty (tiny l) (row.map (s.readEl l))
    ok → (mk q e d a).wf = true → typed l ty [a] → dest (rg l d).ty → (rg l d).ty < 16 → cnt l d = (rg l a).count1 →
    r.assist = false →
    StepIs (mk q e d a) (vectorUse q e [] []) s c k (cnt l d) ((rg l d).el n :: row)
      (s.writeEls l [((rg l d).el n, r.bits)]) (decide (ty ≤ 5)) 1 r.flags false 0 none none

/-- A scan's step: the first element of a row is copied; another is `f` of the one before it in dd and of its source. -/
def Scans (mk : Rill → Bool → Nat → Nat → Instr) (ty : Nat) (num : Bool) (f : Sub → Nat → Nat → RRes) (first : Nat → RRes) : Prop :=
  ∀ (s : State) c k q e d a,
    let l := s.lcAt k
    let n := l.vdone
    let x := s.readEl l ((rg l a).el n)
    let start := n % (rg l d).count0 = 0
    let r := if start then first x else f (tiny l) (s.readEl l ((rg l d).el (n - 1))) x
    ty ∈ [0, 1, 8, 9, 12] → (mk q e d a).wf = true → typed l ty [d, a] → (rg l d).count0 = (rg l a).count0 →
    (rg l d).count1 = (rg l a).count1 → r.assist = false →
    StepIs (mk q e d a) (vectorUse q e [] []) s c k (cnt l d)
      ([(rg l a).el n, (rg l d).el n] ++ (if start then [] else [(rg l d).el (n - 1)]))
      (s.writeEls l [((rg l d).el n, r.bits)]) (num && decide (ty ≤ 5)) 1 r.flags false 0 none none

/-- The validity region of destination `d` (12_vector_data.md R226): type .b1, with at least as many elements. -/
def validity (d : Nat) : Nat := (d + 1) % 16
abbrev hasValidity (l : LCore) (d : Nat) : Prop := typed l 15 [validity d] ∧ cnt l d ≤ cnt l (validity d)

/-- A cross-lane beat (R225 to R227): element `n` of dd gets the element that `pick n` names, with its validity bit. An element
beyond da reads +0. The elements `first` hold indices. -/
def Crosses (i : Instr) (q : Rill) (e : Bool) (g : List Nat) (d : Nat) (ds : List Nat) (types : LCore → Prop)
    (first : LCore → Nat → List El) (pick : State → LCore → Nat → Option El × Bool) : Prop :=
  ∀ (s : State) c k hi,
    let l := s.lcAt k
    let ns := upTo l.vdone hi
    let dv := rg l (validity d)
    i.wf = true → types l → hasValidity l d → isBeat l ds l.vdone hi (cnt l d) →
    CopyStep i (vectorUse q e g []) s c k (cnt l d)
      (ns.flatMap (fun n => first l n ++ [(rg l d).el n, dv.el n] ++ (pick s l n).1.toList))
      (ns.flatMap (fun n =>
        [((rg l d).el n, match (pick s l n).1 with
            | some x => s.readEl l x
            | none => 0), (dv.el n, if (pick s l n).2 then 1 else 0)]))
      (hi - l.vdone) none none

/-- Element `n` of a region, and element (e0, e1), where it has one. -/
def own (r : Region) (n : Nat) : Option El := if n < r.count0 * r.count1 then some (r.el n) else none
def own2 (r : Region) (e0 e1 : Nat) : Option El := if e0 < r.count0 ∧ e1 < r.count1 then some (r.at2 e0 e1) else none

/-- The number of set bits of region `b` below `n`. -/
def rank (s : State) (l : LCore) (b n : Nat) : Nat :=
  ((List.range n).filter (fun j => s.readEl l ((rg l b).el j) == 1)).length

/-- Row `r` ranks before row `t` in column `x` (R230): by score, then by number; NaNs last. -/
def Ranks (ty : Nat) (x : Nat → Nat) (r t : Nat) : Prop :=
  match tyFmt ty with
  | some f =>
    let a := f.value (x r)
    let b := f.value (x t)
    if a.isNan then b.isNan = true ∧ r < t
    else b.isNan = true ∨ FV.lt b a = true ∨ (FV.lt a b = false ∧ r < t)
  | none => tyVal ty (x t) < tyVal ty (x r) ∨ (tyVal ty (x r) = tyVal ty (x t) ∧ r < t)

/-- One step of a vector atomic (R235 to R237): the elements `ops` are the operand, the target of `n` bytes at `va` becomes
`f` of itself and them, and `dst` gets the old value's parts; the target is performed at its home, as `AmoHome` says. -/
def AmoStep (i : Instr) (q : Rill) (e : Bool) (g : Nat) (s : State) (c k work : Nat) (ops dst : List El) (va : Word) (n : Nat)
    (f : List Nat → Nat → Nat) (parts : Nat → List Nat) : Prop :=
  let l := s.lcAt k
  let ys := ops.map (s.readEl l)
  (∀ pa s1, AmoHome s (.core true c k) va.toNat n pa s1 →
    let old := ofBytes (s.physBytes pa n)
    StepIs i (vectorUse q e [g] []) s c k work (ops ++ dst)
      ((s1.setPhyss pa (bytesOf n (f ys old))).writeEls l (dst.zip (parts old))) false 1 0 false 0 none none) ∧
  ((∀ x ∈ ops ++ dst, Reachable s l x) → ∀ v, i.vop = some v →
    let raises (cause : Nat) : Prop := s.vstep k v = .fault cause va false
    (0x01FFFF0000000000 ≤ va.toNat → va.toNat < 0x01FFFF0040000000 ∨ 0x01FFFF0060000000 ≤ va.toNat → raises 3) ∧
    (∀ cause, va.toNat < 0x01FFFF0000000000 → s.walk l.ctx va.toNat = .fault cause → raises cause) ∧
    (∀ pa p x, Paged s l.ctx va.toNat pa p x →
      x.getLsbD 2 = false ∨ x.getLsbD 3 = false ∨ x &&& ((3 : Word) <<< 56) ≠ 0 → raises 3))

end Sys2Proof.Spec

/-! ## Vector instructions -/

/-- 11_vector_arith.md R205 and 06_rotator.md R117: an element of a region lies at its bit position; writing it changes its own
bits and no other, and reading it gives what was written. -/
def Obligations.ElementAccess : Prop :=
  ∀ (s : State) (l : LCore) (r : Region) e0 e1 v, r.ty < 16 → 0 ≤ (r.at2 e0 e1).pos → (r.at2 e0 e1).mis = false →
    let x := r.at2 e0 e1
    let b := tyBits r.ty
    let t := s.writeEl l x v
    x.pos = 8 * (r.base : Int) + b * (e0 * r.stride0 + e1 * r.stride1) ∧
    t = { s with mem := t.mem } ∧ t.readEl l x = v % 2 ^ b ∧
    (∀ p, (∀ j, j < x.len → p ≠ l.lsPa (x.off + j)) → t.rawByte p = s.rawByte p) ∧
    (b < 8 → ∀ j : Nat, j < 8 → (j : Int) < x.pos % 8 ∨ x.pos % 8 + b ≤ j →
      (t.rawByte (l.lsPa x.off)).getLsbD j = (s.rawByte (l.lsPa x.off)).getLsbD j)

/-- 11_vector_arith.md R207 to R209, R213, R214: the arithmetic, minimum and maximum, absolute value and negation of each element; the functions of one
element are those of statement ElementFunctions. -/
def Sys2Proof.Parts.VectorArithmetic : Prop :=
  (∀ rm ty, Binary (fun q e d a b => .vadd q e rm d a b ty) ty 0 (decide (ty ≤ 5)) (modeOk rm ty)
    (fun sub x y _ => addE ty (RMode.ofCode rm) sub x y)) ∧
  (∀ rm ty, Binary (fun q e d a b => .vsub q e rm d a b ty) ty 0 (decide (ty ≤ 5)) (modeOk rm ty)
    (fun sub x y _ => subE ty (RMode.ofCode rm) sub x y)) ∧
  (∀ rm ty, Binary (fun q e d a b => .vmul q e rm d a b ty) ty 0 (decide (ty ≤ 5)) (modeOk rm ty)
    (fun sub x y _ => mulE ty (RMode.ofCode rm) sub x y)) ∧
  (∀ rm ty, Binary (fun q e d a b => .vmac q e rm d a b ty) ty 0 (decide (ty ≤ 5)) (modeOk rm ty)
    (fun sub x y c => macE ty (RMode.ofCode rm) sub x y c)) ∧
  (∀ ty, Binary (fun q e d a b => .vmin q e d a b ty) ty (highest ty) (decide (ty ≤ 5)) (arithmetic ty)
    (fun _ x y _ => minmaxE false ty x y)) ∧
  (∀ ty, Binary (fun q e d a b => .vmax q e d a b ty) ty (lowest ty) (decide (ty ≤ 5)) (arithmetic ty)
    (fun _ x y _ => minmaxE true ty x y)) ∧
  (∀ ty, Unary (fun q e d a => .vabs q e d a ty) ty false (signedType ty) (fun _ x => absE ty x)) ∧
  (∀ ty, Unary (fun q e d a => .vneg q e d a ty) ty false (signedType ty) (fun _ x => negE ty x)) ∧
  (∀ ty, WithScalar (fun q e d a g => .vadds q e d a g ty) ty 0 (fun sub x y _ => addE ty .rne sub x y)) ∧
  (∀ ty, WithScalar (fun q e d a g => .vmuls q e d a g ty) ty 0 (fun sub x y _ => mulE ty .rne sub x y)) ∧
  (∀ ty, WithScalar (fun q e d a g => .vmacs q e d a g ty) ty 0 (fun sub x y c => macE ty .rne sub x y c)) ∧
  (∀ ty, WithScalar (fun q e d a g => .vmins q e d a g ty) ty (highest ty) (fun _ x y _ => minmaxE false ty x y)) ∧
  (∀ ty, WithScalar (fun q e d a g => .vmaxs q e d a g ty) ty (lowest ty) (fun _ x y _ => minmaxE true ty x y))

/-- 11_vector_arith.md R215 to R219, R221 and 12_vector_data.md R232, R233: comparison, selection, integer and bit operations, conversion,
immediates, fills, moves, the transcendental operations and the stop-token test of each element. -/
def Sys2Proof.Parts.VectorElements : Prop :=
  (∀ ty, Compares (fun q e d a b => .vcmpEq q e d a b ty) ty .eq) ∧
  (∀ ty, Compares (fun q e d a b => .vcmpNe q e d a b ty) ty .ne) ∧
  (∀ ty, Compares (fun q e d a b => .vcmpLt q e d a b ty) ty .lt) ∧
  (∀ ty, Compares (fun q e d a b => .vcmpLe q e d a b ty) ty .le) ∧
  (∀ q e d a b ty, Lanes (.vsel q e d a b ty) q e [] d [(a, 0), (b, 0)] false (fun l => typed l ty [d, a] ∧ typed l 15 [b])
    (fun _ _ _ xs _ => if xs.getD 1 0 = 1 then some (bits (xs.getD 0 0)) else none) none) ∧
  (∀ ty, Binary (fun q e d a b => .vand q e d a b ty) ty 0 false (8 ≤ ty) (fun _ x y _ => bits (x &&& y))) ∧
  (∀ ty, Binary (fun q e d a b => .vor q e d a b ty) ty 0 false (8 ≤ ty) (fun _ x y _ => bits (x ||| y))) ∧
  (∀ ty, Binary (fun q e d a b => .vxor q e d a b ty) ty 0 false (8 ≤ ty) (fun _ x y _ => bits (x ^^^ y))) ∧
  (∀ ty, Unary (fun q e d a => .vnot q e d a ty) ty false (8 ≤ ty) (fun _ x => bits (2 ^ tyBits ty - 1 - x))) ∧
  (∀ ty, Binary (fun q e d a b => .vshl q e d a b ty) ty 0 false (8 ≤ ty ∧ ty ≤ 14)
    (fun _ x y _ => bits (if y < tyBits ty then x * 2 ^ y % 2 ^ tyBits ty else 0))) ∧
  (∀ ty, Binary (fun q e d a b => .vshr q e d a b ty) ty 0 false (8 ≤ ty ∧ ty ≤ 14)
    (fun _ x y _ => bits (if y < tyBits ty then x / 2 ^ y else 0))) ∧
  (∀ ty, Binary (fun q e d a b => .vsra q e d a b ty) ty 0 false (8 ≤ ty ∧ ty ≤ 11) (fun _ x y _ => sraE ty x y)) ∧
  (∀ ty, Binary (fun q e d a b => .vmulh q e d a b ty) ty 0 false (8 ≤ ty ∧ ty ≤ 14) (fun _ x y _ => mulhE ty x y)) ∧
  (∀ rm ty, Unary (fun q e d a => .vexp2 q e rm d a ty) ty true (1 ≤ ty ∧ ty ≤ 3)
    (fun sub x => transE exp2V ty (RMode.ofCode rm) sub x)) ∧
  (∀ rm ty, Unary (fun q e d a => .vlog2 q e rm d a ty) ty true (1 ≤ ty ∧ ty ≤ 3)
    (fun sub x => transE log2V ty (RMode.ofCode rm) sub x)) ∧
  (∀ rm ty, Unary (fun q e d a => .vrcp q e rm d a ty) ty true (1 ≤ ty ∧ ty ≤ 3)
    (fun sub x => transE rcpV ty (RMode.ofCode rm) sub x)) ∧
  (∀ rm ty, Unary (fun q e d a => .vrsqrt q e rm d a ty) ty true (1 ≤ ty ∧ ty ≤ 3)
    (fun sub x => transE rsqrtV ty (RMode.ofCode rm) sub x)) ∧
  (∀ q e d a m g h sat, g ≠ h → g ≠ 15 → h ≠ 15 →
    Lanes (.vcvt q e d a m g h sat) q e [] d [(a, 0)] true (fun l => typed l g [d] ∧ typed l h [a])
      (fun _ _ sub xs _ => some (convertE h g (RMode.ofCode m) sub (sat == 1) (xs.getD 0 0)))
      (if 2 ≤ g ∧ g ≤ 5 then some h else none)) ∧
  (∀ q e d imm, Lanes (.vseti q e d imm) q e [] d [] false (fun l => (rg l d).ty < 16)
    (fun _ l _ _ _ => some (bits (immInt (rg l d).ty imm))) none) ∧
  (∀ q e d imm, Lanes (.vsetf q e d imm) q e [] d [] false (fun l => (rg l d).ty < 15 ∧ (rg l d).ty ≠ 7)
    (fun _ l _ _ _ => some (bits (immFloat (rg l d).ty imm))) none) ∧
  (∀ q e d g ty, Lanes (.vfill q e d g ty) q e [g] d [] false (fun l => typed l ty [d])
    (fun _ l _ _ _ => some (bits ((l.reg true g).toNat % 2 ^ tyBits ty))) none) ∧
  (∀ ty, Unary (fun q e d a => .vmov q e d a ty) ty false True (fun _ x => bits x)) ∧
  (∀ q e d a b, Lanes (.vstop q e d a b) q e [] d [(a, 0), (b, 0)] false (fun l => typed l 9 [a] ∧ (typed l 9 [b] ∨ typed l 13 [b]) ∧ typed l 15 [d])
    (fun s l _ xs _ =>
      let token := xs.getD 0 0
      let n := xs.getD 1 0
      let w0 := (s.seqWord n 0).toNat
      some (bits (if n < 4096 ∧ w0 % 2 ^ 16 = l.ctx ∧ w0 / 2 ^ 62 = 2 ∧
          (∃ j, j < 16 ∧ j < w0 / 2 ^ 51 % 32 ∧ (s.seqWord n (4 + j / 2)).toNat / 2 ^ (32 * (j % 2)) % 2 ^ 32 = token)
        then 1 else 0))) none)

/-- Two parts: VectorArithmetic and VectorElements.

11_vector_arith.md R207 to R209, R213, R214: the arithmetic, minimum and maximum, absolute value and negation of each element; the functions of one
element are those of statement ElementFunctions.

11_vector_arith.md R215 to R219, R221 and 12_vector_data.md R232, R233: comparison, selection, integer and bit operations, conversion,
immediates, fills, moves, the transcendental operations and the stop-token test of each element. -/
def Obligations.VectorElements : Prop := Parts.VectorArithmetic ∧ Parts.VectorElements


/-- 09_numbers.md R173 and 11_vector_arith.md R213 to R215: the functions of one element. Integers wrap modulo 2^b; minimum and maximum and the comparisons
order them by their signedness; a NaN first operand of a float type gives the canonical quiet NaN, and NV (16 among the flags) where an operand is signalling. -/
def Obligations.ElementFunctions : Prop :=
  (∀ ty rm sub x y c, 8 ≤ ty → ty ≤ 14 →
    addE ty rm sub x y = bits ((x + y) % 2 ^ tyBits ty) ∧ mulE ty rm sub x y = bits (x * y % 2 ^ tyBits ty) ∧
    macE ty rm sub x y c = bits ((x * y + c) % 2 ^ tyBits ty) ∧
    (x < 2 ^ tyBits ty → y < 2 ^ tyBits ty →
      (subE ty rm sub x y).bits < 2 ^ tyBits ty ∧ ((subE ty rm sub x y).bits + y) % 2 ^ tyBits ty = x ∧
      minmaxE false ty x y = bits (if tyVal ty y < tyVal ty x then y else x) ∧
      minmaxE true ty x y = bits (if tyVal ty x < tyVal ty y then y else x) ∧
      (cmpE .eq ty x y).bits = (if x = y then 1 else 0) ∧
      (cmpE .lt ty x y).bits = (if tyVal ty x < tyVal ty y then 1 else 0))) ∧
  (∀ ty x, ty ∈ [9, 10, 11] → x < 2 ^ tyBits ty →
    tyVal ty x = if x < 2 ^ (tyBits ty - 1) then (x : Int) else (x : Int) - 2 ^ tyBits ty) ∧
  (∀ ty x y, 8 ≤ ty → ty ≤ 11 → x < 2 ^ tyBits ty →
    sraE ty x y = bits ((BitVec.ofNat (tyBits ty) x).sshiftRight y).toNat) ∧
  (∀ ty x y, 8 ≤ ty → ty ≤ 14 → mulhE ty x y = bits (tyPat ty (tyVal ty x * tyVal ty y / 2 ^ tyBits ty))) ∧
  (∀ ty f rm sub x y c, tyFmt ty = some f → (f.value x).isNan = true →
    let flag (b : Bool) : Nat := if b then 16 else 0
    addE ty rm sub x y = ⟨f.nanBits, flag ((f.value x).isSig || (f.value y).isSig), false⟩ ∧
    mulE ty rm sub x y = ⟨f.nanBits, flag ((f.value x).isSig || (f.value y).isSig), false⟩ ∧
    macE ty rm sub x y c = ⟨f.nanBits, flag ((f.value x).isSig || (f.value y).isSig || (f.value c).isSig), false⟩ ∧
    (∀ big, minmaxE big ty x y = ⟨f.nanBits, flag ((f.value x).isSig || (f.value y).isSig), false⟩) ∧
    (cmpE .eq ty x y).bits = 0 ∧ (cmpE .ne ty x y).bits = 1 ∧ (cmpE .lt ty x y).bits = 0 ∧ (cmpE .le ty x y).bits = 0)

/-- 11_vector_arith.md R220 and 12_vector_data.md R229: one row of a reduction and one element of a scan. -/
def Obligations.RowsAndScans : Prop :=
  (∀ rm ty, Reduces (fun q e d a => .vsum q e rm d a ty) ty (modeOk rm ty)
    (fun t => t = ty ∨ (t = 1 ∧ 2 ≤ ty ∧ ty ≤ 5) ∨ (t = 9 ∧ ty ∈ [10, 11, 13, 14]))
    (fun dty sub vs => sumRow ty dty (RMode.ofCode rm) sub vs)) ∧
  (∀ ty, Reduces (fun q e d a => .vrmax q e d a ty) ty (arithmetic ty) (· = ty) (fun _ _ vs => extremeRow true ty vs)) ∧
  (∀ ty, Reduces (fun q e d a => .vrmin q e d a ty) ty (arithmetic ty) (· = ty) (fun _ _ vs => extremeRow false ty vs)) ∧
  (∀ ty, Scans (fun q e d a => .vscanAdd q e d a ty) ty true (fun sub t x => addE ty .rne sub t x)
    (fun x => ⟨x, sigFlag ty [x], false⟩)) ∧
  (∀ ty, Scans (fun q e d a => .vscanMax q e d a ty) ty false (fun _ t x => bits (minmaxE true ty t x).bits) bits) ∧
  (∀ ty dty rm sub vs, 8 ≤ ty → ty ≤ 14 → sumRow ty dty rm sub vs = bits (tyPat dty ((vs.map (tyVal ty)).sum)))

/-- 12_vector_data.md R225 to R228, R233: the cross-lane moves with their validity bits, compaction and expansion with the count
for q6, and the descriptor move. -/
def Obligations.VectorMoves : Prop :=
  (∀ q e d a b ty, Crosses (.vperm q e d a b ty) q e [] d [d, a, b, validity d]
    (fun l => typed l ty [d, a] ∧ ((rg l b).ty = 9 ∨ (rg l b).ty = 10) ∧ cnt l d ≤ cnt l b) (fun l n => [(rg l b).el n])
    (fun s l n =>
      let i := tyVal (rg l b).ty (s.readEl l ((rg l b).el n))
      if 0 ≤ i ∧ i < cnt l a then (some ((rg l a).el i.toNat), true) else (own (rg l a) n, false))) ∧
  (∀ q e d a g ty, Crosses (.vshift q e d a g ty) q e [g] d [d, a, validity d]
    (fun l => typed l ty [d, a] ∧ (rg l d).count0 = (rg l a).count0) (fun _ _ => [])
    (fun _ l n =>
      let e0 := n % (rg l d).count0
      let e1 := n / (rg l d).count0
      let i := (e0 : Int) + (l.reg true g).toInt
      if 0 ≤ i ∧ i < (rg l a).count0 ∧ e1 < (rg l a).count1 then (some ((rg l a).at2 i.toNat e1), true)
      else (own2 (rg l a) e0 e1, false))) ∧
  (∀ q e d a g ty, Crosses (.vrotl q e d a g ty) q e [g] d [d, a, validity d]
    (fun l => typed l ty [d, a] ∧ (rg l d).count0 = (rg l a).count0) (fun _ _ => [])
    (fun _ l n =>
      let e0 := n % (rg l d).count0
      let e1 := n / (rg l d).count0
      let i := ((e0 : Int) + (l.reg true g).toInt) % ((rg l a).count0 : Int)
      if e1 < (rg l a).count1 then (some ((rg l a).at2 i.toNat e1), true) else (own2 (rg l a) e0 e1, false))) ∧
  (∀ q e d a g ty, Crosses (.vbcast q e d a g ty) q e [g] d [d, a, validity d] (fun l => typed l ty [d, a]) (fun _ _ => [])
    (fun _ l n =>
      let i := (l.reg true g).toNat
      if i < cnt l a then (some ((rg l a).el i), true) else (own (rg l a) n, false))) ∧
  (∀ (s : State) c k q e d a b ty,
    let l := s.lcAt k
    let hit (n : Nat) := s.readEl l ((rg l b).el n) == 1
    let ns := (List.range (cnt l a)).filter (fun n => hit n && decide (rank s l b n < cnt l d))
    let i := Instr.vcompact q e d a b ty
    i.wf = true → typed l ty [d, a] → typed l 15 [b] → cnt l a ≤ cnt l b → l.vdone = 0 → l.vpos = none →
    oneBeat l [d, a, b] (cnt l a) →
    CopyStep i (vectorUse q e [] [30]) s c k (cnt l a)
      ((List.range (cnt l a)).flatMap (fun n => [(rg l b).el n, (rg l a).el n]) ++ ns.map (fun n => (rg l d).el (rank s l b n)))
      (ns.map (fun n => ((rg l d).el (rank s l b n), s.readEl l ((rg l a).el n)))) (cnt l a)
      (some (rank s l b (cnt l a))) (some (BitVec.ofNat 64 (rank s l b (cnt l a))))) ∧
  (∀ (s : State) c k q e d a b ty,
    let l := s.lcAt k
    let ns := (List.range (cnt l d)).filter (fun n => s.readEl l ((rg l b).el n) == 1)
    let i := Instr.vexpand q e d a b ty
    i.wf = true → typed l ty [d, a] → typed l 15 [b] → cnt l d ≤ cnt l b → l.vdone = 0 → l.vpos = none →
    oneBeat l [d, a, b] (cnt l d) →
    CopyStep i (vectorUse q e [] [30]) s c k (cnt l d)
      ((List.range (cnt l d)).flatMap (fun n => [(rg l b).el n, (rg l d).el n]) ++
        ns.flatMap (fun n => (own (rg l a) (rank s l b n)).toList))
      (ns.map (fun n => ((rg l d).el n, match own (rg l a) (rank s l b n) with
        | some x => s.readEl l x
        | none => 0))) (cnt l d)
      (some (rank s l b (cnt l d))) (some (BitVec.ofNat 64 (rank s l b (cnt l d))))) ∧
  (∀ s c k q e d n x y r, s.who = some (.core true c k) → n ≤ 5 → (s.lcAt k).queue n = x :: y :: r →
    GivesFrom ({ s.setLc k { s.lcAt k with qs := (s.lcAt k).qs.put n (y :: r) [] } with
        cur := { s.cur with descWrite := some (d, BitVec.ofNat 128 (x.toNat + y.toNat % 2 ^ 26 * 2 ^ 64)) } })
      (.vmovDescriptor q e d n) s (.core true c k) (vectorUse q e [24 + n] []) 0 0 .next)

/-- 12_vector_data.md R230, R231, R234 to R237: one column of `vcolsel`, one key of `vprobe`, and one element or record of the
vector atomics. -/
def Obligations.VectorSearches : Prop :=
  (∀ (s : State) c k q e d a b ty (best : List Nat),
    let l := s.lcAt k
    let n := l.vdone
    let x (r : Nat) := s.readEl l ((rg l a).at2 n r)
    let rows := List.range (rg l a).count1
    let ts := List.range (rg l d).count1
    let out (t : Nat) : List El := if cnt l b = 0 then [] else [(rg l b).el (n + t * (rg l d).count0)]
    let i := Instr.vcolsel q e d a b ty
    ty ∈ [1, 2, 3, 9, 10, 11] → i.wf = true → typed l ty [a, b] → ((rg l d).ty = 9 ∨ (rg l d).ty = 13) →
    (rg l d).count0 = (rg l a).count0 → cnt l b = 0 ∨ cnt l d ≤ cnt l b → 0 < cnt l d →
    best.Perm rows → best.Pairwise (Ranks ty x) →
    CopyStep i (vectorUse q e [] []) s c k (rg l a).count0
      (rows.map (fun r => (rg l a).at2 n r) ++ ts.flatMap (fun t => (rg l d).at2 n t :: out t))
      (ts.flatMap (fun t => ((rg l d).at2 n t, best.getD t (2 ^ tyBits (rg l d).ty - 1)) ::
        (out t).map (fun o => (o, match best[t]? with
          | some r => x r
          | none => lowest ty)))) 1 none none) ∧
  (∀ (s : State) c k q e d a b w m,
    let l := s.lcAt k
    let n := l.vdone
    let key := match own (rg l a) n with
      | some x => s.readEl l x
      | none => 0
    let slot (j : Nat) := (rg l b).el ((key * 0x9E3779B1 % 2 ^ 32 / 2 ^ (32 - w) + j) % 2 ^ w)
    let held (j : Nat) := s.readEl l (slot j)
    let i := Instr.vprobe q e d a b
    let step (read : Nat) (v : Nat) :=
      CopyStep i (vectorUse q e [] []) s c k (cnt l d)
        ((own (rg l a) n).toList ++ [(rg l d).el n] ++ (List.range read).map slot) [((rg l d).el n, v)] 1 none none
    i.wf = true → typed l 12 [a] → typed l 9 [d] → typed l 8 [b] → cnt l b = 2 ^ w → w ≤ 32 →
    (key = 0xFFFFFFFF → step 0 0xFFFFFFFF) ∧
    (key ≠ 0xFFFFFFFF → m < 2 ^ w → (∀ j, j < m → held j % 2 ^ 32 ≠ 0xFFFFFFFF ∧ held j % 2 ^ 32 ≠ key) →
      (held m % 2 ^ 32 = key → step (m + 1) (held m / 2 ^ 32)) ∧
      (held m % 2 ^ 32 = 0xFFFFFFFF → step (m + 1) 0xFFFFFFFF)) ∧
    (key ≠ 0xFFFFFFFF → (∀ j, j < 2 ^ w → held j % 2 ^ 32 ≠ 0xFFFFFFFF ∧ held j % 2 ^ 32 ≠ key) →
      step (2 ^ w) 0xFFFFFFFF)) ∧
  (∀ (s : State) c k q e d a g ty,
    let l := s.lcAt k
    let n := l.vdone
    let size := tyBits ty / 8
    let va := l.reg true g + BitVec.ofNat 64 (size * n)
    let amo (i : Instr) (f : Nat → Nat → Nat) : Prop :=
      i.wf = true → ty ∈ [8, 9, 1, 2] → typed l ty [d, a] → va.toNat % size = 0 →
      AmoStep i q e g s c k (cnt l a) [(rg l a).el n] (own (rg l d) n).toList va size (fun ys x => f x (ys.headD 0)) (fun x => [x])
    amo (.vamoAdd q e d a g ty) (fun x y => (addE ty .rne .gradual x y).bits) ∧
    amo (.vamoMin q e d a g ty) (fun x y => (minmaxE false ty x y).bits) ∧
    amo (.vamoMax q e d a g ty) (fun x y => (minmaxE true ty x y).bits)) ∧
  (∀ (s : State) c k q e d a g,
    let l := s.lcAt k
    let n := l.vdone
    let m := (rg l a).count0
    let va := l.reg true g + BitVec.ofNat 64 (4 * m * n)
    let i := Instr.vamoComb q e d a g
    i.wf = true → typed l 1 [d, a] → 2 ≤ m → m ≤ 32 → va.toNat % 4 = 0 → va.toNat % 128 + 4 * m ≤ 128 →
    AmoStep i q e g s c k (rg l a).count1 ((List.range m).map (fun j => (rg l a).at2 j n))
      ((List.range m).filterMap (fun j => own (rg l d) (n * m + j))) va (4 * m)
      (fun ys x => recordOf (combine (recordWords m x) ys)) (recordWords m))

/-- 11_vector_arith.md R206, R208 to R211: a vector syllable runs its steps in order, each on what the one before it left, and retires when
its work is done (at once, when it has none) and there is room for its signals; where a step cannot go on the committed ones stand, and
the syllable traps or waits. Only its retirement waits for room for its signals. -/
def Obligations.VectorRuns : Prop :=
  ∀ (i : Instr) (v : VOp) (s s1 : State) c k, i.vop = some v → s.who = some (.core true c k) → i.wf = true →
    let w := Who.core true c k
    let l := s.lcAt k
    let s0 := match v.dw l with
      | some x => { s1 with cur := { s1.cur with descWrite := some x } }
      | none => s1
    let s2 := match v.result s1 k, v.dsts with
      | some x, d :: _ => { s0 with cur := { s0.cur with regWrite := some (d, x) } }
      | _, _ => s0
    (v.illegal l = true → MayTrap s w → ∃ t, exec i s = .next t ∧ Trapped s t w 2 1 0) ∧
    (v.illegal l = false → s.issue w v.use = .go → v.pair = none →
      (v.operand l = true → MayTrap s w → ∃ t, exec i s = .next t ∧ Trapped s t w 2 10 0) ∧
      (v.operand l = false →
        (v.work l ≤ l.vdone → s1 = s → l.rillFull 4 v.q = false →
          ∃ t, exec i s = .next t ∧ Retired s2 t w { v.use with q := v.q } 0 0 .next) ∧
        (State.runBeats k v (v.work l + 1) s = (s1, .done) →
          ((s1.lcAt k).rillFull 4 v.q = false → ∃ t, exec i s = .next t ∧ Retired s2 t w { v.use with q := v.q } 0 0 .next) ∧
          ((s1.lcAt k).rillFull 4 v.q = true → ∃ t, exec i s = .next t ∧ Stalled s1 t w .rillRoom)) ∧
        (∀ cause addr, State.runBeats k v (v.work l + 1) s = (s1, .fault cause addr false) → MayTrap s1 w →
          ∃ t, exec i s = .next t ∧ Trapped s1 t w 2 cause addr) ∧
        (∀ j p, State.runBeats k v (v.work l + 1) s = (s1, .wait j p) → ∃ t, exec i s = .next t ∧ Stalled s1 t w (.page j p)))) ∧
    (v.work l ≤ l.vdone → State.runBeats k v (v.work l + 1) s = (s, .done)) ∧
    (∀ fuel s' n flags nan mag pos, l.vdone < v.work l → s.vstep k v = .ok s' n flags nan mag pos →
      State.runBeats k v (fuel + 1) s = State.runBeats k v fuel (s'.vcommit k v.num n flags nan mag pos)) ∧
    (∀ fuel cause addr tb, l.vdone < v.work l → s.vstep k v = .fault cause addr tb →
      State.runBeats k v (fuel + 1) s = (s, .fault cause addr tb)) ∧
    (∀ fuel, l.vdone < v.work l → s.vstep k v = .assist → State.runBeats k v (fuel + 1) s = (s, .fault 6 0 false)) ∧
    (∀ (els : List El) x pre post, els = pre ++ x :: post →
      (x.mis = true → (∀ y ∈ pre, y.mis = false) → s.checkEls l els = .fault 2 x.va) ∧
      (x.outside = true → (∀ y ∈ els, y.mis = false) → (∀ y ∈ pre, y.outside = false) → s.checkEls l els = .fault 3 x.va) ∧
      ((∀ y ∈ els, y.mis = false ∧ y.outside = false) → l.elUnallotted x = true → (∀ y ∈ pre, l.elUnallotted y = false) →
        s.checkEls l els = .fault 4 x.va))

namespace Sys2Proof.Spec

/-! ## The matrix array and the rotator: hand-over -/

/-- Uses of an M or G syllable: the EP only, and no rill bits at V (02_encoding.md R33). -/
def engineUse (e : Bool) (unit : Nat) (srcs : List Nat) : Use :=
  { q := Rill.none, e := e, ap := false, ep := true, sl := false, srcs := srcs, dsts := [], inTrap := false, unit := unit }

/-- The queues of `l` after `pops`, pairs of a queue and a number of entries. -/
def popped (l : LCore) (pops : List (Nat × Nat)) : SMap (List Word) :=
  pops.foldl (fun m p => m.put p.1 ((l.queue p.1).drop p.2) []) l.qs

/-- An M syllable (05_matrix.md R97, R106, R109): its queues holding the entries it pops and its FIFO having room, it enters the
FIFO with them, with FTZ and MXMASK as they are; else it stalls, as it does in the core cycle in which a follow-on entered the
FIFO (R111). An array that is not declared is ILLEGAL. -/
def HandsM (i : Instr) (e : Bool) (pops : List (Nat × Nat)) (ok : LCore → Prop) (mask : Bool) : Prop :=
  ∀ s c k, s.who = some (.core true c k) → i.wf = true →
    let l := s.lcAt k
    let w := Who.core true c k
    let ops := pops.flatMap (fun p => (l.queue p.1).take p.2)
    let go := s.issue w (engineUse e 3 (pops.map (fun p => 24 + p.1))) = .go
    let ready := ∀ p ∈ pops, p.2 ≤ (l.queue p.1).length
    let cmd : MxCmd := ⟨(encodeWords i).headD 0, false, l.fpmode.getLsbD 0, l.mxmask, ops, s.cur.pc, s.cur.syl⟩
    (l.kern.units.testBit 0 = true → ok l → go → ready → l.foCycle = false → l.mxFifo.length < 16 →
      ∃ t, exec i s = .next t ∧
        Retired (s.setLc k { l with
          qs := popped l pops
          mxFifo := l.mxFifo ++ [cmd]
          mxmask := if mask then ops.headD 0 else l.mxmask }) t w (engineUse e 3 []) 0 0 .next) ∧
    (l.kern.units.testBit 0 = true → ok l → go → ready → l.foCycle = true ∨ 16 ≤ l.mxFifo.length →
      ∃ t, exec i s = .next t ∧ Stalled s t w .fifo) ∧
    (l.kern.units.testBit 0 = true → ok l → go →
      ∀ p, pops.find? (fun p => decide ((l.queue p.1).length < p.2)) = some p →
        ∃ t, exec i s = .next t ∧ Stalled s t w (.queueEmpty p.1 p.2)) ∧
    (l.kern.units.testBit 0 = false → MayTrap s w → ∃ t, exec i s = .next t ∧ Trapped s t w 3 1 0)

/-- Bank `c` of the array is declared; and for FP64, the pair that begins at the even bank `c` (R57, R95). -/
abbrev bankOk (l : LCore) (c ty : Nat) : Prop :=
  l.kern.banks.testBit c = true ∧ (ty = 0 → c % 2 = 0 ∧ l.kern.banks.testBit (c + 1) = true)

/-- A G syllable (06_rotator.md R133): its FIFO having room, it enters with its descriptors and FTZ as they are; else it stalls. A rotator that
is not declared, or a descriptor of another type, is ILLEGAL. -/
def HandsG (i : Instr) (e : Bool) (a b : Nat) (types : List (Nat × Nat)) (ok : Prop) : Prop :=
  ∀ s c k, s.who = some (.core true c k) → i.wf = true → ok →
    let l := s.lcAt k
    let w := Who.core true c k
    let good := l.kern.units.testBit 1 = true ∧ ∀ p ∈ types, (l.region p.1).ty = p.2
    let cmd : RtCmd :=
      ⟨(encodeWords i).headD 0, l.fpmode.getLsbD 0, l.descs.atD a 0, l.descs.atD b 0, s.cur.pc, s.cur.syl⟩
    (good → s.issue w (engineUse e 4 []) = .go → l.rtFifo.length < 8 →
      ∃ t, exec i s = .next t ∧
        Retired (s.setLc k { l with rtFifo := l.rtFifo ++ [cmd] }) t w (engineUse e 4 []) 0 0 .next) ∧
    (good → s.issue w (engineUse e 4 []) = .go → 8 ≤ l.rtFifo.length → ∃ t, exec i s = .next t ∧ Stalled s t w .fifo) ∧
    (¬ good → MayTrap s w → ∃ t, exec i s = .next t ∧ Trapped s t w 4 1 0)

end Sys2Proof.Spec

/-! ## Hand-over to the matrix array and the rotator -/

/-- 05_matrix.md R95, R97, R103, R105, R106, R108, R109 and 02_encoding.md R33, R57: an M syllable is handed to the matrix array
with its bundle. `mx.sync` waits for an idle array; it then completes at once, or enters the FIFO when it has rill bits
(the model's reading of R108 with R110, log entry 20). -/
def Sys2Proof.Parts.MatrixHandOver : Prop :=
  (∀ q e c ty a b, a ≠ b → a ≤ 5 → b ≤ 5 → ty ∈ [0, 1, 2, 3, 4, 5, 7, 11] →
    HandsM (.mxMac q e c ty a b) e [(a, 2), (b, 2)] (fun l => bankOk l c ty) false ∧
    HandsM (.mxMacz q e c ty a b) e [(a, 2), (b, 2)] (fun l => bankOk l c ty) false) ∧
  (∀ q e c, HandsM (.mxZero q e c) e [] (fun l => bankOk l c 1) false) ∧
  (∀ q e c a, a ≤ 5 → HandsM (.mxLd q e c a) e [(a, 2)] (fun l => bankOk l c 1) false) ∧
  (∀ q e c a, a ≤ 5 → HandsM (.mxSt q e c a) e [(a, 2)] (fun l => bankOk l c 1) false) ∧
  (∀ q e c ty a, a ≤ 5 → ty ∈ [0, 2, 3, 4, 5, 10, 11] → HandsM (.mxStc q e c ty a) e [(a, 2)] (fun l => bankOk l c ty) false) ∧
  (∀ q e a, a ≤ 5 → HandsM (.mxMask q e a) e [(a, 1)] (fun _ => True) true) ∧
  (∀ q e a, a ≤ 5 → HandsM (.mxTw q e a) e [(a, 1)] (fun _ => True) false) ∧
  (∀ q e c m, m ≤ 3 → HandsM (.mxAdd q e c m) e [] (fun l => bankOk l c 1 ∧ bankOk l m 1) false) ∧
  (∀ s c k q e, s.who = some (.core true c k) → (s.lcAt k).kern.units.testBit 0 = true →
    let w := Who.core true c k
    let l := s.lcAt k
    let i := Instr.mxSync q e
    i.wf = true → s.issue w (engineUse e 3 []) = .go →
    (l.mxFifo = [] → Rill.any q = false → ∃ t, exec i s = .next t ∧ Retired s t w (engineUse e 3 []) 0 0 .next) ∧
    (l.mxFifo = [] → Rill.any q = true → ∃ t, exec i s = .next t ∧
      Retired (s.setLc k { l with
        mxFifo := [⟨(encodeWords i).headD 0, false, l.fpmode.getLsbD 0, l.mxmask, [], s.cur.pc, s.cur.syl⟩] })
        t w (engineUse e 3 []) 0 0 .next) ∧
    (l.mxFifo ≠ [] → ∃ t, exec i s = .next t ∧ Stalled s t w .mxSync))

/-- 06_rotator.md R125, R133 and Table 3: a G syllable is handed to the rotator with its bundle. -/
def Sys2Proof.Parts.RotatorHandOver : Prop :=
  (∀ q e, HandsG (.rtClr q e) e 0 0 [] True) ∧ (∀ q e, HandsG (.rtGz q e) e 0 0 [] True) ∧
  (∀ q e a, HandsG (.rtLd q e a) e a 0 [(a, 1)] True) ∧ (∀ q e a, HandsG (.rtRhs q e a) e a 0 [(a, 1)] True) ∧
  (∀ q e g a, HandsG (.rtSt q e g a) e a 0 [(a, 1)] (g < 3)) ∧
  (∀ q e g a, HandsG (.rtQr q e g a 0 0) e a 0 [(a, 1)] (g < 3)) ∧
  (∀ q e g a b n, HandsG (.rtQr q e g a b n) e a b [(a, 1), (b, 1)] (g < 3 ∧ 1 ≤ n ∧ n ≤ 4)) ∧
  (∀ q e g a b, HandsG (.rtVec q e g a b) e a b [(a, 1), (b, 12)] (g < 3)) ∧
  (∀ q e g a b, HandsG (.rtRot q e g a b) e a b [(a, 1), (b, 12)] (g < 3)) ∧
  (∀ q e a b, HandsG (.rtAngB16 q e a b) e a b [(a, 13), (b, 12)] True) ∧
  (∀ q e a b, HandsG (.rtAngB32 q e a b) e a b [(a, 12), (b, 12)] True) ∧
  (∀ q e g a b n, HandsG (.rtSol q e g a b n) e a b [(a, 1), (b, 15)] (g < 3 ∧ n ≤ 4)) ∧
  (∀ q e g a b, HandsG (.rtApp q e g a b) e a b [(a, 1), (b, 12)] (g < 3))

/-- Two parts: MatrixHandOver and RotatorHandOver.

05_matrix.md R95, R97, R103, R105, R106, R108, R109 and 02_encoding.md R33, R57: an M syllable is handed to the matrix array
with its bundle. `mx.sync` waits for an idle array; it then completes at once, or enters the FIFO when it has rill bits
(the model's reading of R108 with R110, log entry 20).

06_rotator.md R125, R133 and Table 3: a G syllable is handed to the rotator with its bundle. -/
def Obligations.EngineHandOver : Prop := Parts.MatrixHandOver ∧ Parts.RotatorHandOver

namespace Sys2Proof.Spec

/-! ## Events -/

/-- Event `i` happens at `s`, and `t` (but for the cursor's record of it) is the next state. -/
def Happens (i : Instr) (s t : State) : Prop := exec i s = .next (t.verdict .done)

/-- The condition of event `i` does not hold: nothing changes. -/
def Passes (i : Instr) (s : State) : Prop := exec i s = .next (s.verdict .idle)

/-- The device counts an error of kind `n` in its counters (19_counters.md Table 5). -/
def counted (s : State) (n : Nat) : State := s.countErr n

/-- Queue `q` of `s` becomes `x`. -/
def queueSet (s : State) (q : Nat) (x : HostQ) : State := { s with queues := s.queues.ins q x }

/-- The device takes host writes, and `q` numbers a queue (19_counters.md R352, 14_host_queues.md R259). -/
abbrev HostWrites (s : State) (q : Nat) : Prop := s.hstate < 2 ∧ q < 256

/-- `s` with the 64 bytes `bytes` appended to handler queue `h`, which becomes `x` with PROG moved on: they lie in its next entry,
PROG is written to PADDR when it has one, and its MSI-X vector is sent (14_host_queues.md R263, R266). -/
def appended (s : State) (h : Nat) (x : HostQ) (bytes : List Byte) : State :=
  let prog := (x.prog + 1) % 2 ^ 32
  let u := queueSet (s.setPhyss (x.entryPa x.prog) bytes) h { x with prog := prog }
  let v := { u with handlers := s.handlers.ins (x.entryPa x.prog) bytes }
  let w := if x.paddr = 0 then v else v.setPhyss x.paddr (bytesOf 8 prog)
  { w with msix := s.msix ++ [x.vec] }

/-- The 64 bytes of a HANDLER (14_host_queues.md Tables 3 and 4): type 9, the DEV flag, one entry, and what failed. -/
def handlerIs (cause queue id entry word req avail : Nat) (cycle : Word) : List Byte :=
  bytesOf 8 (0x018009 + id % 2 ^ 32 * 2 ^ 32) ++ bytesOf 8 0 ++
  bytesOf 8 (cause % 2 ^ 16 + queue % 2 ^ 8 * 2 ^ 16 + id % 2 ^ 32 * 2 ^ 32) ++ bytesOf 8 (entry % 2 ^ 32) ++
  bytesOf 8 word ++ bytesOf 8 req ++ bytesOf 8 avail ++ bytesOf 8 cycle.toNat

/-- What setting EN asks of the descriptor `x` of queue `q` (R259). -/
abbrev MayEnable (s : State) (q : Nat) (x : HostQ) : Prop :=
  16 ≤ x.size ∧ x.ring % (64 * x.size) = 0 ∧ (s.ctxs.at? x.ctx).isSome = true ∧
  (x.isHandler = false → x.sib ≠ q ∧ (s.queueAt x.sib).enabled = true ∧ (s.queueAt x.sib).isHandler = true ∧
    (s.queueAt x.sib).ctx = x.ctx)

/-- Bytes of a mailbox: `m` is `b` with the bytes `bs` from offset `o`. -/
def Filled (b m : SMap Byte) (o : Nat) (bs : List Byte) : Prop :=
  ∀ i, m.atD i 0 = if o ≤ i ∧ i < o + bs.length then bs.getD (i - o) 0 else b.atD i 0

/-- The firmware's answer to the request in the control mailbox (R267): STATUS becomes DONE with RESULT `v`, and vector 254 is
sent when flag bit 0 asks for it. -/
def Answered (t u : State) (v : Nat) : Prop :=
  ∃ m, Filled t.control m 0x10 (bytesOf 8 v) ∧ ∃ n, Filled m n 4 (bytesOf 4 2) ∧
    u = { t with control := n, msix := if (t.control.atD 1 0).getLsbD 0 then t.msix ++ [254] else t.msix }

/-- As `Answered`, with STATUS FAILED and CAUSE `c`. -/
def Refused (t u : State) (c : Nat) : Prop :=
  ∃ m, Filled t.control m 0x0C (bytesOf 4 c) ∧ ∃ n, Filled m n 4 (bytesOf 4 3) ∧
    u = { t with control := n, msix := if (t.control.atD 1 0).getLsbD 0 then t.msix ++ [254] else t.msix }

end Sys2Proof.Spec

/-! ## Host registers -/

/-- 14_host_queues.md R260, 19_counters.md R349, R352: a doorbell inside its window moves LATCH; one outside it is counted in ERRCNT
and answered with RING-ERROR; one for a queue that is not enabled, and every one in HSTATE 2, counts a device error. Room in a
handler queue takes the HANDLERs that it is owed. A write to HW1 is the doorbell of its page. -/
def Sys2Proof.Parts.DoorbellEvents : Prop :=
  (∀ s q v, HostWrites s q →
    let x := s.queueAt q
    let w := v % 2 ^ 32
    x.enabled = true → x.isHandler = false →
    (sub32 x.latch x.prog ≤ sub32 w x.prog → sub32 w x.prog ≤ x.size →
      Happens (.sqDoorbell q v) s (queueSet s q { x with latch := w })) ∧
    ((sub32 w x.prog < sub32 x.latch x.prog ∨ x.size < sub32 w x.prog) →
      Happens (.sqDoorbell q v) s
        ((queueSet s q { x with errcnt := min 65535 (x.errcnt + 1) }).handler q 5 0 0 w x.latch x.prog))) ∧
  (∀ s q v, HostWrites s q →
    let x := s.queueAt q
    let w := v % 2 ^ 32
    x.enabled = true → x.isHandler = true →
    (x.owed = [] → sub32 w x.latch ≤ sub32 x.prog x.latch → Happens (.hqDoorbell q v) s (queueSet s q { x with latch := w })) ∧
    (∀ src bytes, x.owed = [(src, x.ctx, bytes)] → sub32 w x.latch ≤ sub32 x.prog x.latch → sub32 x.prog w < x.size →
      Happens (.hqDoorbell q v) s (appended s q { x with latch := w, owed := [] } bytes)) ∧
    (sub32 x.prog x.latch < sub32 w x.latch →
      Happens (.hqDoorbell q v) s
        ((queueSet s q { x with errcnt := min 65535 (x.errcnt + 1) }).handler q 5 0 0 w x.latch x.prog))) ∧
  (∀ s q v, q < 256 → (s.queueAt q).enabled = false ∨ 2 ≤ s.hstate →
    ((s.queueAt q).isHandler = false → Happens (.sqDoorbell q v) s (counted s 0)) ∧
    ((s.queueAt q).isHandler = true → Happens (.hqDoorbell q v) s (counted s 0))) ∧
  (∀ s q size v, HostWrites s q → size = 4 ∨ size = 8 →
    exec (.registerWrite (.hw1 (4096 * q) size v)) s =
      exec (if (s.queueAt q).isHandler then .hqDoorbell q v else .sqDoorbell q v) s) ∧
  (∀ s off size v, off < 2 ^ 20 → (size ≠ 4 ∧ size ≠ 8) ∨ off % 4096 ≠ 0 ∨ 2 ≤ s.hstate →
    Happens (.registerWrite (.hw1 off size v)) s (counted s 0))

/-- 14_host_queues.md R257, R259, R261, R266, R267, 16_distributor.md R289, R290 and 19_counters.md R352: descriptors, enabling and
disabling a queue, RESUME, residence, the mailboxes, the aperture and what the host sets of a port. -/
def Sys2Proof.Parts.RegisterWrites : Prop :=
  (∀ s q w0, HostWrites s q → (s.queueAt q).enabled = false → (BitVec.ofNat 64 w0).getLsbD 63 = true →
    let x := { s.queueAt q with w0 := BitVec.ofNat 64 w0 &&& 0xFFFFFFFFFFFFF00F }
    (MayEnable s q x → x.owed = [] →
      Happens (.queueEnable q w0) s
        (queueSet s q { x with
          prog := 0, latch := 0, err := false, stopped := false, next := 0, started := [], gang := none })) ∧
    (¬ MayEnable s q x →
      Happens (.queueEnable q w0) s (queueSet s q { x with w0 := x.w0 &&& 0x7FFFFFFFFFFFFFFF, err := true }))) ∧
  (∀ s q, HostWrites s q → (s.queueAt q).enabled = true →
    let x := s.queueAt q
    let idle := x.state = 0 ∧ s.hpend q = false ∧ (∀ p ∈ x.started, p.completed = true) ∧ (x.isHandler = true → x.owed = [])
    (idle → Happens (.queueDisable q) s (queueSet s q { x with w0 := x.w0 &&& 0x7FFFFFFFFFFFFFFF })) ∧
    (¬ idle → Happens (.queueDisable q) s (counted s 0))) ∧
  (∀ s q, HostWrites s q →
    ((s.queueAt q).stopped = true → s.hpend q = false →
      Happens (.resume q) s (queueSet s q { s.queueAt q with stopped := false })) ∧
    ((s.queueAt q).stopped = false ∨ s.hpend q = true → Happens (.resume q) s s)) ∧
  (∀ s q, q < 256 → (s.queueAt q).enabled = true → (s.queueAt q).res = false →
    (s.queues.filter (fun p => p.2.res)).length < 64 →
    Happens (.queueSwitchIn q) s (queueSet s q { s.queueAt q with res := true })) ∧
  (∀ s q, (s.queueAt q).res = true → Happens (.queueSwitchOut q) s (queueSet s q { s.queueAt q with res := false })) ∧
  -- registers: a bad size or alignment, and every write in HSTATE 2, is counted; the fields take writes while EN is clear
  (∀ s off size v, off < 2 ^ 24 → (size ≠ 4 ∧ size ≠ 8) ∨ off % size ≠ 0 ∨ 2 ≤ s.hstate →
    Happens (.registerWrite (.hw0 off size v)) s (counted s 0)) ∧
  (∀ s q v, HostWrites s q →
    let x := s.queueAt q
    let w := BitVec.ofNat 64 v
    (x.enabled = false → w.msb = false → Happens (.registerWrite (.hw0 (0x10000 + 64 * q) 8 v)) s
      (queueSet s q { x with w0 := w &&& 0xFFFFFFFFFFFFF00F })) ∧
    (x.enabled = false → w.msb = true →
      exec (.registerWrite (.hw0 (0x10000 + 64 * q) 8 v)) s = exec (.queueEnable q (v % 2 ^ 64)) s) ∧
    (x.enabled = true → w.msb = true → Happens (.registerWrite (.hw0 (0x10000 + 64 * q) 8 v)) s s) ∧
    (x.enabled = true → w.msb = false →
      exec (.registerWrite (.hw0 (0x10000 + 64 * q) 8 v)) s = exec (.queueDisable q) s) ∧
    (x.enabled = false → Happens (.registerWrite (.hw0 (0x10008 + 64 * q) 8 v)) s
      (queueSet s q { x with w1 := w &&& 0x000FFFFFFFFFFFF8 })) ∧
    (x.enabled = false → Happens (.registerWrite (.hw0 (0x10010 + 64 * q) 8 v)) s
      (queueSet s q { x with w2 := w &&& 0xFFFFFF0000000000 })) ∧
    (x.enabled = true → Happens (.registerWrite (.hw0 (0x10008 + 64 * q) 8 v)) s s ∧
      Happens (.registerWrite (.hw0 (0x10010 + 64 * q) 8 v)) s s)) ∧
  -- the mailboxes: operands, and GO
  (∀ s i v, s.hstate < 2 → i < 29 →
    ∃ m, Filled s.control m (0x18 + 8 * i) (bytesOf 8 v) ∧
      Happens (.registerWrite (.hw0 (0x218 + 8 * i) 8 v)) s { s with control := m }) ∧
  (∀ s, s.hstate < 2 → ofBytes ((List.range 4).map (fun i => s.control.atD (4 + i) 0)) ≠ 1 →
    1 ≤ (s.control.atD 0 0).toNat → (s.control.atD 0 0).toNat ≤ 7 →
    ∃ n, Filled s.control n 4 (bytesOf 4 1) ∧
      Happens (.registerWrite (.hw0 0x208 4 1)) s { s with control := n }) ∧
  (∀ s, s.hstate < 2 → ofBytes ((List.range 4).map (fun i => s.slotbox.atD (0x20 + i) 0)) ≠ 1 →
    let slot := (s.slotbox.atD 0 0).toNat
    ((s.slotbox.atD 1 0).toNat = 1 → slot < 64 → (s.slotAt slot).state = 0 →
      ∃ n, Filled s.slotbox n 0x20 (bytesOf 4 1) ∧
        Happens (.registerWrite (.hw0 0x124 4 1)) s
          { s with slotbox := n, slots := s.slots.ins slot { s.slotAt slot with state := 1 } }) ∧
    ((s.slotbox.atD 1 0).toNat = 2 ∨ ((s.slotbox.atD 1 0).toNat = 1 ∧ (64 ≤ slot ∨ (s.slotAt slot).state ≠ 0)) →
      ∃ n, Filled s.slotbox n 0x20 (bytesOf 4 1) ∧
        Happens (.registerWrite (.hw0 0x124 4 1)) s { s with slotbox := n })) ∧
  (∀ s, s.hstate < 2 →
    (ofBytes ((List.range 4).map (fun i => s.control.atD (4 + i) 0)) = 1 →
      Happens (.registerWrite (.hw0 0x208 4 1)) s (counted s 0)) ∧
    (ofBytes ((List.range 4).map (fun i => s.slotbox.atD (0x20 + i) 0)) = 1 →
      Happens (.registerWrite (.hw0 0x124 4 1)) s (counted s 0))) ∧
  -- the aperture and the ports
  (∀ s off data, s.hstate < 2 → off + data.length ≤ 2 ^ 36 →
    Happens (.hw2ApertureWrite off data) s (s.setPhyss (s.hw2base + off) data)) ∧
  (∀ s base, base % 2 ^ 36 = 0 → base < 2 ^ 39 → Happens (.registerWrite (.hw2Base base)) s { s with hw2base := base }) ∧
  (∀ s p a u, p < 48 → a < 2 ^ 128 → u < 2 ^ 16 →
    Happens (.registerWrite (.portEndpoint p a u)) s
      { s with ports := s.ports.ins p { s.portAt p with addr := a, udp := u } }) ∧
  (∀ s p slow, p < 48 → (s.portAt p).up = false →
    Happens (.registerWrite (.portSpeed p slow)) s { s with ports := s.ports.ins p { s.portAt p with slow := slow } })

/-- 14_host_queues.md R257, R259, R267, 16_distributor.md R289 and 19_counters.md R349, R352: what a host read of the registers gives;
a reserved offset reads zero. -/
def Sys2Proof.Parts.HostReads : Prop :=
  (∀ (s : State) q, q < 256 →
    let x := s.queueAt q
    let r (i : Nat) : Word := BitVec.ofNat 64 (ofBytes (s.readHw0 (0x10000 + 64 * q + 8 * i) 8))
    let one (b : Bool) (n : Nat) : Nat := if b then n else 0
    r 0 = x.w0 ∧ r 1 = x.w1 ∧ r 2 = x.w2 ∧ r 3 = BitVec.ofNat 64 (x.prog * 2 ^ 32 + x.latch % 2 ^ 32) ∧
    r 4 = BitVec.ofNat 64 (x.errcnt * 2 ^ 16 + one x.err 32 + one (s.hpend q) 16 + one x.frozen 8 + one x.res 4 + x.state) ∧
    r 5 = 0 ∧ r 6 = 0 ∧ r 7 = 0) ∧
  (∀ (s : State) i, i < 8 → BitVec.ofNat 64 (ofBytes (s.readHw0 (0x1000 + 8 * i) 8)) = s.errs.atD i 0) ∧
  (∀ (s : State) p, p < 48 →
    let r (i : Nat) : Word := BitVec.ofNat 64 (ofBytes (s.readHw0 (0x2000 + 32 * p + 8 * i) 8))
    r 0 = (s.portAt p).drop ∧ r 1 = (s.portAt p).reject ∧ r 2 = (s.portAt p).dup ∧ r 3 = (s.portAt p).late) ∧
  (∀ (s : State) i, i < 7 → BitVec.ofNat 64 (ofBytes (s.readHw0 (8 * i) 8)) = s.deviceStatus i) ∧
  (∀ (s : State) o, o < 0x38 → s.readHw0 (0x200 + o) 1 = [s.control.atD o 0]) ∧
  (∀ (s : State) o, (0x40 ≤ o ∧ o < 0x100) → s.readHw0 (0x200 + o) 1 = [s.control.atD o 0]) ∧
  (∀ (s : State) o, (o < 0x28 ∧ o ≠ 7) ∨ (0x40 ≤ o ∧ o < 0x80) → s.readHw0 (0x100 + o) 1 = [s.slotbox.atD o 0]) ∧
  (∀ (s : State) o, (0x38 ≤ o ∧ o < 0x100) ∨ o = 0x107 ∨ (0x128 ≤ o ∧ o < 0x140) ∨ (0x180 ≤ o ∧ o < 0x200) ∨
    (0x238 ≤ o ∧ o < 0x240) ∨ (0x300 ≤ o ∧ o < 0x1000) ∨ (0x1040 ≤ o ∧ o < 0x2000) ∨ (0x2600 ≤ o ∧ o < 0x8000) ∨ 0x14000 ≤ o →
    s.readHw0 o 1 = [0]) ∧
  -- the device status (19_counters.md Table 6)
  (∀ (s : State), s.hstate < 4 → s.fencedCores.Nodup → s.fencedPorts.Nodup →
    (s.deviceStatus 0).toNat = s.hstate * 2 ^ 62 + (if 1 ≤ s.hstate then 2 ^ 61 else 0) + (256 - s.fencedCores.length) % 2 ^ 61 ∧
    (∀ c, c < 256 → (s.deviceStatus (1 + c / 64)).getLsbD (c % 64) = decide (c ∈ s.fencedCores)) ∧
    (∀ p, p < 48 → (s.deviceStatus 5).getLsbD p = decide (p ∈ s.fencedPorts))) ∧
  (∀ (s : State) i, 1 ≤ i → i ≤ 6 → ofBytes (s.readHw0 (0x8000 + 128 * (i - 1)) 1) = i) ∧
  (∀ (s : State), s.readHw0 (0x8000 + 768) 1 = [0]) ∧
  (∀ (s : State) o n, s.hstate < 2 → s.readHw2 o n = some (s.physBytes (s.hw2base + o) n)) ∧
  (∀ (s : State) o n, 2 ≤ s.hstate → s.readHw1 o n = none ∧ s.readHw2 o n = none) ∧
  (∀ (s : State) q o, s.hstate < 2 → 4 ≤ o → o < 4096 → s.readHw1 (4096 * q + o) 1 = some [0])

/-- Three parts: DoorbellEvents, RegisterWrites and HostReads.

14_host_queues.md R260, 19_counters.md R349, R352: a doorbell inside its window moves LATCH; one outside it is counted in ERRCNT
and answered with RING-ERROR; one for a queue that is not enabled, and every one in HSTATE 2, counts a device error. Room in a
handler queue takes the HANDLERs that it is owed. A write to HW1 is the doorbell of its page.

14_host_queues.md R257, R259, R261, R266, R267, 16_distributor.md R289, R290 and 19_counters.md R352: descriptors, enabling and
disabling a queue, RESUME, residence, the mailboxes, the aperture and what the host sets of a port.

14_host_queues.md R257, R259, R267, 16_distributor.md R289 and 19_counters.md R349, R352: what a host read of the registers gives;
a reserved offset reads zero. -/
def Obligations.HostRegisterEvents : Prop := Parts.DoorbellEvents ∧ Parts.RegisterWrites ∧ Parts.HostReads

namespace Sys2Proof.Spec

/-! ## Packets -/

/-- It is the turn of the packet at entry `n` of queue `q`, of type `kind`, with the bytes `b`: the queue may start it, and no
queue of the same wake core has a packet of a higher priority to start (R261, R263). -/
abbrev Turn (s : State) (q n : Nat) (b : List Byte) (kind : Nat) : Prop :=
  s.startable q = some (n, b) ∧ at_ b 0 1 = kind ∧ s.outranked q = false

/-- The header of a packet of one entry keeps R262. -/
abbrev GoodHead (s : State) (q : Nat) (b : List Byte) : Prop :=
  at_ b 1 1 ≤ 3 ∧ at_ b 2 1 = 1 ∧ at_ b 3 1 = 0 ∧ (at_ b 8 8 = 0 ∨ IsSignal s (s.queueAt q).ctx (at_ b 8 8))

/-- Packet `i`, of one entry, in its turn: when the header and the body `ok` are in order, it starts and then does `f`; a header
with undefined flags fails at once, with a HANDLER that names offset 1. -/
def Starts (i : Instr) (s : State) (q kind : Nat) (ok : List Byte → Prop) (f : Nat → List Byte → State → State) : Prop :=
  (∀ n b, Turn s q n b kind → GoodHead s q b → ok b → Happens i s (f n b (s.beginPacket q n b))) ∧
  (∀ n b, Turn s q n b kind → 3 < at_ b 1 1 → Happens i s ((s.beginPacket q n b).failPacket q n 1 1 0 0))

/-- The completed packets `ps` stand one after the other from entry `a` on, up to entry `b`. -/
def Follows : Nat → List Started → Nat → Prop
  | a, [], b => a = b
  | a, p :: ps, b => p.entry = a ∧ p.completed = true ∧ Follows ((a + p.len) % 2 ^ 32) ps b

/-- The next packet of queue `q`, which is being aborted, completes as aborted; that of a LAUNCH has a record that says so (R264). -/
def AbortsNext (q : Nat) (s t : State) : Prop :=
  let x := s.queueAt q
  let n := x.next
  let b := s.entryBytes q n
  let len := min (if at_ b 0 1 = 1 then 4 else 1) (sub32 x.latch n)
  let u := queueSet s q { x with started := x.started ++ [⟨n, len, b, false, 0, false, 0⟩], next := (n + len) % 2 ^ 32 }
  n ≠ x.latch ∧ (∀ y ∈ x.started, y.entry ≠ n ∧ y.entry ≠ (n + len) % 2 ^ 32) ∧
  t = (if at_ b 0 1 = 1 then
      u.putRecord x.ctx q (at_ b 4 4) n (at_ b 0x20 8) (recordBytes 4 0 0xFFFF 0 0 s.cycle.toNat 0 0 0)
    else u).completePacket q n true

/-- The `k` packets of queue `q` that have not started complete as aborted, one after the other, up to LATCH. -/
def AbortsRest (q : Nat) : Nat → State → State → Prop
  | 0, s, t => t = s ∧ (s.queueAt q).next = (s.queueAt q).latch
  | k + 1, s, t => ∃ u, AbortsNext q s u ∧ AbortsRest q k u t

/-- Node `x` waits for nothing but its predicate, and has not become ready (16_distributor.md R293, R294). -/
def Waits (x : Node) : Prop := x.dispatched = false ∧ x.held = false ∧ x.preds = [] ∧ x.readyAt = none

/-- The signals of a BARRIER: its count, and list `i`. -/
def barrierVa (b : List Byte) (i : Nat) : Nat := at_ b (0x18 + 8 * i) 8

/-- The body of a THAW keeps R262. -/
abbrev GoodThaw (b : List Byte) : Prop :=
  ZeroIn b 0x10 0x18 ∧ at_ b 0x18 8 % 65536 = 0 ∧ 1 ≤ at_ b 0x20 2 ∧ at_ b 0x20 2 ≤ 256 ∧ ZeroIn b 0x22 0x40

/-- The body of a BARRIER keeps R262. -/
abbrev GoodBarrier (s : State) (q : Nat) (b : List Byte) : Prop :=
  at_ b 0x10 1 ≤ 3 ∧ ZeroIn b 0x11 0x18 ∧ ZeroIn b 0x30 0x40 ∧
  ∀ i, i < 3 → if i < at_ b 0x10 1 then IsSignal s (s.queueAt q).ctx (barrierVa b i) else barrierVa b i = 0

/-- The value of signal `i` of a BARRIER. -/
def barrierValue (s : State) (q : Nat) (b : List Byte) (i : Nat) : Word :=
  match s.signalPa (s.queueAt q).ctx (barrierVa b i) with
  | some pa => signalAt s pa
  | none => 0

end Sys2Proof.Spec

/-! ## Packets -/

/-- 14_host_queues.md R261 to R266, R372: a packet that is read in its turn is recorded as started; at a completion its csig moves,
PROG moves over every completed packet at the head of the ring and is written to PADDR, and MSI-X is sent when the packet asks for
it; a HANDLER is appended to the sibling, or waits while it is full; a packet that fails with B set aborts its queue. -/
def Sys2Proof.Parts.PacketProgress : Prop :=
  (∀ s q n b, let x := s.queueAt q
    let len := min (if at_ b 0 1 = 1 then 4 else 1) (sub32 x.latch n)
    let p : Started := ⟨n, len, b, false, 0, false, (s.ctxAt x.ctx).collCount⟩
    let begun (next : Nat) : Prop := s.beginPacket q n b =
      { queueSet s q { x with started := x.started ++ [p], next := next } with wakeTurn := s.wakeTurn.ins (q % 6) q }
    -- in its turn; ahead of its turn, past packets of a frozen queue; and with a packet that has started ahead of its turn behind it
    ((∀ y ∈ x.started, y.entry ≠ n ∧ y.entry ≠ (n + len) % 2 ^ 32) → n = x.next → begun ((n + len) % 2 ^ 32)) ∧
    ((∀ y ∈ x.started, y.entry ≠ x.next) → n ≠ x.next → begun x.next) ∧
    (∀ y ∈ x.started, y.entry = (n + len) % 2 ^ 32 → y.entry ≠ x.latch → n = x.next →
      (∀ z ∈ x.started, z.entry ≠ n ∧ (z.entry = y.entry → z = y) ∧ z.entry ≠ (y.entry + y.len) % 2 ^ 32) →
      begun ((y.entry + y.len) % 2 ^ 32))) ∧
  (∀ s s0 q n p failed, let x := s.queueAt q
    let csig := at_ p.bytes 8 8
    let ended := x.started.map (fun r => if r.entry = n then { r with completed := true } else r)
    x.running n = some p → x.started.Pairwise (fun a b => a.entry ≠ b.entry) →
    (csig = 0 ∧ s0 = s ∨ ∃ pa, SignalHome s x.ctx csig pa ∧
      s0 = s.setRaws pa (bytesOf 8 (signalAt s pa - (if failed then 2 ^ 32 else 1)).toNat)) →
    ∃ ps prog, Follows x.prog ps prog ∧ (∀ r ∈ ps, r ∈ ended) ∧ (∀ r ∈ ended, r ∉ ps → r.completed = true → r.entry ≠ prog) ∧
      let u := queueSet s0 q { x with prog := prog, started := ended.filter (fun r => decide (r ∉ ps)) }
      let v := if x.paddr = 0 then u else u.setPhyss x.paddr (bytesOf 8 prog)
      s.completePacket q n failed = { v with msix := if at_ p.bytes 1 1 / 2 % 2 = 1 then s.msix ++ [x.vec] else s.msix }) ∧
  -- a HANDLER is appended, or waits
  (∀ (s : State) q cause id entry word req avail, let x := s.queueAt q
    let h := if x.isHandler then q else x.sib
    let y := s.queueAt h
    let bytes := handlerIs cause q id entry word req avail s.cycle
    y.enabled = true → y.isHandler = true →
    (y.owed = [] → y.ctx = x.ctx → sub32 y.prog y.latch < y.size →
      s.handler q cause id entry word req avail = appended s h y bytes) ∧
    (y.size ≤ sub32 y.prog y.latch →
      let t := queueSet s h { y with owed := y.owed ++ [(q, x.ctx, bytes)] }
      (x.isHandler = true → s.handler q cause id entry word req avail = t) ∧
      (x.isHandler = false → x.sib ≠ q →
        s.handler q cause id entry word req avail = queueSet t q { x with stopped := true }))) ∧
  -- failure and abort
  (∀ (s : State) q n (p : Started) cause word req avail, (s.queueAt q).running n = some p →
    s.failPacket q n cause word req avail =
      (if at_ p.bytes 1 1 % 2 = 1 then s.abortQueue q n else s.completePacket q n true).handler q cause (at_ p.bytes 4 4) n word
        req avail) ∧
  (∀ (s : State) q n k t, k ≤ 2 ^ 15 → AbortsRest q k (s.completePacket q n true) t →
    s.abortQueue q n = queueSet t q { t.queueAt q with stopped := true, gang := none }) ∧
  -- turns among the queues of a wake core: by priority, and in turn among equals
  (∀ (s : State) q, s.outranked q = true ↔ ∃ p ∈ s.queues, p.1 % 6 = q % 6 ∧
    (∃ n b, s.startable p.1 = some (n, b) ∧ ¬ (at_ b 0 1 = 1 ∧ s.freeNode = none)) ∧
    let served := s.wakeTurn.atD (q % 6) 255
    ((s.queueAt q).prio < p.2.prio ∨
      (p.2.prio = (s.queueAt q).prio ∧ (p.1 + 255 - served) % 256 < (q + 255 - served) % 256)))

/-- 16_distributor.md R291, R293 and R294: how a node enters the pool, its predecessors and its predicate. -/
def Sys2Proof.Parts.NodeEntry : Prop :=
  (∀ (s : State) n ctx b q e origin prio held gang size (m : Image), (s.slotAt (at_ b 0x10 1)).images[at_ b 0x11 1]? = some m →
    ∃ preds, (∀ p, p ∈ preds ↔ ∃ y, (p, y) ∈ s.nodes ∧ y.queue = q ∧ ∃ r ∈ s.nodeRanges y, ∃ z ∈ m.tiles b,
        (∃ v, r.base ≤ v ∧ v < r.base + r.len ∧ z.base ≤ v ∧ v < z.base + z.len) ∧ (2 ≤ r.intent ∨ 2 ≤ z.intent)) ∧
      s.enterNode n ctx b q e origin prio held gang size = { s with
        nodeOrder := s.nodeOrder + 1
        nodes := s.nodes.ins n {
          ctx := ctx, slot := at_ b 0x10 1, kernel := at_ b 0x11 1, image := b, queue := q, entry := e, id := at_ b 4 4,
          origin := origin, prio := prio, age := s.cycle.toNat, order := s.nodeOrder, held := held, preds := preds, pred := none,
          gang := gang, gangSize := size, lvl := (List.range 8).map (m.extent b), lcount := m.team b, lstore := m.lstoreOf b,
          dispatched := false, dstamp := 0, cores := 0, step := 0, readyAt := none, starved := false } }) ∧
  -- a node becomes ready when nothing holds it; its predicate is read then
  (∀ (s : State), (∀ p ∈ s.nodes, ¬ Waits p.2) → s.settle = s) ∧
  (∀ (s : State) n x, let now := some s.cycle.toNat
    let va := at_ x.image 0x18 8
    s.nodes.at? n = some x → Waits x → (∀ p ∈ s.nodes, p.1 ≠ n → ¬ Waits p.2) →
    s.nodes.Pairwise (fun a b => a.1 < b.1) →
    (va = 0 → s.settle = s.setNode n { x with readyAt := now }) ∧
    (∀ bs s1, va ≠ 0 → s.distRead x.ctx va 4 = .ok (bs, s1) →
      let t := s1.setNode n { x with pred := some (ofBytes bs), readyAt := now }
      (ofBytes bs ≠ 0 → s.settle = t) ∧
      (ofBytes bs = 0 → (∀ p ∈ (t.completeNode n 2 0).nodes, ¬ Waits p.2) → s.settle = t.completeNode n 2 0)) ∧
    (∀ e, va ≠ 0 → s.distRead x.ctx va 4 = .error e →
      let t := (if e.table then s.report (.pageTable x.ctx (BitVec.ofNat 64 e.addr)) else s).completeNode n 3 e.cause
      (∀ p ∈ t.nodes, ¬ Waits p.2) → s.settle = t)) ∧
  -- a range that passes check 7 is mapped with its permissions
  (∀ (s : State) ctx (r : Range) v, s.rangeResident ctx r = none → r.base ≤ v → v < r.base + r.len → v < 0x01FFFF0000000000 →
    ∃ p e size, s.walk ctx v = .leaf p e size ∧ mapped (leafPa e size v) ∧ (r.intent ≠ 2 → e.getLsbD 2 = true) ∧
      (2 ≤ r.intent → e.getLsbD 3 = true)) ∧
  -- the launch checks, in their order
  (∀ (s : State) ctx b, let x := s.slotAt (at_ b 0x10 1)
    (x.state ≠ 2 ∨ x.ctx ≠ ctx → s.launchChecks ctx true b = some ⟨1, at_ b 0x10 1, 0⟩) ∧
    (x.state = 2 → x.ctx = ctx →
      (x.images[at_ b 0x11 1]? = none → s.launchChecks ctx true b = some ⟨2, at_ b 0x11 1, x.nk⟩) ∧
      (∀ m, x.images[at_ b 0x11 1]? = some m →
        let d := m.product b 3
        let c := m.product b 2
        let room := 8 * (256 - s.fencedCores.length)
        let grant := ((List.range 4).map (s.ctxAt ctx).grantSize).sum
        (4 < d → s.launchChecks ctx true b = some ⟨3, d, 4⟩) ∧
        (d ≤ 4 → 512 < c → s.launchChecks ctx true b = some ⟨3, c, 512⟩) ∧
        (d ≤ 4 → c ≤ 512 → room < c * d → s.launchChecks ctx true b = some ⟨3, c * d, room⟩) ∧
        (d ≤ 4 → c ≤ 512 → c * d ≤ room →
          (2 ^ 21 < m.lstoreOf b → s.launchChecks ctx true b = some ⟨4, m.lstoreOf b, 2 ^ 21⟩) ∧
          (m.lstoreOf b ≤ 2 ^ 21 → grant < m.basin → s.launchChecks ctx true b = some ⟨5, m.basin, grant⟩) ∧
          (m.lstoreOf b ≤ 2 ^ 21 → m.basin ≤ grant →
            (∀ pre r post a, m.ranges b = pre ++ r :: post → (∀ y ∈ pre, s.rangeResident ctx y = none) →
              s.rangeResident ctx r = some a → s.launchChecks ctx true b = some ⟨6, a, r.index⟩) ∧
            ((∀ y ∈ m.ranges b, s.rangeResident ctx y = none) →
              (∀ pre r post a, m.ranges b = pre ++ r :: post →
                (∀ y ∈ pre, y.pinned = true → s.notPinned ctx y = none) → r.pinned = true → s.notPinned ctx r = some a →
                s.launchChecks ctx true b = some ⟨7, a, r.index⟩) ∧
              ((∀ y ∈ m.ranges b, y.pinned = true → s.notPinned ctx y = none) → s.launchChecks ctx true b = none)))))))

/-- 14_host_queues.md R258, R262 to R265, 16_distributor.md R291, R294, R300, 21_prog_queue.md R360 and 10_consistency.md R195: what the
packets of a host queue do. A packet starts in its turn; what its start and its completion leave is part PacketProgress. -/
def Sys2Proof.Parts.PacketEvents : Prop :=
  -- SIGNAL: an add or a store
  (∀ s q, Starts (.signal q) s q 3
    (fun b => at_ b 0x10 1 ≤ 1 ∧ ZeroIn b 0x11 0x18 ∧ IsSignal s (s.queueAt q).ctx (at_ b 0x18 8) ∧ ZeroIn b 0x28 0x40)
    (fun n b t =>
      match s.signalPa (s.queueAt q).ctx (at_ b 0x18 8) with
      | some pa =>
        let v := BitVec.ofNat 64 (at_ b 0x20 8)
        (t.setRaws pa (bytesOf 8 (if at_ b 0x10 1 = 0 then signalAt t pa + v else v).toNat)).completePacket q n false
      | none => t)) ∧
  (∀ (s : State) x va pa, s.signalPa x va = some pa ↔ SignalHome s x va pa) ∧
  -- BARRIER: it waits, retires, or is aborted by a negative value
  (∀ s q n b, Turn s q n b 2 → GoodHead s q b → GoodBarrier s q b →
    let t := s.beginPacket q n b
    ((t.queueAt q).running n).map Started.bytes = some b →
    ((∀ i, i < at_ b 0x10 1 → barrierValue t q b i = 0) → Happens (.barrier q) s (t.completePacket q n false)) ∧
    ((∃ i, i < at_ b 0x10 1 ∧ barrierValue t q b i ≠ 0) → (∀ i, i < at_ b 0x10 1 → (barrierValue t q b i).msb = false) →
      Happens (.barrier q) s t) ∧
    (∀ i, Lowest (at_ b 0x10 1) (fun i => (barrierValue t q b i).msb = true) i →
      Happens (.barrier q) s
        ((t.abortQueue q n).handler q 3 (at_ b 4 4) n i (barrierValue t q b i).toNat 0))) ∧
  (∀ s q p, (s.ctxAt (s.queueAt q).ctx).frozen = false → (s.ctxAt (s.queueAt q).ctx).freeze = none →
    (s.ctxAt (s.queueAt q).ctx).failed = false → (s.queueAt q).started = [p] → p.completed = false → at_ p.bytes 0 1 = 2 →
    (∀ i, i < at_ p.bytes 0x10 1 → barrierValue s q p.bytes i = 0) →
    Happens (.barrierEvaluation q) s (s.completePacket q p.entry false)) ∧
  (∀ s q p, HostWrites s q → (s.queueAt q).running (s.queueAt q).prog = some p → at_ p.bytes 0 1 = 2 →
    Happens (.abort q) s
      ((s.abortQueue q p.entry).handler q 3 (at_ p.bytes 4 4) p.entry (at_ p.bytes 0x10 1) 0 0)) ∧
  -- COPY: it starts, and each of its chunks moves up to 4 KiB
  (∀ s q, Starts (.copy q) s q 4
    (fun b => ZeroIn b 0x10 0x18 ∧ 1 ≤ at_ b 0x28 8 ∧ at_ b 0x28 8 ≤ 2 ^ 40 ∧ ZeroIn b 0x30 0x40) (fun _ _ t => t)) ∧
  (∀ s q n p bs s1 s2, let x := s.queueAt q
    x.running n = some p → at_ p.bytes 0 1 = 4 → (s.ctxAt x.ctx).stopped = false → p.failing = false →
    let len := at_ p.bytes 0x28 8
    let m := min 4096 (len - p.copied)
    s.distRead x.ctx (at_ p.bytes 0x20 8 + p.copied) m = .ok (bs, s1) →
    s1.distWrite x.ctx (at_ p.bytes 0x18 8 + p.copied) bs = .ok s2 →
    let y := s2.queueAt q
    let t := queueSet s2 q { y with started := y.started.map (fun r => if r.entry = n then { r with copied := p.copied + m } else r) }
    Happens (.copyPacketChunk q n) s (if len ≤ p.copied + m then t.completePacket q n false else t)) ∧
  -- a COPY that faults: its HANDLER comes before its csig moves, and while the HANDLER waits the COPY does
  (∀ s q n p (e : PlaceErr), let x := s.queueAt q
    x.running n = some p → at_ p.bytes 0 1 = 4 → (s.ctxAt x.ctx).stopped = false → p.failing = false →
    let m := min 4096 (at_ p.bytes 0x28 8 - p.copied)
    (s.distRead x.ctx (at_ p.bytes 0x20 8 + p.copied) m = .error e ∨
      ∃ bs s1, s.distRead x.ctx (at_ p.bytes 0x20 8 + p.copied) m = .ok (bs, s1) ∧
        s1.distWrite x.ctx (at_ p.bytes 0x18 8 + p.copied) bs = .error e) →
    let u := if e.table then s.report (.pageTable x.ctx (BitVec.ofNat 64 e.addr)) else s
    let t := u.handler q 4 (at_ p.bytes 4 4) n e.cause e.addr p.copied
    let y := t.queueAt q
    (t.hpend q = false → Happens (.copyPacketChunk q n) s
      (if at_ p.bytes 1 1 % 2 = 1 then t.abortQueue q n else t.completePacket q n true)) ∧
    (t.hpend q = true → Happens (.copyPacketChunk q n) s
      (queueSet t q { y with started := y.started.map (fun r => if r.entry = n then { r with failing := true } else r) }))) ∧
  (∀ s q n p, let x := s.queueAt q
    x.running n = some p → at_ p.bytes 0 1 = 4 → (s.ctxAt x.ctx).stopped = false → p.failing = true → s.hpend q = false →
    Happens (.copyPacketChunk q n) s
      (if at_ p.bytes 1 1 % 2 = 1 then s.abortQueue q n else s.completePacket q n true)) ∧
  -- ADMIT: a FREE sequence entry is written from the packet and its slot; ASTEP stays (16_distributor.md Table 6)
  (∀ s q, Starts (.admission q) s q 5
    (fun b =>
      let x := s.slotAt (at_ b 0x12 1)
      at_ b 0x10 2 ≤ 4095 ∧ (s.seqWord (at_ b 0x10 2) 0).toNat / 2 ^ 62 = 0 ∧
      at_ b 0x12 1 ≤ 63 ∧ x.state = 2 ∧ x.ctx = (s.queueAt q).ctx ∧ ZeroIn b 0x13 0x18 ∧ at_ b 0x18 8 % 8 = 0 ∧ ZeroIn b 0x24 0x40)
    (fun n b t =>
      let e := at_ b 0x10 2
      let slot := at_ b 0x12 1
      let x := s.slotAt slot
      (t.setSeq e 0 ([BitVec.ofNat 64 (2 ^ 62 + slot * 2 ^ 56 + x.nstop % 32 * 2 ^ 51 + (s.queueAt q).ctx % 2 ^ 16),
        BitVec.ofNat 64 (at_ b 0x18 8), BitVec.ofNat 64 (at_ b 0x20 4), s.seqWord e 3] ++
        (List.range 8).map (fun i => BitVec.ofNat 64 (x.stops.getD (2 * i) 0 + x.stops.getD (2 * i + 1) 0 * 2 ^ 32)))).completePacket
          q n false)) ∧
  (∀ (s : State) e ws, ws.length = 12 → let t := s.setSeq e 0 ws
    t = { s with seqs := t.seqs } ∧ (∀ j, j < 12 → t.seqWord e j = ws.getD j 0) ∧
    ∀ f j, f ≠ e → j < 12 → t.seqWord f j = s.seqWord f j) ∧
  -- FENCE: it retires when the context has nothing of its scope under way that was there when it started
  (∀ s q, (s.queueAt q).started = [] → Starts (.fencePacket q) s q 8
    (fun b => (at_ b 0x10 1 = 3 ∨ at_ b 0x10 1 = 4) ∧ ZeroIn b 0x11 0x40)
    (fun n b t => if t.ctxFencePending (s.queueAt q).ctx (at_ b 0x10 1) (s.ctxAt (s.queueAt q).ctx).collCount then t
      else t.completePacket q n false)) ∧
  (∀ s q p, (s.queueAt q).started = [p] → p.completed = false → at_ p.bytes 0 1 = 8 →
    s.ctxFencePending (s.queueAt q).ctx (at_ p.bytes 0x10 1) p.bound = false →
    Happens (.fencePacket q) s (s.completePacket q p.entry false)) ∧
  (∀ (s : State) ctx scope bound, s.ctxFencePending ctx scope bound = true ↔
    (∃ m ∈ s.multicasts, (s.lcAt m.writer).ctx = ctx) ∨
    (scope = 4 ∧ ∃ p ∈ (s.ctxAt ctx).colls, p.2.state = 1 ∧ p.2.order < bound)) ∧
  -- a packet of a type that a host may not write; a HANDLER that the device appended there completes
  (∀ s q n b, s.startable q = some (n, b) → s.outranked q = false → at_ b 0 1 = 0 ∨ 9 ≤ at_ b 0 1 →
    Happens (.handler q) s
      (if at_ b 0 1 = 9 ∧ s.handlers.at? ((s.queueAt q).entryPa n) = some b then (s.beginPacket q n b).completePacket q n false
       else (s.beginPacket q n b).failPacket q n 1 0 0 0)) ∧
  -- LAUNCH: a checked packet puts its node into the pool; a failed check rejects it; while the pool is full it waits
  (∀ s q n b, Turn s q n b 1 → at_ b 1 1 ≤ 3 → at_ b 2 1 = 4 → at_ b 3 1 = 0 →
    (at_ b 8 8 = 0 ∨ IsSignal s (s.queueAt q).ctx (at_ b 8 8)) → GoodLaunch b → 4 ≤ sub32 (s.queueAt q).latch n →
    let m := s.launchBytes q n
    let x := s.queueAt q
    let c := at_ b 0x12 2
    let t (gang : Option (Nat × Nat × Nat)) : State := (queueSet s q { x with gang := gang }).beginPacket q n b
    let enters (gang : Option (Nat × Nat × Nat)) (i : Nat) (g : Option Nat) (size : Nat) : Prop :=
      Happens (.launch q) s (((t gang).enterNode i x.ctx m q n (at_ b 1 1) x.prio false g size).settle)
    let rejects (gang : Option (Nat × Nat × Nat)) (e : Reject) : Prop :=
      Happens (.launch q) s ((t gang).failPacket q n 2 e.cause e.req e.avail)
    (c ≤ 1 → ∀ e, s.launchChecks x.ctx true m = some e → rejects none e) ∧
    (s.launchChecks x.ctx true m = none → (∀ i, i < 4096 → s.nodes.at? i ≠ none) →
      (c ≤ 1 → Passes (.launch q) s)) ∧
    (s.launchChecks x.ctx true m = none → ∀ i, Lowest 4096 (fun i => s.nodes.at? i = none) i →
      (c ≤ 1 → enters none i none 0) ∧
      -- check 9: the first member of a gang finds the others behind it, and room for all of them
      (2 ≤ c → x.gang = none →
        let ms := s.gangAhead q c c n
        let total := (ms.map s.teamOf).sum
        let next := if ms.length ≤ 1 then none else some (s.nodeOrder, ms.length - 1, 0)
        (c ≤ ms.length → total ≤ 8 * (256 - s.fencedCores.length) → enters next i (some s.nodeOrder) c) ∧
        (ms.length < c ∨ 8 * (256 - s.fencedCores.length) < total → rejects next ⟨8, ms.length, c⟩)) ∧
      -- a later member joins those that have entered
      (∀ g left, 2 ≤ c → x.gang = some (g, left, 0) →
        (s.nodes.filter (fun p => p.2.gang == some g && p.2.queue == q)).length + left = c →
        enters (if left ≤ 1 then none else some (g, left - 1, 0)) i (some g) c))) ∧
  -- a failing host access stops the queue
  (∀ s q status pa n b, 0x4000000000000 ≤ pa → pa < 0x8000000000000 → s.startable q = some (n, b) →
    (∃ i, i < min (if at_ b 0 1 = 1 then 4 else 1) (sub32 (s.queueAt q).latch n) ∧
      (s.queueAt q).entryPa (n + i) ≤ pa ∧ pa < (s.queueAt q).entryPa (n + i) + 64) →
    Happens (.hostAccessFailure q status pa false) s
      ((queueSet s q { s.queueAt q with stopped := true }).handler q 6 0 n status pa 0)) ∧
  -- a failing payload access completes its packet as failed: of a COPY, and of the image that a THAW reads
  (∀ s q status pa, let x := s.queueAt q
    0x4000000000000 ≤ pa → pa < 0x8000000000000 → (s.ctxAt x.ctx).freeze = none → (s.ctxAt x.ctx).stopped = false →
    (∀ p, x.started.find? (s.copyTouches x.ctx pa) = some p →
      Happens (.hostAccessFailure q status pa true) s (s.failPacket q p.entry 6 status pa 0)) ∧
    (x.started.find? (s.copyTouches x.ctx pa) = none → ∀ n b, Turn s q n b 7 → GoodHead s q b → GoodThaw b →
      at_ b 0x18 8 ≤ pa → pa < at_ b 0x18 8 + max 4096 (s.im (at_ b 0x18 8) 8 8) →
      Happens (.hostAccessFailure q status pa true) s ((s.beginPacket q n b).failPacket q n 6 status pa 0)))

/-- Three parts: PacketProgress, NodeEntry and PacketEvents.

14_host_queues.md R261 to R266, R372: a packet that is read in its turn is recorded as started; at a completion its csig moves,
PROG moves over every completed packet at the head of the ring and is written to PADDR, and MSI-X is sent when the packet asks for
it; a HANDLER is appended to the sibling, or waits while it is full; a packet that fails with B set aborts its queue.

16_distributor.md R291, R293 and R294: how a node enters the pool, its predecessors and its predicate.

14_host_queues.md R258, R262 to R265, 16_distributor.md R291, R294, R300, 21_prog_queue.md R360 and 10_consistency.md R195: what the
packets of a host queue do. A packet starts in its turn; what its start and its completion leave is part PacketProgress. -/
def Obligations.PacketEvents : Prop := Parts.PacketProgress ∧ Parts.NodeEntry ∧ Parts.PacketEvents


namespace Sys2Proof.Spec

/-- A SLOT entry `b` of an image fits the device: its slot is LOADED for context `x`, with as many kernels (18_context_image.md
Table 6). -/
def SlotFits (s : State) (x : Nat) (b : List Byte) : Prop :=
  (s.slotAt (at_ b 0 1)).state = 2 ∧ (s.slotAt (at_ b 0 1)).ctx = x ∧ (s.slotAt (at_ b 0 1)).nk = at_ b 1 1

/-- SEQ entry `b` of an image finds its entry of the sequence table in use: not FREE, nor held by the frozen context `x` itself. -/
def SeqBusy (s : State) (x : Nat) (b : List Byte) : Prop :=
  let w := (s.seqWord (at_ b 0 2) 0).toNat
  w / 2 ^ 62 ≠ 0 ∧ ¬ ((s.ctxAt x).frozen = true ∧ w % 2 ^ 16 = x)

/-- QUEUE entry `b` of an image does not fit the queue that it names, for the THAW of queue `q` in context `x`. -/
def QueueUnfit (s : State) (x q : Nat) (b : List Byte) : Prop :=
  let y := s.queueAt (at_ b 0 1)
  y.enabled = false ∨ y.ctx ≠ x ∨ y.isHandler ≠ (BitVec.ofNat 64 (at_ b 8 8)).getLsbD 62 ∨ at_ b 0 1 = q

/-- Logical core `l` after a stop or a restart that changes where it is: its place, its pages, the progress that its units keep,
and its stalls. -/
def Moved (l m : LCore) : Prop :=
  m = { l with
    loc := m.loc, lsmap := m.lsmap, lsused := m.lsused, saved := m.saved, vprog := m.vprog, vpos := m.vpos
    mxProg := { l.mxProg with started := m.mxProg.started }
    rtProg := { l.rtProg with started := m.rtProg.started }
    ceProg := { l.ceProg with started := m.ceProg.started }
    geProg := { l.geProg with started := m.geProg.started }
    ap := { l.ap with stall := m.ap.stall, stallCycles := m.ap.stallCycles }
    ep := { l.ep with stall := m.ep.stall, stallCycles := m.ep.stallCycles } }

end Sys2Proof.Spec

/-- 18_context_image.md R323 to R327, R329, R334 and 15_sluice.md R279: a FREEZE stops its context at once when nothing keeps
it, waits for acknowledgements, and writes its image; a THAW checks the image that it names, and restores it. -/
def Sys2Proof.Parts.FreezeSteps : Prop :=
  (∀ s q, let ctx := (s.queueAt q).ctx
    (s.ctxAt ctx).freeze = none →
    Starts (.freeze q) s q 6
      (fun b => ZeroIn b 0x10 0x18 ∧ at_ b 0x18 8 % 65536 = 0 ∧ s.imageSizeOf ctx ≤ at_ b 0x20 8 ∧ ZeroIn b 0x28 0x40)
      (fun n _ t =>
        if (s.ctxAt ctx).frozen then t.setCtx ctx { t.ctxAt ctx with freeze := some ⟨q, n, true, 0, true⟩ }
        else
          let u := (t.setFrozen ctx true).setCtx ctx { t.ctxAt ctx with freeze := some ⟨q, n, false, 0, false⟩ }
          if u.canSwapOut ctx then u.freezeStop ctx ⟨q, n, false, 0, false⟩ else u)) ∧
  (∀ s q n b, let ctx := (s.queueAt q).ctx
    (s.ctxAt ctx).freeze = none → Turn s q n b 6 → GoodHead s q b → ZeroIn b 0x10 0x18 → at_ b 0x18 8 % 65536 = 0 →
    at_ b 0x20 8 < s.imageSizeOf ctx → Happens (.freeze q) s ((s.beginPacket q n b).failPacket q n 1 0x20 0 0)) ∧
  (∀ s q z, let ctx := (s.queueAt q).ctx
    (s.ctxAt ctx).freeze = some z → z.swapped = false → z.queue = q → s.canSwapOut ctx = true →
    Happens (.freeze q) s (s.freezeStop ctx z)) ∧
  (∀ s ctx z, (s.ctxAt ctx).freeze = some z → z.swapped = true → z.drained = false → z.until_ ≤ s.slTicks →
    Happens (.freezeDrainTimeout ctx) s
      ((s.sendAll ctx 4).setCtx ctx { (s.sendAll ctx 4).ctxAt ctx with freeze := some { z with drained := true } })) ∧
  (∀ s ctx z p, let c := s.ctxAt ctx
    c.freeze = some z → z.drained = true → c.claims = [] → c.waiting = [] →
    (∀ m ∈ s.multicasts, (s.lcAt m.writer).ctx ≠ ctx) → (s.queueAt z.queue).running z.entry = some p →
    let t := (s.setCtx ctx { c with freeze := none, frozen := true }).completePacket z.queue z.entry false
    Happens (.freezeImageWritten ctx) s (s.writeImage t ctx (at_ p.bytes 0x18 8))) ∧
  (∀ s q n b, Turn s q n b 7 → GoodHead s q b → GoodThaw b →
    let t := s.beginPacket q n b
    (t.thawCheck q (at_ b 0x18 8) (at_ b 0x20 2) = none →
      Happens (.thaw q) s (t.restore q n (at_ b 0x18 8) (at_ b 0x20 2))) ∧
    (∀ e, t.thawCheck q (at_ b 0x18 8) (at_ b 0x20 2) = some e →
      Happens (.thaw q) s (t.failPacket q n 2 e.cause e.req e.avail))) ∧
  -- the image: its header, its directory, and its sections from 4 KiB boundaries on, where no storage format covers it
  (∀ (s t : State) ctx pa, t.formats = [] →
    let u := s.writeImage t ctx pa
    let xs := s.sections ctx
    u = { t with mem := u.mem } ∧
    u.rawBytes pa 6 = bytesOf 4 0x43564844 ++ bytesOf 2 0x0100 ∧
    u.rawBytes (pa + 8) 12 = bytesOf 8 (s.imageSizeOf ctx) ++ bytesOf 2 ctx ++ bytesOf 2 xs.length ∧
    (∀ i o x, (place4k 4096 xs)[i]? = some (o, x) → o % 4096 = 0 ∧ 4096 ≤ o ∧ o + x.size ≤ s.imageSizeOf ctx ∧
      u.rawBytes (pa + 0x100 + 32 * i) 32 =
        bytesOf 2 x.kind ++ bytesOf 2 1 ++ bytesOf 4 x.count ++ bytesOf 8 o ++ bytesOf 8 x.size ++ bytesOf 4 x.entsize ++ bytesOf 4 0 ∧
      u.rawBytes (pa + o) x.size = padTo x.size (s.sectionBody t ctx x.kind)) ∧
    (∀ p, outside pa (s.imageSizeOf ctx) p → u.rawByte p = t.rawByte p) ∧
    (∀ j k, (s.coreKeys ctx)[j]? = some k →
      ∃ base, ((s.sectionBody t ctx 1).drop (32768 * j)).take 32768 = (s.lcAt k).record base))

/-- 18_context_image.md R324 (step 2), R325 and 15_sluice.md R279: what a context is once its FREEZE has stopped it. -/
def Sys2Proof.Parts.StoppedContext : Prop :=
  ∀ (s : State) ctx z, let t := s.freezeStop ctx z
    -- the wait for acknowledgements is the largest RTO of its flows, or 2^24 when there is none
    (∃ wait, (t.ctxAt ctx).freeze =
        some { z with swapped := true, until_ := s.slTicks + wait, drained := decide (s.sluicesOf ctx = []) } ∧
      (s.sluicesOf ctx = [] → wait = 0) ∧
      (∀ n f, (s.slAt n).bound = true → (s.slAt n).ctx = ctx → f < 512 → (s.slAt n).flowRto f ≤ wait) ∧
      (s.sluicesOf ctx ≠ [] → wait = 2 ^ 24 ∨ ∃ n f, (s.slAt n).bound = true ∧ (s.slAt n).ctx = ctx ∧ f < 512 ∧
        (s.slAt n).flowRto f = wait)) ∧
    -- its logical cores are on no core, with their registers, queues and engines as they were, and with their pages saved
    (∀ k l, s.lcores.at? k = some l → l.ctx = ctx → l.core < 256 →
      Moved l (t.lcAt k) ∧ (t.lcAt k).loc = .frozen ∧
      (∀ c, c < 256 → k ∉ (t.coreAt c).rot ∧ (t.coreAt c).active ≠ some k ∧ (t.coreAt c).shadow ≠ some k) ∧
      ∀ v, v < 128 → (t.lcAt k).lsPresent v = false ∧ (t.lcAt k).lsAllotted v = l.lsAllotted v ∧
        (l.lsPresent v = true → ∀ o, o < 16384 →
          (t.lcAt k).saved.atD (16384 * v + o) 0 = s.rawByte (paLocal l.core + l.lsPage v * 16384 + o))) ∧
    -- its flows are on HOLD
    (∀ n f, (s.slAt n).bound = true → (s.slAt n).ctx = ctx → f < 512 → ((t.slAt n).flow f 0).getLsbD 62 = true) ∧
    -- nothing else of another context differs, and of memory only save areas
    (∀ k l, s.lcores.at? k = some l → l.ctx ≠ ctx → t.lcAt k = l) ∧
    (∀ x, x ≠ ctx → t.ctxAt x = s.ctxAt x) ∧ t.queues = s.queues ∧ t.nodes = s.nodes ∧
    (∀ p, (∀ k, outside (paSave k) 32768 p) → t.rawByte p = s.rawByte p)

/-- 18_context_image.md R334, Table 6: the first check of a THAW that fails decides its cause. -/
def Sys2Proof.Parts.ThawChecks : Prop :=
  ∀ (s : State) q pa limit, let ctx := (s.queueAt q).ctx
    let c := s.ctxAt ctx
    let m := s.imgAt pa
    let ts := s.teamsIn m
    let w := min limit s.freeCores.length
    let answers (e : Option Reject) : Prop := s.thawCheck q pa limit = e
    let slots := (∀ b ∈ s.entriesOf m 15, SlotFits s ctx b) ∧
      ∀ t ∈ ts, (s.slotAt t.slot).state = 2 ∧ (s.slotAt t.slot).ctx = ctx
    let places := (s.thawPlaces w (s.groupsIn ts)).isSome = true
    let seqs := ∀ b ∈ s.entriesOf m 14, ¬ SeqBusy s ctx b
    let frees := (s.freeSluices ctx c.frozen).length
    let basins := ∀ b ∈ s.varOf m 10 8, at_ b 16 8 ≤ c.grantSize (at_ b 8 1)
    let staging := s.stagingShort ctx (s.tnsIn m (s.sluiceMap m ctx c.frozen)) = none
    let idle := c.frozen = true ∨ (s.holdings ctx = 0 ∧ s.seqsOf ctx = [] ∧ c.runningColls = [])
    let queues := c.frozen = true ∨ ∀ b ∈ s.entriesOf m 13, ¬ QueueUnfit s ctx q b
    (s.im pa 0 4 ≠ 0x43564844 → answers (some ⟨9, 0, 0⟩)) ∧
    (s.im pa 0 4 = 0x43564844 → s.im pa 4 2 ≠ 0x0100 → answers (some ⟨9, 4, 0⟩)) ∧
    (∀ o, s.badImage pa = some o → answers (some ⟨9, o, 0⟩)) ∧
    (s.badImage pa = none →
      (∀ pre b post, s.entriesOf m 15 = pre ++ b :: post → (∀ y ∈ pre, SlotFits s ctx y) → ¬ SlotFits s ctx b →
        answers (some ⟨1, at_ b 0 1, 0⟩)) ∧
      ((∀ b ∈ s.entriesOf m 15, SlotFits s ctx b) → ∀ pre t post, ts = pre ++ t :: post →
        (∀ y ∈ pre, (s.slotAt y.slot).state = 2 ∧ (s.slotAt y.slot).ctx = ctx) →
        ¬ ((s.slotAt t.slot).state = 2 ∧ (s.slotAt t.slot).ctx = ctx) → answers (some ⟨1, t.slot, 0⟩)) ∧
      (slots → ¬ places → answers (some ⟨3, (ts.map TeamIn.lcount).sum, 8 * w⟩)) ∧
      (slots → places →
        (∀ pre b post, s.entriesOf m 14 = pre ++ b :: post → (∀ y ∈ pre, ¬ SeqBusy s ctx y) → SeqBusy s ctx b →
          answers (some ⟨17, at_ b 0 2, 0⟩)) ∧
        (seqs → frees < m.count 12 → answers (some ⟨18, m.count 12, frees⟩)) ∧
        (seqs → m.count 12 ≤ frees →
          (∀ pre b post, s.varOf m 10 8 = pre ++ b :: post → (∀ y ∈ pre, at_ y 16 8 ≤ c.grantSize (at_ y 8 1)) →
            c.grantSize (at_ b 8 1) < at_ b 16 8 → answers (some ⟨5, at_ b 16 8, c.grantSize (at_ b 8 1)⟩)) ∧
          (∀ need room, basins → s.stagingShort ctx (s.tnsIn m (s.sluiceMap m ctx c.frozen)) = some (need, room) →
            answers (some ⟨5, need, room⟩)) ∧
          (basins → staging → ¬ idle → answers (some ⟨19, s.holdings ctx, 0⟩)) ∧
          (basins → staging → idle → ∀ pre b post, c.frozen = false → s.entriesOf m 13 = pre ++ b :: post →
            (∀ y ∈ pre, ¬ QueueUnfit s ctx q y) → QueueUnfit s ctx q b → answers (some ⟨20, at_ b 0 1, 0⟩)) ∧
          (basins → staging → idle → queues →
            (m.count 3 = 0 → answers none) ∧
            (∀ b post e, s.entriesOf m 3 = b :: post → s.launchChecks ctx false (b.take 256) = some e → answers (some e))))))

/-- 18_context_image.md R328, R330, R335, R337 and 22_prog_fabric.md R369: what a THAW restores: the tables of its context, the
registers of its logical cores from their records, and where they run. -/
def Sys2Proof.Parts.RestoredContext : Prop :=
  -- after it the context and its queues are not frozen
  (∀ (s : State) q n pa limit, let t := s.restore q n pa limit
    let ctx := (s.queueAt q).ctx
    (t.ctxAt ctx).frozen = false ∧ (t.ctxAt ctx).freeze = none ∧ (t.ctxAt ctx).triggers = [] ∧
    ∀ r, (t.queueAt r).enabled = true → (t.queueAt r).ctx = ctx → (t.queueAt r).frozen = false) ∧
  -- its descriptors, with their ports under the port map, its listed ranges and its log
  (∀ (s : State) ctx m mp, let c := (s.thawTables ctx m mp).ctxAt ctx
    (∀ d, m.sec 6 = some d → ∀ i, i < 32768 →
      let w := BitVec.ofNat 64 (ofBytes (s.physBytes (m.entryPa 6 0 + 8 * i) 8))
      c.tns.atD i 0 = if i % 8 = 0 then
          (w &&& ~~~ ((63 : Word) <<< 46)) ||| BitVec.ofNat 64 (mapPort mp (w.toNat / 2 ^ 46 % 64) % 64 * 2 ^ 46)
        else w) ∧
    (m.sec 6 = none → c.tns = []) ∧
    (∀ d, m.sec 7 = some d → ∀ i, i < 192 → c.ranges.atD i 0 = BitVec.ofNat 64 (ofBytes (s.physBytes (m.entryPa 7 0 + 8 * i) 8))) ∧
    (m.sec 7 = none → c.ranges = []) ∧
    c.dlPtr = s.im m.pa 0x28 8 ∧ c.dlArmed = decide (s.im m.pa 0x34 1 % 2 = 1) ∧ c.dlE = decide (s.im m.pa 0x34 1 / 2 % 2 = 1)) ∧
  (∀ mp p, (∀ x ∈ mp, x.1 ≠ p / 3) → mapPort mp p = p) ∧
  (∀ pre n n' post p, p / 3 = n → (∀ x ∈ pre, x.1 ≠ n) → mapPort (pre ++ (n, n') :: post) p = 3 * n' + p % 3) ∧
  -- a logical core from CORE entry `j`
  (∀ (s : State) ctx n i kern m j c old, let l := s.lcoreIn ctx n i kern m j c old
    let at_ (o : Nat) : Word := s.coreWord m j (o / 8)
    l.ctx = ctx ∧ l.node = n ∧ l.lcid = i ∧ l.kern = kern ∧ l.loc = .spilled c ∧
    (∀ r, 1 ≤ r → r < 24 → l.reg false r = at_ (0x18 + 8 * r) ∧ l.reg true r = at_ (0xD8 + 8 * r)) ∧
    l.ep.pc = at_ 0x10 ∧ l.ap.halted = (at_ 0).getLsbD 32 ∧ l.ep.halted = (at_ 0).getLsbD 33 ∧
    ((at_ 0).getLsbD 35 = false → (at_ 0x4C8).getLsbD 0 = false → l.ap.pc = at_ 0x08) ∧
    (∀ d, d < 16 → l.descs.atD d 0 =
      BitVec.ofNat 128 ((at_ (0x230 + 16 * d)).toNat + (at_ (0x238 + 16 * d)).toNat % 2 ^ 26 * 2 ^ 64)) ∧
    (∀ r, r < 43 → l.launch.atD (launchSel r) 0 = at_ (0x330 + 8 * r)) ∧
    l.fpmode = at_ 0x488 &&& 0x1F1 ∧ l.amax = at_ 0x490 &&& 0x17FFFFFFF ∧ l.tcause = at_ 0x4B0 &&& 0xFFFFF ∧
    l.tepc = at_ 0x4B8 ∧ l.taddr = at_ 0x4C0 ∧ l.tstatus = at_ 0x4C8 &&& 7 ∧ l.tvec = at_ 0x4D0 &&& ~~~ 3 ∧
    l.tscratch = at_ 0x4D8 ∧ l.mxmask = at_ 0x4F0 ∧
    (∀ r, r < 10 → l.tokens r = (at_ 0x518).toNat / 16 ^ r % 16) ∧
    (∀ r, r < 8 → l.queue r = (List.range (min 16 ((at_ 0x528).toNat / 256 ^ r % 256))).map (fun e => at_ (0x900 + 128 * r + 8 * e))) ∧
    l.cq = (List.range (min 32 ((at_ 0x530).toNat % 2 ^ 32))).map (fun e => (at_ 0x530).getLsbD (32 + e)) ∧
    (∀ f, f < 64 → f < kern.flags → l.flags.atD f 0 = at_ (0x2800 + 8 * f)) ∧
    (∀ e, e < 4096 → (l.acc.atD e 0).toNat = (at_ (0x4000 + 8 * (e / 2))).toNat / 2 ^ (32 * (e % 2)) % 2 ^ 32) ∧
    (∀ v, v < 128 → l.lsAllotted v = (s.coreMap m j v).testBit 31 ∧ l.lsPresent v = false) ∧
    ((at_ 0).getLsbD 34 = false → l.esc = none)) ∧
  -- the one team of an image without nodes in the pool, Sluice cores and triggers, on a context that holds nothing
  (∀ (s : State) q n pa limit cs x, let ctx := (s.queueAt q).ctx
    let m := s.imgAt pa
    let u := s.thawTables ctx m (s.sluiceMap m ctx false)
    let t := s.restore q n pa limit
    (s.ctxAt ctx).frozen = false → s.lcoresOf ctx = [] → s.sluicesOf ctx = [] → m.count 3 = 0 → m.count 11 = 0 → m.count 12 = 0 →
    s.teamsIn m = [x] → s.nodes.at? x.node = none → (∀ p ∈ s.nodes, ¬ Waits p.2 ∧ p.2.gang = none) →
    s.thawPlaces (min limit s.freeCores.length) (s.groupsIn [x]) = some cs → cs.length = x.lcount →
    (t.nodes.at? x.node).map (fun y => (y.ctx, y.dispatched, y.lcount)) = some (ctx, true, x.lcount) ∧
    ∀ i, i < x.lcount →
      let kern := ((s.slotAt x.slot).images[x.kernel]?).elim Kern.zero (kernOf x.slot x.kernel)
      let l := u.lcoreIn ctx x.node i kern m (x.first + i) (cs.getD i 0) none
      let k := x.node * 65536 + i
      x.lcount ≤ 65536 → l.ceHeld = none → l.geHeld = none → Moved l (t.lcAt k) ∧ (t.lcAt k).core = cs.getD i 0)

/-- Four parts: FreezeSteps, StoppedContext, ThawChecks and RestoredContext.

18_context_image.md R323 to R327, R329, R334 and 15_sluice.md R279: a FREEZE stops its context at once when nothing keeps
it, waits for acknowledgements, and writes its image; a THAW checks the image that it names, and restores it.

18_context_image.md R324 (step 2), R325 and 15_sluice.md R279: what a context is once its FREEZE has stopped it.

18_context_image.md R334, Table 6: the first check of a THAW that fails decides its cause.

18_context_image.md R328, R330, R335, R337 and 22_prog_fabric.md R369: what a THAW restores: the tables of its context, the
registers of its logical cores from their records, and where they run. -/
def Obligations.FreezeAndThaw : Prop :=
  Parts.FreezeSteps ∧ Parts.StoppedContext ∧ Parts.ThawChecks ∧ Parts.RestoredContext

namespace Sys2Proof.Spec

/-! ## Requests of firmware -/

/-- The request `op` is pending in the control mailbox (14_host_queues.md R267): STATUS is BUSY, and OP is `op`. -/
abbrev Asked (s : State) (op : Nat) : Prop := boxField s.control 4 4 = 1 ∧ boxField s.control 0 1 = op

/-- A request of the slot mailbox is pending (16_distributor.md R289), for slot `n` of context `ctx`. -/
abbrev SlotAsked (s : State) (op n ctx : Nat) : Prop :=
  boxField s.slotbox 0x20 4 = 1 ∧ boxField s.slotbox 1 1 = op ∧ boxField s.slotbox 0 1 = n ∧ boxField s.slotbox 2 2 = ctx

/-- Event `i` carries out the pending request: it succeeds with the state `t` and the result `v`. -/
def Done (i : Instr) (s t : State) (v : Nat) : Prop := ∃ u, Happens i s u ∧ Answered t u v

/-- Event `i` turns the pending request down with cause `c`, and changes nothing else (R267). -/
def Fails (i : Instr) (s : State) (c : Nat) : Prop := ∃ u, Happens i s u ∧ Refused s u c

/-- Operand `n` of the request, and the context that it names. -/
def opA (s : State) (n : Nat) : Nat := boxField s.control (0x18 + 8 * n) 8
def opCtx (s : State) : Nat := boxField s.control 2 2

/-- The grants asked for are multiples of 128 bytes, inside each die's carve-out (R268, 08_memory.md R161) below the staging of
its ports (17_collectives.md R308; that staging lies at the top is the model's choice: log entry 50). -/
abbrev GrantsFit (s : State) : Prop :=
  ∀ d, d < 4 → (s.opGrants.atD (2 * d) 0) % 128 = 0 ∧ (s.opGrants.atD (2 * d + 1) 0) % 128 = 0 ∧
    s.opGrants.atD (2 * d) 0 + s.opGrants.atD (2 * d + 1) 0 ≤ s.carveouts.atD d 0 - s.stagingOf d

/-- Every reserved field and every operand that is not used is zero (R267): the flags but bit 0, the operands from `a` on, the
grants unless they are used, and the block from byte `block` on. A byte that is not listed is zero. -/
abbrev Formed (s : State) (a : Nat) (grants : Bool) (block : Nat) : Prop :=
  boxField s.control 1 1 < 2 ∧ ∀ p ∈ s.control, ¬ (0x18 + 8 * a ≤ p.1 ∧ p.1 < 0x40) ∧
    (grants = false → ¬ (0x40 ≤ p.1 ∧ p.1 < 0x80)) ∧ ¬ (0x80 + block ≤ p.1 ∧ p.1 < 0x100)

/-- Context `ctx` exists. -/
abbrev Known (s : State) (ctx : Nat) : Prop := (s.ctxs.at? ctx).isSome = true

/-- The bits of a page-table entry that MAP keeps: LE, D and A (R268). -/
def keptBits : Word := 0x0800000000000060
/-- An entry is a valid leaf; one with LE set to `e`. -/
abbrev isLeaf (w : Word) : Bool := w.getLsbD 0 && w.getLsbD 7
def withLe (w : Word) (e : Bool) : Word := (w &&& 0xF7FFFFFFFFFFFFFF) ||| (if e then 0x0800000000000000 else 0)

/-- What refuses a DESTROY, and a GRANT (R268). -/
def InUse (s : State) (ctx : Nat) : Prop :=
  (∃ p ∈ s.queues, p.2.enabled = true ∧ p.2.ctx = ctx) ∨ (∃ p ∈ s.slots, p.2.state = 2 ∧ p.2.ctx = ctx) ∨
  (∃ p ∈ s.sluices, p.2.bound = true ∧ p.2.ctx = ctx) ∨ (∃ p ∈ s.nodes, p.2.ctx = ctx)
def GrantBusy (s : State) (ctx : Nat) : Prop :=
  (∃ p ∈ s.lcores, p.2.ctx = ctx ∧ p.2.loc ≠ .frozen) ∨ (∃ i ∈ (s.ctxAt ctx).tnsListed, ((s.ctxAt ctx).tdesc i).v = true) ∨
  (∃ p ∈ s.queues, p.2.ctx = ctx ∧ ∃ r ∈ p.2.started, r.completed = false) ∨ (∃ p ∈ (s.ctxAt ctx).colls, p.2.state = 1) ∨
  (∃ p ∈ s.sluices, p.2.bound = true ∧ p.2.ctx = ctx ∧ ∃ x ∈ p.2.transfers, x.2.state = 1)

/-- The SPDM answer `a` is sent (19_counters.md R354). -/
def Replies (i : Instr) (a : State → Spdm) : Prop := ∀ s, Happens i s { s with spdm := s.spdm ++ [a s] }

/-- The slot that GO set LOADING is EMPTY again (16_distributor.md R289, R290). -/
def unloading (s : State) : State :=
  { s with slots := s.slots.map (fun p => if p.2.state = 1 then (p.1, { p.2 with state := 0 }) else p) }

/-- `t` with STATUS FAILED in the slot mailbox, and the HANDLER of the failure, cause SLOT-LOAD, owed to the queue that the request
names (R289, R292). -/
def slotFailed (s : State) (cause req avail : Nat) (t : State) : Prop :=
  ∃ m, Filled s.slotbox m 0x20 (bytesOf 4 3) ∧
    t = ({ s with slotbox := m }).owe (boxField s.slotbox 6 1) 256 (s.queueAt (boxField s.slotbox 6 1)).ctx
      (handlerIs 7 0 0 0 cause req avail s.cycle)

/-- Field `n` bytes wide at `o` of an image. -/
abbrev imgField (b : List Byte) (o n : Nat) : Nat := ofBytes ((b.drop o).take n)

/-- `u` differs from `s` in the memory, the frames and the free values taken. -/
def OnlyMapped (s u : State) : Prop := u = { s with mem := u.mem, frames := u.frames, free := u.free }

end Sys2Proof.Spec

/-! ## Firmware -/

/-- 14_host_queues.md R267, R268 and 18_context_image.md R331: CREATE, DESTROY, MAP and GRANT, each with its first cause of
refusal. That a leaf which MAP creates, in a table that it links as well, takes the LE of R331 is the model's reading (log entry 58). -/
def Sys2Proof.Parts.ContextRequests : Prop :=
  (∀ (s : State) i, i < 8 → s.opGrants.atD i 0 = boxField s.control (0x40 + 8 * i) 8) ∧
  (∀ s, Asked s 1 →
    let ok := Formed s 2 true 0 ∧ opA s 0 % 65536 = 0 ∧ opA s 0 < 2 ^ 39 ∧ opA s 1 % 131072 = 0 ∧
      opA s 1 < 0x01FFFE0000000000 ∧ GrantsFit s
    (¬ ok → Fails .create s 1) ∧
    (ok → Known s (opCtx s) → Fails .create s 2) ∧
    (ok → s.ctxs.at? (opCtx s) = none → Config.canAllocate s.free = false → Fails .create s 4) ∧
    -- the context, and its sync-object table in 32 fresh pages
    (ok → s.ctxs.at? (opCtx s) = none → Config.canAllocate s.free = true →
      let flags := 2 ^ 58 + 2 ^ 7 + 2 ^ 3 + 2 ^ 2 + 1
      let c := { Ctx.fresh with ptroot := opA s 0, sotab := opA s 1, grants := s.opGrants }
      let s1 := { s with ctxs := s.ctxs.ins (opCtx s) c }
      Done .create s (s1.mapFresh (opCtx s) (opCtx s) 0 flags flags 32 (opA s 1) []) (opA s 1))) ∧
  -- mapping pages changes the memory and the frames alone; where tables lead there, a page is its leaf
  (∀ (s : State) ctx owner ro f1 f2 n va bs, OnlyMapped s (s.mapFresh ctx owner ro f1 f2 n va bs)) ∧
  (∀ (s : State) ctx va flags frame p, s.entryAt ctx va 0 = some p →
    s.mapPage ctx va flags frame = s.setRaws p (bytesOf 8 (flags + 4096 * frame +
      if (s.ctxAt ctx).dlE != (s.ctxAt ctx).dlArmed then 2 ^ 59 else 0))) ∧
  (∀ s, Asked s 2 →
    (¬ Formed s 0 false 0 → Fails .destroy s 1) ∧
    (Formed s 0 false 0 → s.ctxs.at? (opCtx s) = none → Fails .destroy s 2) ∧
    (Formed s 0 false 0 → Known s (opCtx s) → InUse s (opCtx s) → Fails .destroy s 3) ∧
    (Formed s 0 false 0 → Known s (opCtx s) → ¬ InUse s (opCtx s) →
      ∃ t, Done .destroy s t 0 ∧ t.ctxs = s.ctxs.del (opCtx s) ∧ (∀ p ∈ t.lcores, p.2.ctx ≠ opCtx s) ∧
        (∀ p, p ∈ t.frames ↔ p ∈ s.frames ∧ p.2 ≠ opCtx s) ∧ t.queues = s.queues ∧ t.slots = s.slots ∧ t.mem = s.mem ∧
        ∀ e, e < 4096 → ((t.seqWord e 0).toNat / 2 ^ 62 = 0 ∨ (t.seqWord e 0).toNat % 65536 ≠ opCtx s))) ∧
  -- MAP keeps A, D and LE of the entry, and answers with what it was
  (∀ s, Asked s 3 →
    let va := opA s 0
    let bad := ¬ Formed s 3 false 0 ∨ 3 < opA s 1 ∨ 2 ^ 57 ≤ va ∨ (0x01FFFE0000000000 ≤ va ∧ va < 0x01FFFF0000000000)
    (bad → Fails .map s 1) ∧
    (¬ bad → s.ctxs.at? (opCtx s) = none → Fails .map s 2) ∧
    (¬ bad → Known s (opCtx s) → s.entryAt (opCtx s) va (opA s 1) = none → Fails .map s 1) ∧
    (∀ p, ¬ bad → Known s (opCtx s) → s.entryAt (opCtx s) va (opA s 1) = some p →
      let old := s.entry p
      let new := (old &&& keptBits) ||| (BitVec.ofNat 64 (opA s 2) &&& ~~~ keptBits)
      let fresh := (s.ctxAt (opCtx s)).dlE != (s.ctxAt (opCtx s)).dlArmed
      let table := new.toNat / 4096 % 2 ^ 40
      let links := new.getLsbD 0 = true ∧ new.getLsbD 7 = false ∧ 0 < opA s 1 ∧
        ¬ (old.getLsbD 0 = true ∧ old.getLsbD 7 = false ∧ old.toNat / 4096 % 2 ^ 40 = table)
      (¬ links → Done .map s
        (s.setPhyss p (bytesOf 8 (if isLeaf new && !isLeaf old then withLe new fresh else new).toNat)) old.toNat) ∧
      (links → Done .map s
        ((s.setPhyss p (bytesOf 8 new.toNat)).settleTable fresh (opA s 1 - 1) (table * 4096)) old.toNat))) ∧
  (∀ s, Asked s 4 →
    let ok := Formed s 0 true 0 ∧ GrantsFit s
    (¬ ok → Fails .grant s 1) ∧
    (ok → s.ctxs.at? (opCtx s) = none → Fails .grant s 2) ∧
    (ok → Known s (opCtx s) → GrantBusy s (opCtx s) → Fails .grant s 3) ∧
    (ok → Known s (opCtx s) → ¬ GrantBusy s (opCtx s) →
      Done .grant s { s with ctxs := s.ctxs.ins (opCtx s) { s.ctxAt (opCtx s) with grants := s.opGrants } } 0)) ∧
  -- settling sets LE of every valid leaf of a table; it is what ends an arming (R331)
  (∀ (s : State) e base i, s.formats = [] → i < 512 →
    let w := s.entry (base + 8 * i)
    (s.settleTable e 0 base).entry (base + 8 * i) = if isLeaf w then withLe w e else w) ∧
  (∀ s ctx c, s.ctxs.at? ctx = some c → c.dlSettling = true →
    let t := s.settleTable c.dlE 3 c.ptroot
    Happens (.settleEnd ctx) s { t with ctxs := t.ctxs.ins ctx { t.ctxAt ctx with dlSettling := false } })

/-- 14_host_queues.md R268, 15_sluice.md R271, R275, R281 and 08_memory.md R154: BIND, UNBIND and SA, each with its first cause of
refusal. -/
def Sys2Proof.Parts.SluiceRequests : Prop :=
  (∀ s, Asked s 5 →
    let n := opA s 0
    let ok := Formed s 4 false 0 ∧ n ≤ 15 ∧ opA s 1 ≤ 65535 ∧ opA s 3 ≤ 512
    let reads := s.bindReads (opCtx s) (opA s 1 % 256) (opA s 1 / 256) (opA s 2) (opA s 3)
    let x := s.slAt n
    let sas := x.sas.filter (fun p => p.2.ctx == opCtx s)
    (¬ ok → Fails .bind s 1) ∧
    -- a read that fails, a page-table error of it reported
    (∀ e, ok → Known s (opCtx s) → reads = some (.error e) →
      let s1 := if e.table then { s with reports := s.reports ++ [.pageTable (opCtx s) (BitVec.ofNat 64 e.addr)] } else s
      ∃ u, Happens .bind s u ∧ Refused s1 u 1) ∧
    (ok → s.ctxs.at? (opCtx s) = none → (∀ e, reads ≠ some (.error e)) → Fails .bind s 2) ∧
    (ok → Known s (opCtx s) → reads = none → Fails .bind s 1) ∧
    (∀ text data fl s1, ok → Known s (opCtx s) → reads = some (.ok (text, data, fl, s1)) →
      let entry (f i : Nat) : Word := BitVec.ofNat 64 (imgField fl (64 * f + 8 * i) 8)
      let off := (text.length + 63) / 64 * 64
      let good := (∀ f, f < opA s 3 → flowEntryOk sas ((List.range 8).map (entry f)) = true) ∧ off + data.length ≤ 262144
      (¬ good → Fails .bind s 1) ∧
      (good → x.bound = true ∨ (∀ i, i < 3 → 3 * n + i ∈ s.fencedPorts) → Fails .bind s 5) ∧
      (good → x.bound = false → (∃ i, i < 3 ∧ 3 * n + i ∉ s.fencedPorts) →
        ∃ y, Done .bind s { s1 with sluices := s1.sluices.ins n y } 0 ∧
          y = { Sluice.fresh with
            regs := y.regs, sram := y.sram, flows := y.flows, sas := sas, ctx := opCtx s, bound := true, running := true } ∧
          y.pc = 0 ∧ y.reg 2 = BitVec.ofNat 64 n ∧ y.reg 3 = BitVec.ofNat 64 off ∧
          (∀ r, r ≠ 2 → r ≠ 3 → y.reg r = 0) ∧
          (∀ o, o < 262144 → y.sram.atD o 0 = if o < text.length then text.getD o 0
            else if off ≤ o ∧ o < off + data.length then data.getD (o - off) 0 else 0) ∧
          ∀ f i, f < 512 → i < 8 → y.flow f i = if f < opA s 3 then
            (match i with
              | 0 => entry f 0 &&& 0xBFFFFFFFFFFF0000
              | 2 => entry f 2 &&& 0xFFFFFFFFFF
              | 3 => entry f 3 &&& 0x1FFF
              | 6 => entry f 6 &&& 0xFFFF
              | 7 => 0
              | _ => entry f i)
            else 0))) ∧
  (∀ s, Asked s 6 →
    let n := opA s 0
    let ok := Formed s 1 false 0 ∧ n ≤ 15 ∧ opCtx s = 0
    let x := s.slAt n
    let busy := (∃ p ∈ x.transfers, p.2.state = 1) ∨
      ∃ p ∈ (s.ctxAt x.ctx).colls, p.2.state = 1 ∧ (at_ p.2.record 5 1) / 3 = n
    (¬ ok → Fails .unbind s 1) ∧
    (ok → x.bound = false → Fails .unbind s 5) ∧
    (ok → x.bound = true → busy → Fails .unbind s 3) ∧
    (ok → x.bound = true → ¬ busy →
      Done .unbind s { s with sluices := s.sluices.ins n { x with
        bound := false, running := false, flows := [], flowSt := [], timers := [], evq := [], pending := [], sas := [],
        transfers := [], stall := none } } 0)) ∧
  -- SA: the key leaves the mailbox; flows that the association's exhausted counter held go on
  (∀ s, Asked s 7 →
    let n := opA s 0
    let ok := Formed s 3 false 32 ∧ n ≤ 15 ∧ opA s 1 ≤ 4095
    let x := s.slAt n
    let key := (List.range 32).map (fun i => s.control.atD (0x80 + i) 0)
    let mine (f : Nat) : Prop := x.flowSa f = opA s 1 ∧ (x.fst f).exhausted = true
    (¬ ok → Fails .sa s 1) ∧
    (ok → s.ctxs.at? (opCtx s) = none → Fails .sa s 2) ∧
    (ok → Known s (opCtx s) → x.bound = true → x.ctx ≠ opCtx s → Fails .sa s 5) ∧
    (ok → Known s (opCtx s) → x.bound = false ∨ x.ctx = opCtx s →
      ∃ y, Done .sa s { s with
          sluices := s.sluices.ins n y, control := s.control.filter (fun p => decide (p.1 < 0x80)) } 0 ∧
        y = { x with flows := y.flows, flowSt := y.flowSt, sas := x.sas.ins (opA s 1) ⟨opCtx s, key, opA s 2, []⟩ } ∧
        ((∀ f ∈ x.listed, ¬ mine f) → y.flows = x.flows ∧ y.flowSt = x.flowSt) ∧
        ∀ f ∈ x.listed, mine f → (y.flow f 0).getLsbD 62 = false ∧ (y.fst f).exhausted = false ∧
          -- a flow that becomes able to send has a full bucket (R276)
          ((x.flow f 0).getLsbD 62 = true → y.flowAble f = true → (y.fst f).bucket = 64 * 4372 * 176)))

/-- 02_encoding.md R51 to R57 and Tables 16 to 18: the checks of an image, in the order in which they are made, and where its parts
lie. Where the spec leaves the order or the offending field open the choice is the model's (log entry 57). -/
def Sys2Proof.Parts.ImageChecks : Prop :=
  (∀ b size r, (headerChecks b size).findSome? id = some r → imageChecks b size = some r) ∧
  (∀ b size, (headerChecks b size).findSome? id = none → ∀ r, (loopChecks b).findSome? id = some r → imageChecks b size = some r) ∧
  (∀ b size, (headerChecks b size).findSome? id = none → (loopChecks b).findSome? id = none →
    imageChecks b size = ((List.range (imgField b 0x30 2)).map (fun i => relocBad b (imgField b 0x2C 4 + 16 * i))).findSome? id) ∧
  -- a level: its fields in range, a D level outside every C level, a T level inside every spatial one
  (∀ b i, i < 8 → (loopChecks b)[i]? = some (if levelMalformed b i || levelMisplaced b i then some ⟨10, i, 0⟩ else none)) ∧
  (∀ b i, let kind (j : Nat) := imgField b (0x60 + 8 * j) 1
    levelMalformed b i = false → kind i ≠ 0 → kind i ≤ 3 ∧ (∀ j, j < i → kind j ≠ 0) ∧
      imgField b (0x61 + 8 * i) 1 ≤ 1 ∧ imgField b (0x62 + 8 * i) 1 ≤ 7 ∧ imgField b (0x63 + 8 * i) 1 = 0 ∧
      imgField b (0x64 + 8 * i) 4 ≠ 0) ∧
  (∀ b i, let kind (j : Nat) := imgField b (0x60 + 8 * j) 1
    levelMisplaced b i = false →
      (kind i = 3 → ∀ j, j < i → kind j ≠ 2) ∧
      (kind i = 1 → ∀ j, i < j → j < 8 → (∀ m, m < j → kind m ≠ 0) → kind j ≠ 2 ∧ kind j ≠ 3)) ∧
  -- what an image that passes looks like
  (∀ b size, imageChecks b size = none →
    let u := imgField b
    u 0 4 = 0x4C504F4C ∧ u 4 2 = 0x0100 ∧ u 6 2 ≤ 3 ∧ u 8 4 = size ∧ 160 ≤ size ∧
    u 0x0C 4 % 64 = 0 ∧ 160 ≤ u 0x0C 4 ∧ u 0x10 4 ≠ 0 ∧ u 0x10 4 % 4 = 0 ∧ u 0x0C 4 + u 0x10 4 ≤ u 0x14 4 ∧
    u 0x14 4 % 64 = 0 ∧ u 0x18 4 ≠ 0 ∧ u 0x18 4 % 4 = 0 ∧ u 0x14 4 + u 0x18 4 ≤ size ∧
    (u 6 2 % 2 = 0 → u 0x1C 4 = 0 ∧ u 0x20 4 = 0) ∧
    (u 6 2 % 2 = 1 → u 0x20 4 ≠ 0 → u 0x14 4 + u 0x18 4 ≤ u 0x1C 4 ∧ u 0x1C 4 + u 0x20 4 ≤ size) ∧
    u 0x30 2 ≤ 64 ∧ u 0x34 4 % 4096 = 0 ∧ u 0x34 4 ≤ u 0x28 4 ∧ u 0x40 4 ≤ 2 ^ 21 ∧ u 0x40 4 % 16384 = 0 ∧
    u 0x44 4 % 128 = 0 ∧ u 0x48 2 ≤ 1024 ∧ u 0x4A 2 ≤ 4096 ∧ u 0x4C 1 ≤ 16 ∧ u 0x4D 1 ≤ 64 ∧ u 0x4E 1 ≤ 15 ∧ u 0x4F 1 ≤ 7 ∧
    u 0x50 4 ≤ 64 ∧ u 0x58 1 ≤ 7) ∧
  -- the first header field that is wrong is the offending one
  (∀ b size, let u := imgField b
    (u 0 4 ≠ 0x4C504F4C → imageChecks b size = some ⟨9, 0, 0⟩) ∧
    (u 0 4 = 0x4C504F4C → u 4 2 ≠ 0x0100 → imageChecks b size = some ⟨9, 4, 0⟩) ∧
    (u 0 4 = 0x4C504F4C → u 4 2 = 0x0100 → 3 < u 6 2 → imageChecks b size = some ⟨9, 6, 0⟩) ∧
    (u 0 4 = 0x4C504F4C → u 4 2 = 0x0100 → u 6 2 ≤ 3 → u 8 4 ≠ size → imageChecks b size = some ⟨9, 8, 0⟩)) ∧
  -- parts at boundaries of 64 KiB, one image after the other
  (∀ b va,
    let (ap, ep, data, e) := layOut b va
    ap % 65536 = 0 ∧ ep % 65536 = 0 ∧ data % 65536 = 0 ∧ va ≤ ap ∧ ap < va + 65536 ∧ ap + imgField b 0x10 4 ≤ ep ∧
    ep < ap + imgField b 0x10 4 + 65536 ∧ ep + imgField b 0x18 4 ≤ data ∧ data < ep + imgField b 0x18 4 + 65536 ∧
    e = data + imgField b 0x28 4)

/-- 16_distributor.md R289, R290, R292, 08_memory.md R161, R163 and 01_device.md R2: slot loads and unloads, what firmware writes of
itself, and device reset. -/
def Sys2Proof.Parts.SlotEvents : Prop :=
  (∀ s n ctx, SlotAsked s 1 n ctx →
    let s0 := unloading s
    let fails (cause req : Nat) : Prop := ∃ t, Happens .slotLoad s t ∧ slotFailed s0 cause req 0 t
    (63 < n → fails 1 n) ∧
    (n ≤ 63 → s.ctxs.at? ctx = none → fails 19 ctx) ∧
    (n ≤ 63 → Known s ctx → (s.slotAt n).state = 2 → fails 16 n) ∧
    (∀ o, n ≤ 63 → Known s ctx → (s.slotAt n).state ≠ 2 → s.slotRequestBad = some o → fails 9 o) ∧
    -- the first image that cannot be read or fails a check decides
    (∀ r s1, n ≤ 63 → Known s ctx → (s.slotAt n).state ≠ 2 → s.slotRequestBad = none →
      s0.readImages ctx (boxField s.slotbox 8 8) (boxField s.slotbox 4 1) = .error (r, s1) →
      ∃ t, Happens .slotLoad s t ∧ slotFailed s1 r.cause r.req r.avail t) ∧
    -- images that do not fit in the slot's 16 GiB, and images that do: laid out and mapped in directory order
    (∀ is s1, n ≤ 63 → Known s ctx → (s.slotAt n).state ≠ 2 → s.slotRequestBad = none →
      s0.readImages ctx (boxField s.slotbox 8 8) (boxField s.slotbox 4 1) = .ok (is, s1) →
      let base := 0x01FFFE0000000000 + n * 2 ^ 34
      let ms := (layImages base is).1
      (base + 2 ^ 34 < (layImages base is).2 → ∃ t, Happens .slotLoad s t ∧ slotFailed s1 9 8 0 t) ∧
      ((layImages base is).2 ≤ base + 2 ^ 34 →
        ∃ u, Happens .slotLoad s u ∧ Filled s.slotbox u.slotbox 0x20 (bytesOf 4 2) ∧
          { u with slotbox := s.slotbox, slots := s1.slots } = s1.mapImages ctx n ms is ∧
          u.slots = s1.slots.ins n { ModelSlot.fresh with
            state := 2, nk := boxField s.slotbox 4 1, nstop := boxField s.slotbox 5 1, ctx := ctx,
            freering := boxField s.slotbox 0x10 8, retring := boxField s.slotbox 0x18 8, stepno := 0, steps := [],
            stops := (List.range 16).map (fun i => boxField s.slotbox (0x40 + 4 * i) 4), images := ms }))) ∧
  -- reading a directory entry and its image; a read that fails reports RESIDENCY (log entry 57)
  (∀ (s : State) ctx dir n e, s.distRead ctx dir 16 = .error e →
    ∃ s1, s.readImages ctx dir (n + 1) = .error (⟨6, e.addr, 0⟩, s1)) ∧
  (∀ (s : State) ctx dir n e s1 b s2, s.distRead ctx dir 16 = .ok (e, s1) →
    s1.distRead ctx (imgField e 0 8) (imgField e 8 8) = .ok (b, s2) →
    (∀ r, imageChecks b (imgField e 8 8) = some r → s.readImages ctx dir (n + 1) = .error (r, s2)) ∧
    (imageChecks b (imgField e 8 8) = none → ∀ is s3, s2.readImages ctx (dir + 16) n = .ok (is, s3) →
      s.readImages ctx dir (n + 1) = .ok ((imgField e 0 8, imgField e 8 8, b) :: is, s3))) ∧
  (∀ s n ctx, SlotAsked s 2 n ctx →
    let used := (∃ p ∈ s.nodes, p.2.slot = n) ∨
      ∃ e, e < 4096 ∧ (s.seqWord e 0).toNat / 2 ^ 62 ≠ 0 ∧ (s.seqWord e 0).toNat / 2 ^ 56 % 64 = n
    let fails (cause req : Nat) : Prop := ∃ t, Happens .slotUnload s t ∧ slotFailed s cause req 0 t
    (63 < n → fails 1 n) ∧
    (n ≤ 63 → s.ctxs.at? ctx = none → fails 19 ctx) ∧
    (n ≤ 63 → Known s ctx → used → fails 16 n) ∧
    -- the images are unmapped and their frames freed; the other fields of the entry stay
    (n ≤ 63 → Known s ctx → ¬ used →
      ∃ u, Happens .slotUnload s u ∧ Filled s.slotbox u.slotbox 0x20 (bytesOf 4 2) ∧
        u.slots = s.slots.ins n { s.slotAt n with state := 0, images := [] } ∧
        (∀ p, p ∈ u.frames ↔ p ∈ s.frames ∧ p.2 ≠ 65536 + n))) ∧
  (∀ s n w0 w1 w2 w3, n < 64 →
    ∃ t, Happens (.storageFormatWrite n w0 w1 w2 w3) s t ∧ t = { s with formats := t.formats, l2 := t.l2 } ∧
      t.fmtWord n 0 = BitVec.ofNat 64 w0 &&& 0x8F0000FFFFFFFFFF ∧ t.fmtWord n 1 = BitVec.ofNat 64 w1 &&& 0xFFFFFFFFFF ∧
      t.fmtWord n 2 = BitVec.ofNat 64 w2 &&& 0xFFFFFFFFFF ∧ t.fmtWord n 3 = BitVec.ofNat 64 w3 &&& 0xFFFFFFFFFF ∧
      (∀ m w, m ≠ n → w < 4 → t.fmtWord m w = s.fmtWord m w) ∧
      -- the lines of the old and of the new range leave the L2
      let inside (u : State) (ln : Nat) : Prop :=
        (u.fmtWord n 0).toNat % 2 ^ 40 ≤ ln / 32 ∧ ln / 32 ≤ (u.fmtWord n 1).toNat % 2 ^ 40
      ∀ p, p ∈ t.l2 ↔ p ∈ s.l2 ∧ ¬ inside s p.1 ∧ ¬ inside t p.1) ∧
  -- a carve-out in steps of 16 MiB, while nothing is granted or staged on the die; which ports may reduce is a free value (entry 50)
  (∀ s die size,
    let ok := die < 4 ∧ size ≤ 2 ^ 27 ∧ size % 2 ^ 24 = 0 ∧ (∀ p ∈ s.ctxs, p.2.grantSize die = 0) ∧
      (∀ n, n < 12 → s.stagingUsed (12 * die + n) 65536 0 = 0)
    (¬ ok → Passes (.basinCarveoutSet die size) s) ∧
    (ok → ∃ t, Happens (.basinCarveoutSet die size) s t ∧
      t = { s with carveouts := s.carveouts.put die size 0, ports := t.ports, free := s.free + 1 } ∧
      (∀ p, p / 12 ≠ die → t.portAt p = s.portAt p) ∧
      (∀ p, t.portAt p = { s.portAt p with reduces := (t.portAt p).reduces }) ∧ t.stagingOf die ≤ size)) ∧
  -- reset: the state after reset, one boot later; the model's own agenda, turn and free fields go on (log entry 2)
  (∀ s, Happens .deviceReset s
    { State.reset with boots := s.boots + 1, agenda := s.agenda, turn := s.turn, free := s.free })

/-- 19_counters.md R349, R352 to R354, 08_memory.md R169, 15_sluice.md R279 and 13_streams.md R247: soft errors, what fencing a unit
does, and attestation. Which commands are in flight on a channel is the model's choice (log entry 62). -/
def Sys2Proof.Parts.HealthEvents : Prop :=
  -- soft errors: a corrected one is counted, until its unit has had too many; one that is not corrected fences its unit
  (∀ s u m,
    let recent := s.softErrors.filter (fun p => decide (s.ticks < p.2 + 2 ^ 32)) ++ [(u, s.ticks)]
    let t := { counted s (match m with | .localStore => 3 | .sram => 4 | .hbm => 5) with softErrors := recent }
    let many := 1024 ≤ (recent.filter (fun p => p.1 == u)).length
    (¬ many ∨ u = .control ∨ u = .shared → Happens (.softErrorCorrected u m) s t) ∧
    (many → u ≠ .control → u ≠ .shared → Happens (.softErrorCorrected u m) s (t.fence u []))) ∧
  (∀ s u lost, Happens (.softErrorUncorrectable u lost) s ((counted s 6).fence u lost)) ∧
  -- a unit is fenced once
  (∀ (s : State) lost,
    (∀ c, 256 ≤ c ∨ c ∈ s.fencedCores → s.fence (.core c) lost = s) ∧ (∀ p, 48 ≤ p ∨ p ∈ s.fencedPorts → s.fence (.port p) lost = s) ∧
    (∀ st ch, 8 ≤ st ∨ (st, ch) ∈ s.fencedChannels → s.fence (.channel st ch) lost = s) ∧ s.fence .shared lost = s ∧
    (s.hstate = 2 → s.fence .control lost = s)) ∧
  -- a core without logical cores
  (∀ (s : State) c lost, c < 256 → c ∉ s.fencedCores → (s.coreAt c).rot = [] → s.fencedCores.length < 255 →
    s.fence (.core c) lost =
      { counted s 7 with hstate := max 1 s.hstate, fencedCores := s.fencedCores ++ [c], msix := s.msix ++ [255] }) ∧
  -- a logical core of a fenced core goes to the first core, those of the terrace first, that has a free place
  (∀ (s : State) c k d, (List.range 256).find? (fun e => e / 8 == c / 8 && s.hasPlace [] e) = some d →
    (s.rehome c k).ctxs = s.ctxs ∧ k ∈ ((s.rehome c k).coreAt d).rot) ∧
  -- a port: its valid flows go to the lowest working port of its Sluice core
  (∀ (s : State) p lost, p < 48 → p ∉ s.fencedPorts →
    (∀ f, f < 512 → ¬ ((s.slAt (p / 3)).flowV f = true ∧ (s.slAt (p / 3)).flowPort f = p % 3)) →
    s.fence (.port p) lost =
      { counted s 7 with hstate := max 1 s.hstate, fencedPorts := s.fencedPorts ++ [p], msix := s.msix ++ [255] }) ∧
  -- a channel with no command in flight and no page of an unfailed context
  (∀ (s : State) st ch, st < 8 → (st, ch) ∉ s.fencedChannels → (∀ p ∈ s.cores, p.2.active = none) → s.ctxs = [] →
    s.fence (.channel st ch) [] =
      { counted s 7 with hstate := max 1 s.hstate, fencedChannels := s.fencedChannels ++ [(st, ch)], msix := s.msix ++ [255] }) ∧
  -- a page moved off it: its bytes lie in fresh frames, and its leaf names them
  (∀ (s : State) ctx a e n, s.formats = [] →
    let pa := e.toNat / 4096 % 2 ^ 40 * 4096
    let (f, s1) := s.takeFrames ctx n
    let (t, m) := s.movePage ctx a e (4096 * n) []
    m = [(pa, f)] ∧ t.ctxs = s.ctxs ∧ t.frames = s1.frames ∧
    (∀ o, o < 4096 * n → outside a 8 (4096 * f + o) → t.rawByte (4096 * f + o) = s.rawByte (pa + o)) ∧
    t.entry a = (e &&& 0xFFF0000000000FFF) ||| BitVec.ofNat 64 (f % 2 ^ 40 * 4096)) ∧
  -- the loss of the control complex fails every context
  (∀ (s : State), s.hstate < 2 → s.ctxs = [] → s.fence .control [] = { s with hstate := 2, msix := s.msix ++ [255] }) ∧
  -- attestation
  Replies .getVersion (fun _ => .version 1 2) ∧ Replies .getCapabilities (fun _ => .capabilities Config.spdmFlags) ∧
  Replies .negotiateAlgorithms (fun _ => .algorithms .sha512 .ed25519 .sha512) ∧
  Replies .getDigests (fun _ => .digests Config.certDigest) ∧
  (∀ off len, Replies (.getCertificate off len) (fun _ =>
    let n := min len (Config.certLength - off)
    .certificate ((List.range n).map (fun i => Config.certChain (off + i))) (Config.certLength - off - n))) ∧
  (∀ x, x < 2 ^ 256 → Replies (.challenge x) (fun _ => .challengeAuth x (Config.signature 0 x))) ∧
  (∀ x, x < 2 ^ 256 → Replies (.getMeasurements x) (fun s =>
    let blocks := [1, 2, 3, 4, 5, 6].map (fun i => (i, Config.measuredDigest s.boots i))
    .measurements blocks x (Config.signature 1
      (ofBytes (blocks.flatMap (fun p => bytesOf 1 p.1 ++ bytesOf 64 p.2.toNat) ++ bytesOf 32 x))))) ∧
  (∀ code, Replies (.unsupportedRequest code) (fun _ => .unsupported code))

/-- Five parts: ContextRequests, SluiceRequests, ImageChecks, SlotEvents and HealthEvents.

14_host_queues.md R267, R268 and 18_context_image.md R331: CREATE, DESTROY, MAP and GRANT, each with its first cause of
refusal. That a leaf which MAP creates, in a table that it links as well, takes the LE of R331 is the model's reading (log entry 58).

14_host_queues.md R268, 15_sluice.md R271, R275, R281 and 08_memory.md R154: BIND, UNBIND and SA, each with its first cause of
refusal.

02_encoding.md R51 to R57 and Tables 16 to 18: the checks of an image, in the order in which they are made, and where its parts
lie. Where the spec leaves the order or the offending field open the choice is the model's (log entry 57).

16_distributor.md R289, R290, R292, 08_memory.md R161, R163 and 01_device.md R2: slot loads and unloads, what firmware writes of
itself, and device reset.

19_counters.md R349, R352 to R354, 08_memory.md R169, 15_sluice.md R279 and 13_streams.md R247: soft errors, what fencing a unit
does, and attestation. Which commands are in flight on a channel is the model's choice (log entry 62). -/
def Obligations.FirmwareEvents : Prop :=
  Parts.ContextRequests ∧ Parts.SluiceRequests ∧ Parts.ImageChecks ∧ Parts.SlotEvents ∧
  Parts.HealthEvents

namespace Sys2Proof.Spec

/-! ## The distributor and the cores -/

/-- Core `c` becomes `p`. -/
def coreSet (s : State) (c : Nat) (p : PCore) : State := { s with cores := s.cores.ins c p }

/-- No swap of core `c` is requested or under way. -/
abbrev NoSwap (p : PCore) : Prop := p.swapReq = none ∧ p.swapping = none

/-- The programs of context `c` do not run: it is frozen or failed, or its FREEZE has stopped them (18_context_image.md R324). -/
def Stops (c : Ctx) : Prop := c.frozen = true ∨ c.failed = true ∨ ∃ z, c.freeze = some z ∧ z.swapped = true

/-- The record that the completion of node `n` writes (16_distributor.md Table 5). -/
def recordIs (s : State) (n : Nat) (x : Node) (status cause : Nat) : List Byte :=
  bytesOf 1 status ++ bytesOf 1 cause ++ bytesOf 2 n ++ bytesOf 4 (x.pred.getD 0) ++ bytesOf 8 x.dstamp ++ bytesOf 8 s.cycle.toNat ++
  bytesOf 4 x.lcount ++ bytesOf 2 x.cores ++ bytesOf 2 0 ++ bytesOf 4 x.step ++ bytesOf 28 0

/-- A trap or a deadlock of core `c` that the next core cycle cannot wait for (07_traps.md R140, 13_streams.md R244). -/
def Pressing (s : State) (c : Nat) : Prop :=
  ∃ k, (s.coreAt c).active = some k ∧
    ((∃ x, (s.lcAt k).trapReq = some x ∧ 64 ≤ (s.cycle - (s.lcAt k).trapAt).toNat) ∨
      ((s.lcAt k).trapReq = none ∧ (s.lcAt k).deadlocked = true))

/-- The awake core `p`, with no swap under way. -/
abbrev Awake (p : PCore) : Prop := p.power = .awake ∧ p.swapping = none

/-- One more when `b` holds. -/
def plus (n : Nat) (b : Bool) : Nat := if b then n + 1 else n

/-- A core cycle of an active logical core: its counters move, events 10 and 11 by free values, and nothing else
(07_traps.md R144, 13_streams.md R243, 19_counters.md R348; log entry 56). -/
def Ticked (l m : LCore) : Prop :=
  ∃ miss conflict, m = { l with
    ap := { l.ap with stallCycles := plus l.ap.stallCycles l.ap.stall.isSome }
    ep := { l.ep with stallCycles := plus l.ep.stallCycles l.ep.stall.isSome }
    pcs := (((l.count 1 1).count 10 miss).count 11 conflict).pcs
    dlcnt := if l.mutual = true ∧ l.esc = none then min (2 ^ 20) (l.dlcnt + 1) else l.dlcnt
    trapCycles := plus l.trapCycles (l.trapMode && l.esc.isNone)
    twWait := if l.twWaits then l.twWait + 1 else 0
    epBusy := false
    foCycle := false }

/-- A Sluice cycle of a Sluice core: its timers, its trap counter and the buckets of the flows that can send (15_sluice.md R276,
R282, R286). -/
def SluiceTicked (x y : Sluice) : Prop :=
  y = { x with
    flowSt := y.flowSt
    timers := x.timers.map (fun p => (p.1, (p.2.1 - 1, p.2.2)))
    trapCycles := plus x.trapCycles (x.trapMode && x.running) } ∧
  ∀ f, f < 512 → y.fst f = if x.flowAble f then
    { x.fst f with bucket := min (64 * 4372 * 176) ((x.fst f).bucket + (x.flow f 3).toNat % 8192) } else x.fst f

/-- The physical address of byte `off` of the local store of logical core `l`, whose page it holds (08_memory.md R157). -/
def lsAddr (l : LCore) (off : Nat) : Nat :=
  0x2000000000000 + l.core * 2 ^ 21 + (l.lsmap.atD (off / 16384) 0).toNat % 128 * 16384 + off % 16384

/-- Multicast stores in the order in which they land: by their cycle, and in one cycle by the writer's LCOREID (10_consistency.md
R199). -/
def InLandingOrder (l : List Multicast) : Prop :=
  l.Pairwise (fun a b => a.at_ < b.at_ ∨ (a.at_ = b.at_ ∧ a.writer % 65536 ≤ b.writer % 65536))

end Sys2Proof.Spec

/-! ## The distributor -/

/-- 16_distributor.md R294 to R296 and R300, 01_device.md R23, R24: dispatch takes the node of the highest priority, and of these
the oldest, that is ready, not held back and fits; a team goes where it costs least; a dispatched node's logical cores begin as the
image says. -/
def Sys2Proof.Parts.DispatchEvents : Prop :=
  (∀ s n ps, s.selectNode = some n → s.placeNodes s.hosts (s.gangOf n) [] = some ps →
    Happens .nodeDispatch s (ps.foldl (fun t p => t.dispatchNode p.1 p.2) s).settle) ∧
  (∀ (s : State) n, s.selectNode = some n → ∃ x, (n, x) ∈ s.nodes ∧ s.canDispatch n = true ∧
    ∀ p ∈ s.nodes, s.canDispatch p.1 = true → p.2.prio < x.prio ∨ p.2.prio = x.prio ∧ x.order ≤ p.2.order) ∧
  (∀ (s : State), s.selectNode = none → (∀ p ∈ s.nodes, s.canDispatch p.1 = false) ∧ Passes .nodeDispatch s) ∧
  -- what may be dispatched: all of a gang, ready, of contexts that run, not held back by a starved node, with places for all
  (∀ (s : State) n x, s.nodes.at? n = some x → (s.canDispatch n = true ↔
    (x.gang = none ∨ (s.gangOf n).length = x.gangSize) ∧
    (∀ i ∈ s.gangOf n, ∃ y, s.nodes.at? i = some y ∧ y.ready = true ∧ (s.ctxAt y.ctx).frozen = false ∧
      (s.ctxAt y.ctx).freeze = none ∧ (s.ctxAt y.ctx).failed = false) ∧
    (¬ ∃ p ∈ s.nodes, p.2.starved = true ∧ p.2.dispatched = false ∧ p.1 ∉ s.gangOf n ∧
      ∃ i ∈ s.gangOf n, ∃ y, s.nodes.at? i = some y ∧ y.prio ≤ p.2.prio ∧ p.2.order < y.order) ∧
    (s.placeNodes s.hosts (s.gangOf n) []).isSome = true)) ∧
  (∀ (s : State) n x, s.nodes.at? n = some x →
    (x.gang = none → s.gangOf n = [n]) ∧
    (∀ g i, x.gang = some g → (i ∈ s.gangOf n ↔ ∃ y, (i, y) ∈ s.nodes ∧ y.gang = some g ∧ y.queue = x.queue))) ∧
  -- places and their cost
  (∀ (s : State) g c, s.hosts.host g c = true ↔ c ∉ s.fencedCores ∧ (s.coreAt c).rot.length + g.given c < 8) ∧
  (∀ (s : State) units g c, s.coreCost units g c =
    ((s.coreAt c).rot.length + g.given c) * 165000 +
    (match (s.coreAt c).power with | .powerGated => 13200 | .clockGated => 165 | _ => 0) +
    13200 * ((List.range 3).filter (fun i => units.testBit i && !(s.unitsOf g c).testBit i)).length) ∧
  (∀ cost l c, leastBy cost l = some c → c ∈ l ∧ ∀ d ∈ l, cost c ≤ cost d) ∧
  -- a team of one takes the cheapest core of its die, or of the device where the die has no place
  (∀ (s : State) (h : Hosts) units d g c g', (∀ g cs, h.wake g cs = true) → s.placeGroup h units d 1 g = some ([c], g') →
    h.host g c = true ∧ g' = g.give c units ∧
    (∀ e, e < 256 → h.host g e = true → (e / 64 = d ∨ ∀ i, i < 64 → h.host g (64 * d + i) = false) →
      s.coreCost units g c ≤ s.coreCost units g e)) ∧
  (∀ n x m c pc, let l := newLcore n x m c pc
    l.ap.pc = BitVec.ofNat 64 m.apBase ∧ l.ep.pc = BitVec.ofNat 64 m.epBase ∧ (∀ ep r, l.reg ep r = 0) ∧
    l.launch.atD 1 0 = BitVec.ofNat 64 c ∧ l.launch.atD 2 0 = BitVec.ofNat 64 x.lcount ∧
    l.launch.atD 4 0 = BitVec.ofNat 64 m.dataBase ∧
    (∀ i, i < 16 → l.launch.atD (0x10 + i) 0 = BitVec.ofNat 64 (at_ x.image (64 + 8 * i) 8)) ∧
    (∀ i, i < 8 → l.launch.atD (8 + i) 0 = BitVec.ofNat 64 (at_ x.image (192 + 8 * i) 8))) ∧
  -- an arrival: the end of the rotation list, and an empty core is woken; a swap is asked for where the newcomer outranks
  (∀ (s : State) c k, let p := s.coreAt c
    (p.active = none → p.swapReq = none → p.swapping = none → s.arrive c k =
      { coreSet s c { p with
          rot := p.rot ++ [k], active := some k, quantum := 0
          power := if p.power = .awake then .awake else .waking
          wake := match p.power with | .waking => p.wake | .powerGated => 13200 | .clockGated => 165 | .awake => 0 } with
        lcores := s.lcores.ins k { s.lcAt k with loc := .banked c } }) ∧
    (p.active ≠ none → s.arrive c k = coreSet s c { p with rot := p.rot ++ [k] })) ∧
  (∀ (s : State) prio, s.onlyOutranked prio = true ↔ ∀ c, c < 256 → s.hasPlace [] c = true →
    ∃ a, (s.coreAt c).active = some a ∧ s.prioOf a < prio) ∧
  (∀ (s : State) c k a, (s.coreAt c).active = some a → (s.coreAt c).swapReq = none → (s.coreAt c).swapping = none →
    (a ≠ k → s.prioOf a < s.prioOf k → s.preemptFor c k = coreSet s c { s.coreAt c with swapReq := some (.preempt k) }) ∧
    (a = k ∨ s.prioOf k ≤ s.prioOf a → s.preemptFor c k = s)) ∧
  (∀ s n x t, s.nodes.at? n = some x → x.readyAt = some t → x.dispatched = false → x.starved = false →
    2 ^ 26 ≤ (s.cycle - BitVec.ofNat 64 t).toNat →
    Happens (.dispatchStarvation n) s { s with nodes := s.nodes.ins n { x with starved := true } })

/-- 16_distributor.md R297, R298, 14_host_queues.md R264 and 17_collectives.md R314: a node whose team has halted completes; a context
that fails loses its nodes; idle cores power down. Which cause and amounts the HANDLER of a FAILED node's queue has is a free value
(log entry 52). -/
def Sys2Proof.Parts.CompletionEvents : Prop :=
  (∀ s n x, s.nodes.at? n = some x → x.dispatched = true →
    (∀ p ∈ s.lcores, p.2.node = n → p.2.ended = true) → ¬ Stops (s.ctxAt x.ctx) →
    Happens (.nodeCompletion n) s (s.completeNode n 1 0).settle) ∧
  -- record, then csig or the packet of the node, then what waits for it
  (∀ (s : State) n x status cause, s.nodes.at? n = some x →
    let s1 := s.putRecord x.ctx x.queue x.id x.entry (at_ x.image 0x20 8) (recordIs s n x status cause)
    let s2 := (s1.removeNode n).leaveGang x
    s.completeNode n status cause =
      if x.origin / 4 % 2 = 1 then s2.addSignal x.ctx (at_ x.image 8 8) (if status = 3 then -(2 ^ 32) else -1)
      else if status = 3 ∧ x.origin % 2 = 1 then s2.abortByNode x
      else s2.completePacket x.queue x.entry (status == 3)) ∧
  (∀ (s : State) ctx q id entry va bs,
    (va = 0 → s.putRecord ctx q id entry va bs = s) ∧
    (∀ s1, va ≠ 0 → s.distWrite ctx va bs = .ok s1 → s.putRecord ctx q id entry va bs = s1) ∧
    (∀ e, va ≠ 0 → s.distWrite ctx va bs = .error e → s.putRecord ctx q id entry va bs =
      (if e.table then s.report (.pageTable ctx (BitVec.ofNat 64 e.addr)) else s).handler q 8 id entry e.cause va 0)) ∧
  (∀ (s : State) n, let t := s.removeNode n
    t = { s with lcores := t.lcores, retired := t.retired, nodes := t.nodes } ∧
    (∀ p, p ∈ t.lcores ↔ p ∈ s.lcores ∧ p.2.node ≠ n) ∧
    (∀ k l, s.lcores.at? k = some l → l.node = n → s.lcores.sorted = true → t.retired.at? k = some l) ∧
    t.nodes.at? n = none ∧
    (∀ i y, i ≠ n → s.nodes.at? i = some y → t.nodes.at? i = some { y with preds := y.preds.filter (· ≠ n) })) ∧
  (∀ (s : State) x, (x.gang = none ∨ x.dispatched = true → s.leaveGang x = s) ∧
    (∀ g i y, x.gang = some g → x.dispatched = false → s.nodes.at? i = some y →
      ∃ z, (s.leaveGang x).nodes.at? i = some z ∧
        z = { y with gangSize := if y.gang = some g ∧ y.queue = x.queue then y.gangSize - 1 else y.gangSize })) ∧
  (∀ (s : State) x, ∃ cause word req avail, cause < 65536 ∧
    s.abortByNode x = (({ s with free := s.free + 1 }).abortQueue x.queue x.entry).handler x.queue cause x.id x.entry word req avail) ∧
  -- a context that fails
  (∀ s ctx cause x, s.ctxs.at? ctx = some x → x.failed = false →
    let t := s.failCtx ctx cause
    Happens (.contextFailure ctx cause) s t ∧ (t.ctxAt ctx).failed = true ∧ (t.ctxAt ctx).tns = [] ∧ (t.ctxAt ctx).stage = [] ∧
    (∀ r, r < 64 → ((t.ctxAt ctx).ranges.atD (3 * r) 0).getLsbD 63 = false) ∧ (∀ p ∈ t.nodes, p.2.ctx ≠ ctx) ∧
    (∀ p ∈ t.sluices, p.2.bound = true → p.2.ctx = ctx → p.2.running = false) ∧
    (∀ e, e < 4096 → ((t.seqWord e 0).toNat / 2 ^ 62 = 0 ∨ (t.seqWord e 0).toNat % 65536 ≠ ctx)) ∧
    .contextFailure ctx cause ∈ t.reports) ∧
  -- power
  (∀ s c, let p := s.coreAt c
    p.power = .clockGated → p.rot = [] → 330000 ≤ (s.cycle - BitVec.ofNat 64 p.emptied).toNat →
    (∀ x ∈ s.ctxs, x.2.floor < ((List.range 256).filter (fun d => (s.coreAt d).power != .powerGated)).length) →
    0 < ((List.range 256).filter (fun d => (s.coreAt d).power != .powerGated)).length →
    Happens (.powerGateExpiry c) s (coreSet s c { p with power := .powerGated })) ∧
  (∀ s c, (s.coreAt c).power = .waking → (s.coreAt c).wake = 0 →
    Happens (.coreWakeDone c) s (coreSet s c { s.coreAt c with power := .awake }))

/-- Two parts: DispatchEvents and CompletionEvents.

16_distributor.md R294 to R296 and R300, 01_device.md R23, R24: dispatch takes the node of the highest priority, and of these
the oldest, that is ready, not held back and fits; a team goes where it costs least; a dispatched node's logical cores begin as the
image says.

16_distributor.md R297, R298, 14_host_queues.md R264 and 17_collectives.md R314: a node whose team has halted completes; a context
that fails loses its nodes; idle cores power down. Which cause and amounts the HANDLER of a FAILED node's queue has is a free value
(log entry 52). -/
def Obligations.DistributorEvents : Prop := Parts.DispatchEvents ∧ Parts.CompletionEvents

/-! ## Events of a core -/

/-- 07_traps.md R140, R143, R144, R146, R147 and 08_memory.md R157: a detected fault is taken as the trap it is; an escalation is
passed to firmware once; a handler that runs for a quantum escalates; firmware resumes a logical core, or its handler, and fails the
context of one that accesses a page of local store that is not allotted. -/
def Sys2Proof.Parts.TrapEvents : Prop :=
  (∀ s c k x, (s.coreAt c).active = some k → (s.lcAt k).trapReq = some x → HasHandler s k →
    ∃ t, HandlerEntered s t c k x ∧ Happens (.trapEntry c) s t) ∧
  (∀ s c k e, let p := s.coreAt c
    p.active = some k → (s.lcAt k).esc = some e → e.passed = false →
    let t := s.setLc k { s.lcAt k with esc := some { e with passed := true } }
    let q := if 1 < p.rot.length ∧ p.swapReq = none then { p with swapReq := some .escalate } else p
    Happens (.escalation c) s
      { coreSet t c q with reports := s.reports ++ [.escalation k e.reason e.info.cause] }) ∧
  -- flags bit 1 of the record is set, and the handler waits for firmware
  (∀ s c k, (s.coreAt c).active = some k → (s.lcAt k).trapMode = true → (s.lcAt k).esc = none →
    165000 ≤ (s.lcAt k).trapCycles →
    ∃ t, Happens (.handlerOverrun c) s t ∧ (t.lcAt k).esc.map (fun e => (e.reason, e.passed)) = some (.overrun, false) ∧
      (t.lcAt k).ap = (s.lcAt k).ap ∧ t.rawByte (recordAt s c k + 5) = s.rawByte (recordAt s c k + 5) ||| 2 ∧
      ∀ pa, pa ≠ recordAt s c k + 5 → t.rawByte pa = s.rawByte pa) ∧
  (∀ s k l e, s.lcores.at? k = some l → l.esc = some e → e.passed = true → ¬ Stops (s.ctxAt l.ctx) →
    let o := e.info.addr.toNat - 0x01FFFF0000000000
    let lost := e.info.cause = 4 ∧ 0x01FFFF0000000000 ≤ e.info.addr.toNat ∧ o < 2 ^ 21 ∧
      (l.lsmap.atD (o / 16384) 0).getLsbD 15 = false
    (lost → Happens (.firmwareResume k) s (s.failCtx l.ctx 4)) ∧
    (¬ lost → e.info.cause ≠ 47 → Happens (.firmwareResume k) s (s.setLc k (resumed l))) ∧
    (¬ lost → e.info.cause = 47 →
      let g2 := l.reg false 2
      let ok := g2.toNat % 4 = 0 ∧ l.kern.apBase ≤ g2.toNat ∧ g2.toNat < l.kern.apBase + l.kern.apSize
      (ok → Happens (.firmwareResume k) s (s.setLc k (resumed { l with tvec := g2 }))) ∧
      (¬ ok → Happens (.firmwareResume k) s
        (s.setLc k (resumed { l with ap := { l.ap with regs := l.ap.regs.put 2 0 0 } })))) ∧
    (∀ g, ¬ lost → e.reason = .escal g →
      Happens (.firmwareHandlerReturn k) s
        (s.setLc k { l with tstatus := l.tstatus ||| 4, esc := none, trapCycles := 0 })) ∧
    (∀ g, lost → e.reason = .escal g → Happens (.firmwareHandlerReturn k) s (s.failCtx l.ctx 4)))

/-- 07_traps.md R150 to R152, R371 and 08_memory.md R157: bank swaps, the spill engine, rotation and the pages of the local store.
Where a save area lies is the model's choice (log entry 37); what it evicts while a swap is under way, its reading (log entry 54). -/
def Sys2Proof.Parts.SwapEvents : Prop :=
  -- a requested swap starts when its logical core is in the shadow bank, and takes 64 cycles
  (∀ s c k, let p := s.coreAt c
    p.swapReq ≠ none → p.swapping = none → p.power = .awake → s.nextIn c = some k → p.shadow = some k → p.held = false →
    p.busy = false →
    (p.active = none → Happens (.bankSwap c) s (coreSet s c { p with swapping := some 64, swapReq := none })) ∧
    (∀ a, p.active = some a → s.trapping a = false →
      Happens (.bankSwap c) s (coreSet (s.setLc a (((s.lcAt a).stopVector false).stopEngines)) c
        { p with swapping := some 64, swapReq := none })) ∧
    (∀ a, p.active = some a → s.trapping a = true → Passes (.bankSwap c) s)) ∧
  (∀ s c k, let p := s.coreAt c
    p.swapping = some 0 → p.shadow = some k →
    let t := s.refillPages c k
    let l := t.lcAt k
    l.ceHeld = none → l.geHeld = none →
    Happens (.bankSwapEnd c) s (coreSet (t.setLc k { l with
      ap := { l.ap with stall := none, stallCycles := 0 }
      ep := { l.ep with stall := none, stallCycles := 0 }
      twWait := 0
      epBusy := false
      spare := []
      pcs := (l.count 13 1).pcs }) c { p with
        active := some k, shadow := p.active, swapping := none, quantum := 0, busy := p.active.isSome, held := false, offset := 0 })) ∧
  (∀ (l : LCore) r v, 1 ≤ r → r < 24 → l.ceHeld = some (r, v) → l.geHeld = none → l.geFifo = [] → l.activate.reg false r = v) ∧
  -- rotation: the quantum, and a blocking wait
  (∀ s c k, let p := s.coreAt c
    p.active = some k → 1 < p.rot.length → NoSwap p →
    (165000 ≤ p.quantum → Happens (.quantumExpiry c) s (coreSet s c { p with swapReq := some .rotate })) ∧
    (4096 < (s.lcAt k).ap.stallCycles ∨ 4096 < (s.lcAt k).ep.stallCycles ∨ 4096 < (s.lcAt k).twWait →
      Happens (.blockingWait c) s (coreSet s c { p with swapReq := some .rotate }))) ∧
  -- the spill engine writes the record into the save area, in ascending order
  (∀ s c n k, let p := s.coreAt c
    let off := if p.busy then p.offset else 0
    s.spills c = true → p.shadow = some k → 0 < n → off < recSize →
    Happens (.spillStore c n none) s
      (coreSet (s.setRaws (paSave k + off) ((((s.lcAt k).record 0).drop off).take (min n (recSize - off)))) c
        { p with busy := true, offset := min recSize (off + n) })) ∧
  (∀ (l : LCore) o, o < recSize → o % 8 = 0 → ((l.record 0).drop o).take 8 = bytesOf 8 (l.recWord 0 o).toNat) ∧
  (∀ s c n va k, let p := s.coreAt c
    s.spills c = true → p.shadow = some k → (if p.busy then p.offset else 0) < recSize →
    Happens (.spillStore c n (some va)) s
      { coreSet s c { p with busy := true, held := true, offset := if p.busy then p.offset else 0 } with
        reports := s.reports ++ [.pinning (s.lcAt k).ctx (BitVec.ofNat 64 va)] }) ∧
  (∀ s c, (s.coreAt c).held = true → Happens (.spillResume c) s (coreSet s c { s.coreAt c with held := false })) ∧
  (∀ s c k, let p := s.coreAt c
    p.shadow = some k → p.busy = true → p.held = false → p.offset = recSize →
    Happens (.spillEnd c) s
      ((coreSet s c { p with busy := false, shadow := none }).setLc k { s.lcAt k with loc := .spilled c })) ∧
  (∀ s c k, let p := s.coreAt c
    p.shadow = none → p.busy = false → p.held = false → p.swapping = none → s.nextIn c = some k →
    Happens (.shadowFillEnd c) s ((coreSet s c { p with shadow := some k }).setLc k { s.lcAt k with loc := .banked c })) ∧
  -- a page is assigned: its saved copy comes with it
  (∀ s k l c v n, s.lcores.at? k = some l → l.loc = .banked c → (s.coreAt c).active = some k → v < 128 →
    l.lsAllotted v = true → l.lsPresent v = false → s.freePage c = some n →
    let t := s.fillPage c k v n
    Happens (.lsPageAssign k v) s t ∧ (t.lcAt k).lsPresent v = true ∧ (t.lcAt k).lsPage v = n ∧
    (∀ p, outside (paLocal c + n * 16384) 16384 p → t.rawByte p = s.rawByte p) ∧
    (l.lsused.atD v false = true → ∀ o, o < 16384 → t.rawByte (paLocal c + n * 16384 + o) = l.saved.atD (16384 * v + o) 0)) ∧
  -- with no free page one is evicted, into its saved copy
  (∀ s k l c v j w, s.lcores.at? k = some l → l.loc = .banked c → (s.coreAt c).active = some k → v < 128 →
    l.lsAllotted v = true → l.lsPresent v = false → s.freePage c = none → s.victim c k = some (j, w) →
    let t := s.evictPage c j w
    Happens (.lsPageAssign k v) s (t.fillPage c k v ((s.lcAt j).lsPage w)) ∧
    t = { s with lcores := t.lcores } ∧ (t.lcAt j).lsPresent w = false ∧ (t.lcAt j).lsAllotted w = true ∧
    (∀ o, o < 16384 → (t.lcAt j).saved.atD (16384 * w + o) 0 = s.rawByte (paLocal c + (s.lcAt j).lsPage w * 16384 + o)) ∧
    ∀ o, outside (16384 * w) 16384 o → (t.lcAt j).saved.atD o 0 = (s.lcAt j).saved.atD o 0) ∧
  -- the victim: of the logical cores that are not active the one that becomes active last, and of its pages the highest
  (∀ (s : State) c k j w, (s.coreAt c).active = some k → s.victim c k = some (j, w) →
    w < 128 ∧ (s.lcAt j).lsPresent w = true ∧ (∀ v, w < v → v < 128 → (s.lcAt j).lsPresent v = false) ∧
    ∃ pre post, (s.coreAt c).after k = pre ++ j :: post ∧ ∀ i ∈ post, ∀ v, v < 128 → (s.lcAt i).lsPresent v = false)

/-- 08_memory.md R158, R159, 10_consistency.md R199 and 18_context_image.md R336: a multicast store that is due lands in each
target: in its present page, or in its saved copy. One whose target does not hold the page in the writer's terrace is there at once.
Which of two faults of one store is reported is the model's choice (log entry 44). -/
def Sys2Proof.Parts.MulticastStores : Prop :=
  (∀ (s : State), (∃ m ∈ s.multicasts, m.at_ ≤ s.ticks) →
    Happens .multicastLand s ((s.multicasts.filter (fun m => decide (m.at_ ≤ s.ticks))).foldl (fun t m => t.mcLandIn m m.targets)
      { s with multicasts := s.multicasts.filter (fun m => decide (s.ticks < m.at_)) })) ∧
  -- landing: the bytes at their offset in the page of each target, and no other byte
  (∀ (s : State) m ks, m.off % 16384 + m.bytes.length ≤ 16384 →
    let t := s.mcLandIn m ks
    let page := m.off / 16384
    t = { s with mem := t.mem, lcores := t.lcores, free := t.free } ∧
    (∀ k l, k ∈ ks → s.lcores.at? k = some l → l.lsPresent page = true →
      (∀ j x, j ∈ ks → s.lcores.at? j = some x → x.lsPresent page = true → lsAddr x m.off = lsAddr l m.off ∨
        outside (lsAddr x m.off) m.bytes.length (lsAddr l m.off) ∧ outside (lsAddr l m.off) m.bytes.length (lsAddr x m.off)) →
      ∀ i, i < m.bytes.length → t.rawByte (lsAddr l m.off + i) = m.bytes.getD i 0) ∧
    (∀ k l, k ∈ ks → s.lcores.at? k = some l → l.lsPresent page = false → l.lsused.atD page false = true →
      t.lcores.at? k = some { l with saved := (t.lcAt k).saved } ∧
      ∀ o, (t.lcAt k).saved.atD o 0 =
        if m.off ≤ o ∧ o < m.off + m.bytes.length then m.bytes.getD (o - m.off) 0 else l.saved.atD o 0) ∧
    (∀ pa, (∀ k l, k ∈ ks → s.lcores.at? k = some l → l.lsPresent page = true → outside (lsAddr l m.off) m.bytes.length pa) →
      t.rawByte pa = s.rawByte pa) ∧
    (∀ k, k ∉ ks → t.lcores.at? k = s.lcores.at? k)) ∧
  -- issue, of a store inside one page
  (∀ (s : State) k l ce ts off bs, s.lcores.at? k = some l → off % 16384 + bs.length ≤ 16384 →
    let held (j : Nat) : Prop := ∃ x, s.lcores.at? j = some x ∧ x.lsPresent (off / 16384) = true ∧ x.core / 8 = l.core / 8 ∧
      x.loc ≠ .frozen
    ((∀ j ∈ ts, held j) → s.mcIssue k ce ts off bs =
      { s with multicasts := mcInsert ⟨s.ticks + 12, k, ce, ts, off, bs⟩ s.multicasts }) ∧
    ((∀ j ∈ ts, ¬ held j) → ts ≠ [] → s.multicasts = [] → s.mcWeak = [] →
      s.mcIssue k ce ts off bs =
        { s.mcLandIn ⟨s.ticks, k, ce, ts, off, bs⟩ ts with
          mcWeak := [⟨s.ticks, k, ce, ts, off, bs⟩], multicasts := [⟨s.ticks + 12, k, ce, [], off, bs⟩] })) ∧
  (∀ m l, InLandingOrder l → InLandingOrder (mcInsert m l) ∧ ∀ x, x ∈ mcInsert m l ↔ x = m ∨ x ∈ l) ∧
  -- the targets: the team's members whose bit is set in the mask, each of which must have the page allotted
  (∀ (s : State) k l w off n, s.lcores.at? k = some l → 0 < n →
    let named (i : Nat) : Prop := i / 8 = l.lcid / 8 ∧ (w / 2 ^ 21).testBit (i % 8) = true
    let allots (i o : Nat) : Prop := ∃ x, s.lcores.at? (lcKey l.node i) = some x ∧ x.lsAllotted (o / 16384) = true
    let size := (l.launch.atD 2 0).toNat
    ((∃ i, named i ∧ size ≤ i) → s.mcTargets k w off n = .error (3, 0)) ∧
    ((∀ i, named i → i < size) → (∃ i, named i ∧ ¬ allots i off) → s.mcTargets k w off n = .error (4, 0)) ∧
    ((∀ i, named i → i < size ∧ allots i off) → (∃ i, named i ∧ ¬ allots i (off + n - 1)) →
      s.mcTargets k w off n = .error (4, 16384 - off % 16384)) ∧
    ((∀ i, named i → i < size ∧ allots i off ∧ allots i (off + n - 1)) →
      ∃ ts, s.mcTargets k w off n = .ok ts ∧ ∀ j, j ∈ ts ↔ ∃ i, named i ∧ j = lcKey l.node i)) ∧
  -- a store of the streams through the window
  (∀ (s : State) k va (bs : List Byte), let x := (s.lcAt k).ctx
    let w := va - 0x01FFFF0020000000
    0x01FFFF0020000000 ≤ va → va + bs.length ≤ 0x01FFFF0040000000 → 0 < bs.length → va % 4096 + bs.length ≤ 4096 →
    s.inRange x va bs.length = false →
    (∀ ts, s.mcTargets k w (w % 2 ^ 21) bs.length = .ok ts → s.storeCore k va bs = .ok (s.mcIssue k false ts (w % 2 ^ 21) bs)) ∧
    (∀ cause d, s.mcTargets k w (w % 2 ^ 21) bs.length = .error (cause, d) →
      s.storeCore k va bs = .fault cause (BitVec.ofNat 64 (va + d)) false))

/-- 01_device.md R10, 07_traps.md R144, R150, R152, 08_memory.md R159, 13_streams.md R243, R244, 15_sluice.md R276, R282, R286,
17_collectives.md R312 and 19_counters.md R347, R348: what a core cycle counts. A trap or a deadlock that cannot wait is taken
first, and so is a multicast store that is due. -/
def Sys2Proof.Parts.CoreCycle : Prop :=
  (∀ (s : State), (∀ m ∈ s.multicasts, s.ticks < m.at_) → (∀ p ∈ s.cores, ¬ Pressing s p.1) → (∀ x ∈ s.ctxs, x.2.claims = []) →
    ∃ t, Happens .coreCycle s t ∧
      t = { s with
        cycle := s.cycle + 1, ticks := s.ticks + 1, mcWeak := [], free := s.free + 1
        cores := t.cores, lcores := t.lcores, ctxs := t.ctxs, sluices := t.sluices } ∧
      (∀ k l, s.lcores.at? k = some l → ∃ m, t.lcores.at? k = some m ∧
        ((∃ p ∈ s.cores, Awake p.2 ∧ p.2.active = some k) → Ticked l m) ∧
        ((∀ p ∈ s.cores, ¬ (Awake p.2 ∧ p.2.active = some k)) → m = { l with epBusy := false, foCycle := false })) ∧
      (∀ c p, s.cores.at? c = some p → ∃ idle, t.coreAt c = { p with
          wake := if p.power = .waking then p.wake - 1 else p.wake
          swapping := p.swapping.map (· - 1)
          quantum := plus p.quantum p.active.isSome
          swapReq := if s.rotates p then some .rotate else p.swapReq
          idle := idle } ∧
        ∀ n, idle.atD n 0 = p.idle.atD n 0 +
          (if n = s.idleCause c p ∧ n ≠ 1 then 1 else 0) + (if n = 15 ∧ s.apWaits p = true then 1 else 0)) ∧
      (∀ x c, s.ctxs.at? x = some c → t.ctxs.at? x = some (if c.frozen = true ∨ c.freeze ≠ none ∨ c.failed = true then c
        else { c with stage := c.stage.map (fun p => (p.1, { p.2 with elapsed := p.2.elapsed + 1 })) })) ∧
      ((s.ticks + 1) * 2 / 3 = s.ticks * 2 / 3 → t.sluices = s.sluices) ∧
      ((s.ticks + 1) * 2 / 3 ≠ s.ticks * 2 / 3 →
        ∀ n x, s.sluices.at? n = some x → ∃ y, t.sluices.at? n = some y ∧ SluiceTicked x y)) ∧
  -- rotation is due where the active logical core cannot go on by itself and another can
  (∀ (s : State) p, s.rotates p = true ↔ p.swapReq = none ∧ Awake p ∧
    ((p.active = none ∧ ∃ k ∈ p.rot, (s.lcAt k).esc = none) ∨
      ∃ a e, p.active = some a ∧ (s.lcAt a).esc = some e ∧ e.passed = true ∧ ∃ k ∈ p.after a, (s.lcAt k).esc = none)) ∧
  -- the lowest cause that holds
  (∀ (s : State) c p, let n := s.idleCause c p
    (p.power ≠ .awake → n = 1) ∧
    (p.power = .awake → p.active = none → n = if s.budgetHolds then 2 else 3) ∧
    (∀ k, p.power = .awake → p.active = some k → let l := s.lcAt k
      let swap := p.swapping ≠ none ∨ (p.swapReq ≠ none ∧ s.trapping k = false) ∨ s.fillWaits c = true
      let trap := l.trapReq ≠ none ∨ l.trapMode = true ∨ l.esc ≠ none
      (l.epBusy = true → n = 0) ∧ (l.epBusy = false → swap → n = 4) ∧ (l.epBusy = false → ¬ swap → trap → n = 5) ∧
      (l.epBusy = false → ¬ swap → ¬ trap → l.ep.halted = true → n = 6) ∧
      (l.epBusy = false → ¬ swap → ¬ trap → l.ep.halted = false → 7 ≤ n ∧ n ≤ 13 ∧
        (∀ i j, l.ep.stall = some (.page i j) → n = 7) ∧ (∀ i j, l.ep.stall = some (.queueEmpty i j) → n = 8) ∧
        (∀ i, l.ep.stall = some (.queueFull i) → n = 9) ∧
        (l.ep.stall = some .rillPrev ∨ l.ep.stall = some .rillNext → n = 10) ∧
        (l.ep.stall = some .fifo ∨ l.ep.stall = some .mxSync → n = 11) ∧ (l.ep.stall = none → n = 13))))

/-- Four parts: TrapEvents, SwapEvents, MulticastStores and CoreCycle.

07_traps.md R140, R143, R144, R146, R147 and 08_memory.md R157: a detected fault is taken as the trap it is; an escalation is
passed to firmware once; a handler that runs for a quantum escalates; firmware resumes a logical core, or its handler, and fails the
context of one that accesses a page of local store that is not allotted.

07_traps.md R150 to R152, R371 and 08_memory.md R157: bank swaps, the spill engine, rotation and the pages of the local store.
Where a save area lies is the model's choice (log entry 37); what it evicts while a swap is under way, its reading (log entry 54).

08_memory.md R158, R159, 10_consistency.md R199 and 18_context_image.md R336: a multicast store that is due lands in each
target: in its present page, or in its saved copy. One whose target does not hold the page in the writer's terrace is there at once.
Which of two faults of one store is reported is the model's choice (log entry 44).

01_device.md R10, 07_traps.md R144, R150, R152, 08_memory.md R159, 13_streams.md R243, R244, 15_sluice.md R276, R282, R286,
17_collectives.md R312 and 19_counters.md R347, R348: what a core cycle counts. A trap or a deadlock that cannot wait is taken
first, and so is a multicast store that is due. -/
def Obligations.CoreEvents : Prop := Parts.TrapEvents ∧ Parts.SwapEvents ∧ Parts.MulticastStores ∧ Parts.CoreCycle

namespace Sys2Proof.Spec

/-! ## Engines -/

/-- The engines of physical core `c` run for logical core `k`: it is active, its core is awake, no swap is under way, no
multicast store is due, no trap is detected or handled, and firmware does not hold it (07_traps.md R140, R143, R147, R150). -/
abbrev EngineRuns (s : State) (c k : Nat) : Prop :=
  (s.coreAt c).active = some k ∧ (s.coreAt c).swapping = none ∧ (s.coreAt c).power = .awake ∧
  (∀ m ∈ s.multicasts, s.ticks < m.at_) ∧ (s.lcAt k).trapMode = false ∧ (s.lcAt k).esc = none ∧ (s.lcAt k).trapReq = none ∧
  (s.lcAt k).pend = []

/-- Logical core `l` with fault `x` detected in this core cycle (R140, R141). -/
def faulty (s : State) (l : LCore) (x : TrapInfo) : LCore := { l with trapReq := some x, trapAt := s.cycle }

/-- Engine event `i` finds the fault `x` of logical core `k`, which otherwise becomes `l`: the core freezes, and nothing else of
the device differs (R140, R143). -/
def Detects (i : Instr) (s : State) (k : Nat) (l : LCore) (x : TrapInfo) : Prop :=
  exec i s = .next ((s.setLc k (faulty s l x)).verdict .trapped)

/-- No assist ruling is owed to unit `u`. -/
abbrev NoRuling (l : LCore) (u : Nat) : Prop := l.assist.map Prod.fst ≠ some u

/-- FTZ as a command captured it (09_numbers.md R178). -/
def tinyOf (ftz : Bool) : Sub := if ftz then .flush else .assist

/-! ### Copy and gather -/

/-- The commands of engine `g` (the GE, else the CE), its head command, its progress, and the status that it holds. -/
def commands (l : LCore) (g : Bool) : List CgCmd := if g then l.geFifo else l.ceFifo
abbrev Head (l : LCore) (g : Bool) (c : CgCmd) : Prop := (commands l g).head? = some c
def progress (l : LCore) (g : Bool) : Progress := if g then l.geProg else l.ceProg
def withProgress (l : LCore) (g : Bool) (p : Progress) : LCore := if g then { l with geProg := p } else { l with ceProg := p }
def heldStatus (l : LCore) (g : Bool) : Option (Nat × Word) := if g then l.geHeld else l.ceHeld
def holding (l : LCore) (g : Bool) (x : Option (Nat × Word)) : LCore := if g then { l with geHeld := x } else { l with ceHeld := x }

/-- The commands of engine `g` that have not written their status. -/
def unwritten (l : LCore) (g : Bool) : List CgCmd := if (progress l g).done then (commands l g).tail else commands l g

/-- The head command has ended, and holds its status `v` back (R60, R248). -/
def Withheld (l : LCore) (g : Bool) (c : CgCmd) (v : Word) : Prop :=
  heldStatus l g = some (c.token, v) ∧ (progress l g).done = false ∧ ((progress l g).count = c.total ∨ v.msb = true)

/-- The head command is started and has not ended. -/
abbrev UnderWay (s : State) (c k : Nat) (g : Bool) (x : CgCmd) : Prop :=
  EngineRuns s c k ∧ Head (s.lcAt k) g x ∧ (progress (s.lcAt k) g).started = true ∧ (progress (s.lcAt k) g).done = false ∧
  ∀ v, ¬ Withheld (s.lcAt k) g x v

/-- No earlier-issued command of the other engine owes its status to the register of `x` (R60). -/
abbrev OwesNone (l : LCore) (g : Bool) (x : CgCmd) : Prop := ∀ y ∈ unwritten l (!g), y.token = x.token → earlier y.seq x.seq = false

/-- The writes of the head command have landed (R248 step 1): no multicast store of the CE is in flight. -/
abbrev Landed (s : State) (k : Nat) (g : Bool) : Prop := g = false → ∀ m ∈ s.multicasts, m.writer = k → m.ce = true → m.targets = []

/-- The status word (13_streams.md Table 5). -/
def statusWord (failed : Nat) (rcx : Bool) (count : Nat) : Word :=
  BitVec.ofNat 64 ((if failed = 0 then 2 ^ 62 else 2 ^ 63 + failed * 2 ^ 48) + (if rcx then 2 ^ 61 else 0) + count % 2 ^ 48)

/-- The head command leaves its FIFO with its signals given. -/
def popHead (l : LCore) (g : Bool) (q : Rill) : LCore :=
  let m := l.rillGive posC q
  if g then { m with geFifo := l.geFifo.tail, geProg := Progress.zero } else { m with ceFifo := l.ceFifo.tail, ceProg := Progress.zero }

/-- The status `v` of the head command is written into register `r`. -/
def statusWritten (l : LCore) (g : Bool) (r : Nat) (v : Word) : LCore :=
  holding (withProgress { l with ap := { l.ap with regs := l.ap.regs.put r v 0 } } g { progress l g with done := true }) g none

/-- Steps 4 and 5 of R248, in which the head command has the status `v`: it is written and the signals are given; while a queue is
full the signals wait; and while an earlier command owes the register its status the whole does. -/
def Ends (i : Instr) (s : State) (k : Nat) (l : LCore) (g : Bool) (x : CgCmd) (v : Word) : Prop :=
  (OwesNone l g x → l.rillFull posC x.rill = false →
    Happens i s (s.setLc k (popHead (statusWritten l g x.token v) g x.rill))) ∧
  (OwesNone l g x → l.rillFull posC x.rill = true → Happens i s (s.setLc k (statusWritten l g x.token v))) ∧
  (¬ OwesNone l g x → Happens i s (s.setLc k (holding l g (some (x.token, v)))))

/-- The RC commit of a completed command leaves `m`, and RCX says that it was not applied (R248 step 3, R254). -/
def Committed (l : LCore) (x : CgCmd) (m : LCore) (rcx : Bool) : Prop :=
  let n := x.ctl.toNat / 2 ^ 41 % 16
  if x.ctl.getLsbD 40 = false ∨ gap (l.ring n).claim (l.ring n).tail = 0 then m = l ∧ rcx = x.ctl.getLsbD 40
  else m = l.setRing n { l.ring n with tail := ((l.ring n).tail + 1) % 2 ^ 32 } ∧ rcx = false

/-- Operand words that an M function pops (05_matrix.md Table 3). -/
def operandCount (func : Nat) : Nat := [4, 4, 0, 2, 2, 2, 1, 1, 0, 0].getD func 0

/-- The follow-on of `x` (R245): its M word, and the operand words that this pops. -/
def followOnOf (x : CgCmd) : FollowOn :=
  let w := (x.foWord 0).toNat
  ⟨w, x.pc, [x.foWord 1, x.foWord 2, x.foWord 3, x.foWord 4].take (operandCount (w / 2 ^ 17 % 16))⟩

/-- The first word of the follow-on group breaks R103, or names what the kernel does not declare (R111, R245). -/
def BadFollowOn (l : LCore) (w : Word) : Prop :=
  2 ^ 32 ≤ w.toNat ∨ w.toNat / 2 ^ 21 % 64 ≠ 0x30 ∨ w.toNat % 32 ≠ 0 ∨ (MFields.of w.toNat).bad = true ∨
  l.kern.mxUndeclared (MFields.of w.toNat) = true

/-- The M FIFO has room for the word: `mx.sync` asks for an empty one (R108, R109). -/
abbrev RoomFor (l : LCore) (word : Nat) : Prop := if word / 2 ^ 17 % 16 = 9 then l.mxFifo = [] else l.mxFifo.length < 16

/-- A follow-on enters the M FIFO with FTZ and MXMASK as they are now. A bare `mx.sync` is done at once, and an `mx.mask` writes
MXMASK (the model's reading, log entries 20 and 61). -/
def mxEntered (l : LCore) (f : FollowOn) : LCore :=
  let func := f.word / 2 ^ 17 % 16
  let m := if func = 9 ∧ f.word / 2 ^ 28 % 16 = 0 then l
    else { l with mxFifo := l.mxFifo ++ [⟨f.word, true, l.fpmode.getLsbD 0, l.mxmask, f.ops, f.pc, 0⟩], foCycle := true }
  if func = 6 then { m with mxmask := f.ops.headD 0 } else m

/-- An access of the CE or the GE, taken block by block, reaches its bytes: none of them lies in a listed range or in the
multicast window, and each block passes the checks of 04_scalar.md R82 (13_streams.md R251). -/
inductive Reaches (s : State) (x k : Nat) (how : Access) : Nat → Nat → List Run → Prop where
  | none (va : Nat) : Reaches s x k how va 0 []
  | block (va n : Nat) (r q : List Run) : 0 < n → s.inRange x va (min n (4096 - va % 4096)) = false →
      s.runs x k how 2 va (min n (4096 - va % 4096)) = .ok r → (∀ y ∈ r, ∃ pa e, y.place = .phys pa e) →
      Reaches s x k how (va + min n (4096 - va % 4096)) (n - min n (4096 - va % 4096)) q → Reaches s x k how va n (r ++ q)

/-- A block of an access, at `b` and `n` bytes long, fails: a check at `a` before any byte in a listed range, such a byte, or the
multicast window. -/
def BlockFails (s : State) (x k : Nat) (how : Access) (b n cause : Nat) (a : Word) : Prop :=
  (s.runs x k how 2 b n = .fault cause a false ∧ (b = a.toNat ∨ s.inRange x b (a.toNat - b) = false)) ∨
  (cause = 3 ∧ a = BitVec.ofNat 64 b ∧ b < 2 ^ 64 ∧ ∃ r, s.runs x k how 2 b n = .ok r ∧ ∃ y ∈ r, ∃ w, y.place = .multicast w) ∨
  (cause = 5 ∧ ∃ i, i < n ∧ a = BitVec.ofNat 64 (b + i) ∧ s.inRange x (b + i) 1 = true ∧
    (∀ j, j < i → s.inRange x (b + j) 1 = false) ∧
    ((∃ r, s.runs x k how 2 b n = .ok r ∧ ∀ y ∈ r, ∃ pa e, y.place = .phys pa e) ∨
      ∃ d e, s.runs x k how 2 b n = .fault d e false ∧ b + i < e.toNat))

/-- An access of `n` bytes from `va` fails first at `a`, its blocks before that one passing. -/
def FailsAt (s : State) (x k : Nat) (how : Access) (va n cause : Nat) (a : Word) : Prop :=
  ∃ m rs, m < n ∧ (m = 0 ∨ (va + m) % 4096 = 0) ∧ Reaches s x k how va m rs ∧
    BlockFails s x k how (va + m) (min (n - m) (4096 - (va + m) % 4096)) cause a

/-- An engine of context `x` reads `bs` at `va`, and leaves `t`. -/
def ReadsTo (s : State) (x k va n : Nat) (bs : List Byte) (t : State) : Prop :=
  ∃ rs, Reaches s x k .load va n rs ∧ bs = s.runsBytes rs ∧ t = s.readMarks x rs

/-- It writes `bs` at `va`. -/
def WritesTo (s : State) (x k va : Nat) (bs : List Byte) (t : State) : Prop :=
  ∃ rs, Reaches s x k .store va bs.length rs ∧ t = (s.writeMarks x rs).putRuns rs bs

/-- `n` bytes move from `src` to `dst`: all are read before any is written (R249, R250). -/
def MovesTo (s : State) (x k src dst n : Nat) (t : State) : Prop := ∃ bs s1, ReadsTo s x k src n bs s1 ∧ WritesTo s1 x k dst bs t

/-- Logical core `k` of `t` with `n` counted on engine `g`'s progress, and `e` on the performance event `code`. -/
def advanced (s t : State) (k : Nat) (g : Bool) (n code e : Nat) : State :=
  let l := s.lcAt k
  let m := t.lcAt k
  t.setLc k (withProgress { m with pcs := (m.count code e).pcs } g
    { progress l g with count := (progress l g).count + n })

/-! ### The matrix array -/

/-- Element (i, j) of an accumulator is enabled by both of its masks (05_matrix.md R98). -/
def enabled (mask : Word) (i j : Nat) : Bool := mask.getLsbD i && mask.getLsbD (32 + j)

/-- Of bank `n` of `l`, `m` has `f i j` at the enabled elements, and is otherwise as `l`. -/
def BankSet (l m : LCore) (n : Nat) (mask : Word) (f : Nat → Nat → Nat) : Prop :=
  ∀ b i j, i < 32 → j < 32 → m.bank b i j = if b = n ∧ enabled mask i j = true then f i j % 2 ^ 32 else l.bank b i j

/-- The head command of the matrix array at `s`, started and under way, its fields, and no ruling owed. -/
abbrev MxUnderWay (s : State) (c k : Nat) (m : MxCmd) (func : Nat) : Prop :=
  EngineRuns s c k ∧ (s.lcAt k).mxFifo.head? = some m ∧ m.fields.func = func ∧ (s.lcAt k).mxProg.started = true ∧
  (s.lcAt k).mxProg.done = false ∧ NoRuling (s.lcAt k) 3

/-- A step of the matrix array: `t` differs from `s1` in logical core `k` alone, whose step count becomes `n` and which is done
or not. -/
def MxSteps (s s1 t : State) (c k n : Nat) (done : Bool) : Prop :=
  Happens (.mxStep c) s t ∧ t = { s1 with lcores := t.lcores } ∧ (t.lcAt k).mxProg.count = n ∧ (t.lcAt k).mxProg.done = done

/-- The trap of a fault of matrix command `m` (R111, R112). -/
def mxTrap (m : MxCmd) (cause : Nat) (a : Word) : TrapInfo := ⟨cause, 3, if m.followOn then 0 else m.syl, !m.followOn, m.pc, a⟩

/-- A fault of a matrix step: a PAGE-FAULT sets MXROW with the bank and the count (R113). -/
def MxFaults (s : State) (c k : Nat) (m : MxCmd) (cause : Nat) (a : Word) : Prop :=
  let l := s.lcAt k
  Detects (.mxStep c) s k (if cause = 4 then
    { l with mxrow := BitVec.ofNat 64 (2 ^ 63 + m.fields.c * 2 ^ 16 + l.mxProg.count % 2 ^ 16) } else l) (mxTrap m cause a)

/-- Word `i` of the operands. -/
abbrev operand (m : MxCmd) (i : Nat) : Word := m.ops.getD i 0

/-- A signed 32-bit stride in the low half of a word. -/
def strideOf (w : Word) : Word := (w.setWidth 32).signExtend 64

/-- k values in a step (05_matrix.md Table 1), and whether the type sums over a period. -/
def kDepth (ty : Nat) : Nat := [1, 1, 4, 4, 8, 8, 1, 16, 1, 1, 1, 8].getD ty 1
abbrev Periodic (ty : Nat) : Prop := 2 ≤ ty ∧ ty ≤ 5

/-- Addresses of A(i, k) and B(k, j), and of element (i, j) of a transfer (R96, R97, R104, R105). -/
def addrOfA (m : MxCmd) (ty i x : Nat) : Nat :=
  (operand m 0 + BitVec.ofNat 64 i * strideOf (operand m 1) + BitVec.ofNat 64 (if ty = 7 then x / 4 else x * mxSize ty)).toNat
def addrOfB (m : MxCmd) (ty x j : Nat) : Nat :=
  (operand m 2 + BitVec.ofNat 64 x * strideOf (operand m 3) + BitVec.ofNat 64 (j * mxSize ty)).toNat
def addrOfC (m : MxCmd) (n i j : Nat) : Nat :=
  (operand m 0 + BitVec.ofNat 64 i * strideOf (operand m 1) + BitVec.ofNat 64 (j * n)).toNat

/-- Depth and promotion period of a product (R97, Table 2). -/
def depthOf (m : MxCmd) : Nat := (operand m 1).toNat / 2 ^ 32 % 2 ^ 16
def periodOf (m : MxCmd) : Nat := (operand m 1).toNat / 2 ^ 52

/-- Check 1 of 05_matrix.md Table 7. -/
def BadMatrixOperands (s : State) (l : LCore) (m : MxCmd) : Prop :=
  let w := fun i => (operand m i).toNat
  let f := m.fields
  (f.func ≤ 1 ∧ (w 1 / 2 ^ 48 % 16 ≠ 0 ∨ w 3 / 2 ^ 32 ≠ 0 ∨
    (Periodic f.ty ∧ (periodOf m = 0 ∨ 2048 < periodOf m ∨ periodOf m % kDepth f.ty ≠ 0)))) ∨
  ((f.func = 3 ∨ f.func = 4) ∧ w 1 / 2 ^ 32 ≠ 0) ∨ (f.func = 5 ∧ w 1 / 2 ^ 35 ≠ 0) ∨
  (f.func = 7 ∧ (w 0 / 2 ^ 60 ≠ 0 ∨ w 0 / 2 ^ 12 % 16 ≠ 0 ∨ w 0 / 2 ^ 44 % 2 ^ 16 = 0 ∨
    let t := (s.ctxAt l.ctx).tdesc (w 0 % 4096)
    t.v = false ∨ t.n < w 0 / 2 ^ 16 % 2 ^ 28 + w 0 / 2 ^ 44 % 2 ^ 16))

/-- The addresses that a command reads or writes, in the order in which their alignment is checked, and the alignment. -/
def accessed (m : MxCmd) : List Nat × List Nat × Nat :=
  let rows := maskRows m.mask
  let cols := maskCols m.mask
  let f := m.fields
  let n := if f.func = 5 then tyBits f.ty / 8 else 4
  if f.func ≤ 1 then
    if cols = [] then ([], [], 1)
    else (rows.flatMap (fun i => (List.range (depthOf m)).map (addrOfA m f.ty i)),
      if rows = [] then [] else (List.range (depthOf m)).flatMap (fun x => cols.map (addrOfB m f.ty x)), mxSize f.ty)
  else if 3 ≤ f.func ∧ f.func ≤ 5 then (rows.flatMap (fun i => cols.map (addrOfC m n i)), [], n)
  else ([], [], 1)

/-- `a` is the lowest of `xs` that is no multiple of `n`. -/
def LowestOdd (n : Nat) (xs : List Nat) (a : Nat) : Prop := a ∈ xs ∧ a % n ≠ 0 ∧ ∀ b ∈ xs, b % n ≠ 0 → a ≤ b

/-- The accesses of an engine at the addresses `vas`, of `n` bytes each, all pass. -/
abbrev AllPass (s : State) (x k : Nat) (how : Access) (n : Nat) (vas : List Nat) : Prop :=
  ∀ va ∈ vas, ∃ rs, s.access x k how va n = .ok rs ∧ ∀ r ∈ rs, ∃ pa e, r.place = .phys pa e

/-- The access at `va` fails at `a`: a check of its own, or the multicast window. -/
def FailsWith (s : State) (x k : Nat) (how : Access) (n va cause : Nat) (a : Word) (table : Bool) : Prop :=
  s.access x k how va n = .fault cause a table ∨
  (cause = 3 ∧ a = BitVec.ofNat 64 va ∧ table = false ∧ ∃ rs, s.access x k how va n = .ok rs ∧ ∃ r ∈ rs, ∃ w, r.place = .multicast w)

/-- Of those accesses one fails at `a`, the lowest failing address. -/
def OneFails (s : State) (x k : Nat) (how : Access) (n : Nat) (vas : List Nat) (cause : Nat) (a : Word) : Prop :=
  (∃ va ∈ vas, FailsWith s x k how n va cause a false) ∧ (∀ va ∈ vas, va < 2 ^ 64) ∧
  ∀ va ∈ vas, ∀ d e b, FailsWith s x k how n va d e b → d = cause ∧ e = a ∧ b = false ∨ a.toNat < e.toNat

/-- The values of `n` bytes at each of `vas` are read in turn. -/
inductive Reading (x k n : Nat) : State → List Nat → List Nat → State → Prop where
  | none (s : State) : Reading x k n s [] [] s
  | one (s s1 t : State) (va : Nat) (vas : List Nat) (bs : List Byte) (vs : List Nat) : s.readVa x k va n = .ok (bs, s1) →
      Reading x k n s1 vas vs t → Reading x k n s (va :: vas) (ofBytes bs :: vs) t

/-- The FP24 partial of a period: `part d as bs p q` runs from `p` to `q`, one rounding for each `d` products (R99). -/
inductive Partial (d : Nat) : List FV → List FV → FV → FV → Prop where
  | none (bs : List FV) (p : FV) : Partial d [] bs p p
  | step (as bs : List FV) (p q : FV) : as ≠ [] → 0 < d →
      Partial d (as.drop d) (bs.drop d)
        (fp24.value ((FV.add .rne p (FV.sum .rne (((as.take d).zip (bs.take d)).map (fun y => (FV.mul y.1 y.2).1))).1).1.round
          fp24 .rne .gradual).bits) q → Partial d as bs p q

/-! ### The rotator -/

/-- The head command of the rotator, started. -/
abbrev RtUnderWay (s : State) (c k : Nat) (m : RtCmd) : Prop :=
  EngineRuns s c k ∧ (s.lcAt k).rtFifo.head? = some m ∧ (s.lcAt k).rtProg.started = true ∧ NoRuling (s.lcAt k) 4

/-- The fields of a G word (06_rotator.md R125), and the regions of its two descriptors. -/
def gFunc (m : RtCmd) : Nat := m.word / 2 ^ 17 % 16
def gMode (m : RtCmd) : Nat := m.word / 2 ^ 15 % 4
def gSub (m : RtCmd) : Nat := m.word / 2 ^ 4 % 8
abbrev dA (m : RtCmd) : Region := Region.of m.da
abbrev dB (m : RtCmd) : Region := Region.of m.db
def size (r : Region) : Nat := r.count0 * r.count1

/-- The commands that stream rows or items, and how many (R128 to R131). -/
abbrev Streams (m : RtCmd) : Prop := gFunc m = 3 ∨ gFunc m = 4 ∨ gFunc m = 5 ∨ gFunc m = 6 ∨ gFunc m = 8
def rowCount (m : RtCmd) : Nat :=
  if gFunc m = 4 ∨ gFunc m = 5 then min (dA m).count1 (dB m).count1
  else if gFunc m = 6 then min (size (dA m)) (size (dB m))
  else if size (dA m) = 0 then 0 else (dA m).count1

/-- Check 1 of 06_rotator.md Table 4 on descriptors and counts. -/
def BadRotatorOperands (m : RtCmd) : Prop :=
  (gFunc m = 3 ∧ 16 < (dA m).count0) ∨ (gFunc m = 8 ∧ (16 < (dA m).count0 ∨ size (dB m) < 120)) ∨
  (gFunc m = 7 ∧ ((dA m).count1 = 0 ∨ 16 < (dA m).count1 ∨ (dA m).count0 < gSub m ∨ size (dB m) < (dA m).count1))

/-- The first `n` elements of a region in walk order. -/
def firstEls (r : Region) (n : Nat) : List El := (List.range (min n (size r))).map r.el

/-- The elements of row or item `r` that hold words to apply; and all that it, or a whole command, reads or writes. -/
def wordsIn (m : RtCmd) (r : Nat) : List El :=
  if gFunc m = 5 then (own2 (dB m) 0 r).toList else if gFunc m = 8 then firstEls (dB m) 120 else []
def elements (m : RtCmd) (r : Nat) : List El :=
  let a := dA m
  let b := dB m
  match gFunc m with
  | 1 => firstEls a 200
  | 2 => firstEls a 200
  | 10 => firstEls a 64
  | 3 => (List.range 16).filterMap (fun j => own2 a j r) ++ (List.range (gSub m)).filterMap (fun c => own2 b c r)
  | 4 => (own2 a 0 r).toList ++ (own2 a 1 r).toList ++ (own2 b 0 r).toList
  | 5 => (own2 a 0 r).toList ++ (own2 a 1 r).toList ++ (own2 b 0 r).toList
  | 6 => (own a r).toList ++ (own b r).toList
  | 8 => (List.range 16).filterMap (fun j => own2 a j r) ++ firstEls b 120
  | 7 => (List.range a.count1).flatMap (fun i => (List.range (gSub m)).filterMap (fun c => own2 a c i)) ++ firstEls b a.count1
  | _ => []

/-- A rotation word of R119 that is malformed: a reserved bit, or Z with another bit. -/
def Malformed (w : Nat) : Prop := w / 2 ^ 27 % 32 ≠ 0 ∨ (w.testBit 26 = true ∧ w % 2 ^ 26 ≠ 0)

/-- Row or item `r`, or the whole command, passes its checks (R136). -/
def RtPasses (s : State) (l : LCore) (m : RtCmd) (r : Nat) : Prop :=
  s.checkEls l (elements m r) = .ok ∧ ∀ x ∈ wordsIn m r, ¬ Malformed (s.readEl l x)

/-- It fails them: a word that passes its own location's checks is malformed, or else the first location fails. -/
def RtFails (s : State) (l : LCore) (m : RtCmd) (r cause : Nat) (a : Word) : Prop :=
  (cause = 8 ∧ a = 0 ∧ ∃ x ∈ wordsIn m r, s.checkEls l [x] = .ok ∧ Malformed (s.readEl l x)) ∨
  ((∀ x ∈ wordsIn m r, s.checkEls l [x] = .ok → ¬ Malformed (s.readEl l x)) ∧ s.checkEls l (elements m r) = .fault cause a)

/-- The trap of a fault of rotator command `m`. -/
def rtTrap (m : RtCmd) (cause : Nat) (a : Word) : TrapInfo := ⟨cause, 4, m.syl, true, m.pc, a⟩

/-- The value of an element, +0 at the edge; and the writes to the elements that are there. -/
def valueAt (s : State) (l : LCore) (x : Option El) : Nat := (x.map (s.readEl l)).getD 0
def writesOf (ws : List (Option El × Nat)) : List (El × Nat) := ws.filterMap (fun p => p.1.map (fun x => (x, p.2)))

/-- Event `i` commits: the elements `ws` are written, logical core `k` becomes `m` (which differs from it in TRI and RTCNT alone)
with `flags` set in FPMODE, and `f` says what else of it changes. -/
def RtCommits (i : Instr) (s : State) (k : Nat) (m : LCore) (flags : Nat) (ws : List (El × Nat)) (f : LCore → LCore) : Prop :=
  m = { s.lcAt k with tri := m.tri, rtcnt := m.rtcnt } ∧
  Happens i s ((s.writeEls (s.lcAt k) ws).setLc k (f { m with fpmode := m.fpmode ||| BitVec.ofNat 64 (flags * 16) }))

/-- A row is counted. -/
def rowDone (n : Nat) (l : LCore) : LCore := { l with rtProg := { l.rtProg with count := n + 1 }, pcs := (l.count 7 1).pcs }

/-- The head command leaves its FIFO with its signals given. -/
def rtGone (q : Rill) (l : LCore) : LCore := { l.rillGive posR q with rtFifo := l.rtFifo.tail, rtProg := Progress.zero }

/-- A bit of `f` is set exactly where some value of which `p` holds has it. -/
def FlagsOf (f : Nat) (p : Nat → Prop) : Prop := ∀ b, f.testBit b = true ↔ ∃ g, p g ∧ g.testBit b = true

/-- The exponent of the larger of two finite values, not both zero, and a value aligned to it (R118). -/
def expOf : FV → Option Int
  | .fin _ m x => if m = 0 then none else some (m.log2 + x)
  | _ => none
def topExp (a b : FV) : Int := match expOf a, expOf b with
  | some x, some y => max x y
  | some x, none => x
  | none, some y => y
  | none, none => 0
def fixed (v : FV) (e : Int) : Int := match v with
  | .fin neg m x =>
    let t := x + 30 - e
    let n : Nat := if 0 ≤ t then m * 2 ^ t.toNat else m / 2 ^ (-t).toNat
    if neg then - (n : Int) else n
  | _ => 0

/-- renorm of R118: one rounding of V · 2^(e − 30), or of V · CK · 2^(e − 64). -/
def renormed (sub : Sub) (v e : Int) (comp : Bool) : RRes :=
  if comp then (FV.fin (decide (v < 0)) (v.natAbs * 0x26DD3B6A1) (e - 64)).round fp32 .rne sub
  else (FV.fin (decide (v < 0)) v.natAbs (e - 30)).round fp32 .rne sub

/-- A step of micro (R118). -/
abbrev Turned (k : Nat) (cw : Bool) (x y x' y' : Int) : Prop :=
  let d : Int := 2 ^ k
  if cw then x' = x + y / d ∧ y' = y - x / d else x' = x - y / d ∧ y' = y + x / d

abbrev oddPair (a b : FV) : Bool := a.isNan || b.isNan || a.isInf || b.isInf

/-- Table 2 of R121. -/
def angle (k : Nat) : Int :=
  ([0x20000000, 0x12E4051E, 0x09FB385B, 0x051111D4, 0x028B0D43, 0x0145D7E1, 0x00A2F61E, 0x00517C55] ++
   [0x0028BE53, 0x00145F2F, 0x000A2F98, 0x000517CC, 0x00028BE6, 0x000145F3, 0x0000A2FA, 0x0000517D] ++
   [0x000028BE, 0x0000145F, 0x00000A30, 0x00000518, 0x0000028C, 0x00000146, 0x000000A3, 0x00000051]).getD k 0

/-- The sum of 2^k over the k below 24 for which `p` holds. -/
def signBits (p : Nat → Bool) : Nat := (List.range 24).foldl (fun t k => t + if p k then 2 ^ k else 0) 0

/-- TRI entries of U(i, j) and B(i, c) (03_registers.md R69). -/
def atU (i j : Nat) : Nat := i * 16 - i * (i - 1) / 2 + (j - i)
def atB (i c : Nat) : Nat := 136 + 4 * i + c

/-- The deferred compensation of entry `n` of TRI, in row `i` (R124). -/
def deferred (l : LCore) (sub : Sub) (i n : Nat) : Cell Nat := compensate sub (l.cntAt i) (l.triAt n)

/-- TRI of `m` has every U compensated, and B as `l`; every count is 0. -/
def UCompensated (l m : LCore) (sub : Sub) : Prop :=
  m.rtcnt = [] ∧ (∀ i j, i ≤ j → j < 16 → m.triAt (atU i j) = (deferred l sub i (atU i j)).val % 2 ^ 32) ∧
  ∀ i c, i < 16 → c < 4 → m.triAt (atB i c) = l.triAt (atB i c)

/-- The compensation of every U asks for no assist. -/
abbrev UPlain (l : LCore) (sub : Sub) : Prop := ∀ i j, i ≤ j → j < 16 → (deferred l sub i (atU i j)).assist = false

end Sys2Proof.Spec

/-! ## Engines -/

/-- 13_streams.md R241, R246, R249 to R251 with Table 6: a copy or gather command takes its waits and starts, or faults on its
operands; a chunk or a step reads, then writes; the first access that fails decides the trap. -/
def Sys2Proof.Parts.CopyAndGather : Prop :=
  (∀ s c k g x, EngineRuns s c k → Head (s.lcAt k) g x →
    let l := s.lcAt k
    progress l g = Progress.zero → (x.rill.wp = true ∨ x.rill.wn = true →
      ∀ y ∈ (if (progress l (!g)).waited then (commands l (!g)).tail else commands l (!g)),
        y.rill.wp = true ∨ y.rill.wn = true → earlier y.seq x.seq = false) →
    l.rillWait posC x.rill = none →
    let m := withProgress (l.rillTake posC x.rill) g { Progress.zero with waited := true }
    let w := x.ctl.toNat
    let rows := w / 2 ^ 20 % 2 ^ 16
    let bad := w / 2 ^ 45 ≠ 0 ∨ w / 2 ^ 39 % 2 = 1 ∨ w % 2 ^ 20 = 0 ∨
      (w / 2 ^ 40 % 2 = 1 ∧ (l.ring (w / 2 ^ 41 % 16)).v = false) ∨
      (x.form = .cp ∨ x.form = .cpMc ∨ x.form = .cpFill) ∧ w / 2 ^ 20 % 2 ^ 19 ≠ 0 ∨
      x.form = .cp2d ∧ (w / 2 ^ 36 % 8 ≠ 0 ∨ rows = 0) ∨
      x.form = .cpMc ∧ ((x.ga 0).toNat < 0x01FFFF0020000000 ∨ 0x01FFFF0040000000 ≤ (x.ga 0).toNat) ∨
      (x.form = .gather ∨ x.form = .scatter) ∧ rows ≠ 0 ∨ x.form = .gather2d ∧ (w / 2 ^ 36 % 4 ≠ 0 ∨ rows = 0)
    (¬ bad → Happens (.ceCommandStart c g) s
      (s.setLc k (withProgress m g { Progress.zero with waited := true, started := true }))) ∧
    (bad → Detects (.ceCommandStart c g) s k m ⟨9, if g then 6 else 5, 0, false, x.pc, 0⟩)) ∧
  -- a chunk of a copy: up to 4 KiB of a row
  (∀ s c k x t, UnderWay s c k false x → (s.lcAt k).ceProg.count < x.total → 0 < x.len →
    let l := s.lcAt k
    let o := l.ceProg.count % x.len
    let r := BitVec.ofNat 64 (l.ceProg.count / x.len)
    let n := min 4096 (x.len - o)
    let by_ := fun (y : Word) => if x.form = .cp2d then r * y else 0
    let src := (x.gb 0 + by_ (x.gb 1) + BitVec.ofNat 64 o).toNat
    let dst := (x.ga 0 + by_ (x.ga 2) + BitVec.ofNat 64 o).toNat
    let fault := fun cause a => Detects (.copyChunk c) s k l ⟨cause, 5, 0, false, x.pc, a⟩
    (x.form = .cp ∨ x.form = .cp2d →
      (MovesTo s l.ctx k src dst n t → Happens (.copyChunk c) s (advanced s t k false n 8 n)) ∧
      (∀ cause a, FailsAt s l.ctx k .load src n cause a → fault cause a) ∧
      (∀ bs s1 cause a, ReadsTo s l.ctx k src n bs s1 → FailsAt s1 l.ctx k .store dst n cause a → fault cause a)) ∧
    (x.form = .cpFill →
      (WritesTo s l.ctx k dst ((List.range n).map (fun i => (bytesOf 8 (x.gb 0).toNat).getD ((o + i) % 8) 0)) t →
        Happens (.copyChunk c) s (advanced s t k false n 8 n)) ∧
      (∀ cause a, FailsAt s l.ctx k .store dst n cause a → fault cause a)) ∧
    (x.form = .cpMc → ∀ bs s1, ReadsTo s l.ctx k src n bs s1 →
      let w := (x.ga 0).toNat - 0x01FFFF0020000000
      let off := w % 2 ^ 21 + o
      let row := (x.ga 0).toNat + o
      (∀ ts, off + n ≤ 2 ^ 21 → s1.mcTargets k w off n = .ok ts → s1.inRange l.ctx row n = false →
        t = s1.mcIssue k true ts off bs → Happens (.copyChunk c) s (advanced s t k false n 8 n)) ∧
      (2 ^ 21 ≤ off → fault 3 (BitVec.ofNat 64 row)) ∧
      (off < 2 ^ 21 → 2 ^ 21 < off + n → ∀ ts, s1.mcTargets k w off (2 ^ 21 - off) = .ok ts →
        s1.inRange l.ctx row (2 ^ 21 - off) = false → fault 3 (BitVec.ofNat 64 (row + (2 ^ 21 - off)))) ∧
      (∀ cause d, off < 2 ^ 21 → s1.mcTargets k w off (min n (2 ^ 21 - off)) = .error (cause, d) →
        d = 0 ∨ s1.inRange l.ctx row d = false → fault cause (BitVec.ofNat 64 (row + d))))) ∧
  -- a step of a gather or a scatter: an index is read, and an element, or up to 4 KiB of a row, moves
  (∀ s c k x, UnderWay s c k true x → (s.lcAt k).geProg.count < x.total → x.form = .gather ∨ x.form = .scatter ∨ x.form = .gather2d →
    0 < x.rows ∨ x.form ≠ .gather2d →
    let l := s.lcAt k
    let two := x.form = .gather2d
    let n := if two then l.geProg.count / x.rows else l.geProg.count
    let o := if two then l.geProg.count % x.rows else 0
    let w := if x.ctl.getLsbD 38 then 8 else 4
    let e := if two then min 4096 (x.rows - o) else 2 ^ (x.ctl.toNat / 2 ^ 36 % 4)
    let at_ := x.gb 1 + BitVec.ofNat 64 (w * n)
    let fault := fun cause a => Detects (.gatherStep c) s k l ⟨cause, 6, 0, false, x.pc, a⟩
    ((x.gb 1).toNat % w ≠ 0 → fault 2 at_) ∧
    (∀ cause a, (x.gb 1).toNat % w = 0 → FailsAt s l.ctx k .load at_.toNat w cause a → fault cause a) ∧
    (∀ bs s1, (x.gb 1).toNat % w = 0 → ReadsTo s l.ctx k at_.toNat w bs s1 →
      let idx := (BitVec.ofNat (8 * w) (ofBytes bs)).signExtend 64
      let far := x.gb 0 + idx * (if two then x.ga 2 else BitVec.ofNat 64 e) + BitVec.ofNat 64 o
      let near := x.ga 0 + BitVec.ofNat 64 (if two then n * x.rows + o else n * e)
      let src := if x.form = .scatter then near else far
      let dst := if x.form = .scatter then far else near
      let odd := fun (a : Word) => ¬ two ∧ a.toNat % e ≠ 0
      (∀ t, ¬ odd src → ¬ odd dst → MovesTo s1 l.ctx k src.toNat dst.toNat e t →
        Happens (.gatherStep c) s (advanced s t k true (if two then e else 1) 9 1)) ∧
      (odd src → fault 2 src) ∧
      (∀ cause a, ¬ odd src → FailsAt s1 l.ctx k .load src.toNat e cause a → fault cause a) ∧
      (∀ cs s2, ¬ odd src → ReadsTo s1 l.ctx k src.toNat e cs s2 →
        (odd dst → fault 2 dst) ∧
        (∀ cause a, ¬ odd dst → FailsAt s2 l.ctx k .store dst.toNat e cause a → fault cause a))))

/-- 13_streams.md R247, R248, R254 and 05_matrix.md R111: how a copy or gather command ends: its follow-on, its RC commit, its
status, its signals; of one that failed only the last two. -/
def Sys2Proof.Parts.CommandEnds : Prop :=
  (∀ s c k g x, UnderWay s c k g x → Landed s k g →
    let l := s.lcAt k
    let p := progress l g
    let e := Instr.engineCommandComplete c g none
    let ends := fun (m : LCore) => ∀ u rcx, Committed m x u rcx → Ends e s k u g x (statusWord 0 rcx p.count)
    let fo := x.fo = true ∧ g = false
    (p.count < x.total → Passes e s) ∧
    (p.count = x.total →
      (g = true → ends l) ∧
      (g = false → l.followOn ≠ none → Passes e s) ∧
      (g = false → l.followOn = none → x.fo = false → ends l) ∧
      (fo → l.followOn = none → ¬ BadFollowOn l (x.foWord 0) → RoomFor l (x.foWord 0).toNat →
        ends (mxEntered l (followOnOf x))) ∧
      (fo → l.followOn = none → ¬ BadFollowOn l (x.foWord 0) → ¬ RoomFor l (x.foWord 0).toNat →
        ends { l with followOn := some (followOnOf x) }) ∧
      -- a follow-on that is malformed: the copy stands, and the fault is detected
      (fo → l.followOn = none → BadFollowOn l (x.foWord 0) → ∀ u rcx, Committed l x u rcx → OwesNone l g x →
        l.rillFull posC x.rill = false →
        Happens e s (s.setLc k (faulty s (popHead (statusWritten u g x.token (statusWord 0 rcx p.count)) g x.rill)
          ⟨1, 3, 0, false, x.pc, 0⟩)))) ∧
    (∀ f, f = 1 ∨ f = 2 → Ends (.engineCommandComplete c g (some f)) s k l g x (statusWord f false p.count))) ∧
  -- a status held back, and signals that wait
  (∀ s c k g x v, EngineRuns s c k → Head (s.lcAt k) g x → Withheld (s.lcAt k) g x v → (progress (s.lcAt k) g).started = true →
    Landed s k g → Ends (.engineCommandComplete c g none) s k (s.lcAt k) g x v) ∧
  (∀ s c k g x f, EngineRuns s c k → Head (s.lcAt k) g x → (progress (s.lcAt k) g).done = true →
    (s.lcAt k).rillFull posC x.rill = false →
    Happens (.engineCommandComplete c g f) s (s.setLc k (popHead (s.lcAt k) g x.rill))) ∧
  -- a multicast store of the CE still in flight
  (∀ s c k x f, UnderWay s c k false x → ¬ Landed s k false → Passes (.engineCommandComplete c false f) s) ∧
  -- a held follow-on
  (∀ s c k f, EngineRuns s c k → (s.lcAt k).followOn = some f →
    (RoomFor (s.lcAt k) f.word → Happens (.followOnEntry c) s (s.setLc k { mxEntered (s.lcAt k) f with followOn := none })) ∧
    (¬ RoomFor (s.lcAt k) f.word → Passes (.followOnEntry c) s))

/-- 05_matrix.md R107, R110, R112, R113 with Table 7: a matrix command takes its waits, is checked and starts, or faults; it
completes with its signals, and `mx.tw` when its chunks have arrived. That MISALIGNED is found at the start, for the whole
command, is the model's reading (log entry 61). -/
def Sys2Proof.Parts.MatrixCommands : Prop :=
  (∀ s c k m, EngineRuns s c k → (s.lcAt k).mxFifo.head? = some m → (s.lcAt k).mxProg = Progress.zero →
    let l := s.lcAt k
    let q := m.fields.q
    let vas := accessed m
    l.rillWait posM q = none →
    let taken := { l.rillTake posM q with mxProg := { Progress.zero with waited := true } }
    let bad := BadMatrixOperands s l m
    (¬ bad → (∀ a ∈ vas.1 ++ vas.2.1, a % vas.2.2 = 0) → Happens (.mxCommandStart c) s (s.setLc k { taken with
      mxProg := { Progress.zero with waited := true, started := true, done := m.fields.func == 6 || m.fields.func == 9 } })) ∧
    (bad → Detects (.mxCommandStart c) s k taken (mxTrap m 7 0)) ∧
    (∀ a, ¬ bad → LowestOdd vas.2.2 vas.1 a ∨ (∀ b ∈ vas.1, b % vas.2.2 = 0) ∧ LowestOdd vas.2.2 vas.2.1 a →
      Detects (.mxCommandStart c) s k taken (mxTrap m 2 (BitVec.ofNat 64 a)))) ∧
  (∀ s c k m, EngineRuns s c k → (s.lcAt k).mxFifo.head? = some m → (s.lcAt k).mxProg.started = true →
    let l := s.lcAt k
    let w := (operand m 0).toNat
    let q := m.fields.q
    let done := s.setLc k { (l.mergeStat l.pendM).rillGive posM q with
      pendM := NumStat.zero
      mxrow := if l.mxrow.msb then 0 else l.mxrow
      mxFifo := l.mxFifo.tail
      mxProg := Progress.zero
      pcs := (l.count 6 1).pcs }
    let t := (s.ctxAt l.ctx).tdesc (w % 4096)
    let first := w / 2 ^ 16 % 2 ^ 28
    let count := w / 2 ^ 44 % 2 ^ 16
    let valid := t.v = true ∧ first + count ≤ t.n
    let all := ∀ i, i < count → s.basinBit l.ctx t.bitmap (first + i) = true
    (l.mxProg.done = true → l.rillFull posM q = false → Happens (.mxCommandComplete c) s done) ∧
    (l.mxProg.done = false ∨ l.rillFull posM q = true → Passes (.mxCommandComplete c) s) ∧
    (m.fields.func = 7 →
      (valid → all → l.rillFull posM q = false → Happens (.mxTwSatisfied c) s done) ∧
      (valid → ¬ all → Passes (.mxTwSatisfied c) s) ∧
      (¬ valid → Detects (.mxTwSatisfied c) s k l (mxTrap m 7 0))))

/-- 05_matrix.md R96 to R105, R112, R113 with Tables 1 to 4 and 7: what a step of each matrix command leaves: `mx.zero` clears a
bank, `mx.add` adds two, `mx.ld` and `mx.st` move a row, `mx.stc` converts and stores one, and `mx.mac` and `mx.macz` add
the products of a step to the enabled elements; and the trap of a step whose accesses fail, k-step by k-step and A before B. -/
def Sys2Proof.Parts.MatrixSteps : Prop :=
  (∀ mask i, i ∈ maskRows mask ↔ i < 32 ∧ ∃ j, j < 32 ∧ enabled mask i j = true) ∧
  (∀ mask j, j ∈ maskCols mask ↔ j < 32 ∧ ∃ i, i < 32 ∧ enabled mask i j = true) ∧
  (∀ s c k m, MxUnderWay s c k m 2 →
    ∃ t, MxSteps s s t c k (s.lcAt k).mxProg.count true ∧
      ∀ b i j, i < 32 → j < 32 → (t.lcAt k).bank b i j = if b = m.fields.c then 0 else (s.lcAt k).bank b i j) ∧
  (∀ s c k m, MxUnderWay s c k m 8 →
    let l := s.lcAt k
    let sum := fun i j => (FV.add .rne (fp32.value (l.bank m.fields.c i j)) (fp32.value (l.bank m.fields.a i j))).1.round fp32 .rne
      (tinyOf m.ftz)
    ((∀ i j, i < 32 → j < 32 → enabled m.mask i j = true → (sum i j).assist = false) →
      ∃ t, MxSteps s s t c k l.mxProg.count true ∧ BankSet l (t.lcAt k) m.fields.c m.mask (fun i j => (sum i j).bits)) ∧
    (∀ i j, i < 32 → j < 32 → enabled m.mask i j = true → (sum i j).assist = true →
      Detects (.mxStep c) s k l (mxTrap m 6 0))) ∧
  (∀ s c k m, MxUnderWay s c k m 3 → (s.lcAt k).mxProg.count < 32 →
    let l := s.lcAt k
    let i := l.mxProg.count
    let cols := (maskCols m.mask).filter (fun j => enabled m.mask i j)
    let vas := cols.map (addrOfC m 4 i)
    (∀ vs s1, AllPass s l.ctx k .load 4 vas → Reading l.ctx k 4 s vas vs s1 →
      ∃ t, MxSteps s s1 t c k (i + 1) (i + 1 == 32) ∧
        ∀ b a j, a < 32 → j < 32 → (t.lcAt k).bank b a j =
          if b = m.fields.c ∧ a = i ∧ j ∈ cols then vs.getD (cols.idxOf j) 0 % 2 ^ 32 else l.bank b a j) ∧
    (∀ cause a, OneFails s l.ctx k .load 4 vas cause a → MxFaults s c k m cause a)) ∧
  -- stores of a row, as it is or converted
  (∀ s c k m func, func = 4 ∨ func = 5 → MxUnderWay s c k m func → (s.lcAt k).mxProg.count < 32 →
    let l := s.lcAt k
    let i := l.mxProg.count
    let ty := m.fields.ty
    let n := if func = 5 then tyBits ty / 8 else 4
    let cols := (maskCols m.mask).filter (fun j => enabled m.mask i j)
    let vas := cols.map (addrOfC m n i)
    let ctl := operand m 1
    let sat := ctl.getLsbD 32
    let rm := RMode.ofCode (ctl.toNat / 2 ^ 33 % 4)
    let x := fun j => l.bank m.fields.c i j
    let out := fun j => if func = 4 then bits (x j)
      else if ty = 0 then bits (x j + l.bank (m.fields.c + 1) i j * 2 ^ 32)
      else if ty = 10 ∨ ty = 11 then cvtIntInt ty (BitVec.ofNat 32 (x j)).toInt
      else convertE 1 ty rm .gradual sat (x j)
    let counts := func = 5 ∧ ty ≠ 0
    let floats := counts ∧ ty ≠ 10 ∧ ty ≠ 11
    (AllPass s l.ctx k .store n vas →
      ∀ s1, s1 = cols.foldl (fun s j => match s.writeVa l.ctx k (addrOfC m n i j) (bytesOf n (out j).bits) with
        | .ok u => u
        | _ => s) s →
      ∃ t, MxSteps s s1 t c k (i + 1) (i + 1 == 32) ∧ (t.lcAt k).acc = l.acc ∧
        (¬ counts → (t.lcAt k).pendM = l.pendM) ∧
        (counts → (t.lcAt k).pendM = { pv := true
                                       flags := l.pendM.flags ||| joined (cols.map out)
                                       nan := l.pendM.nan || (decide floats && cols.any (fun j => (amaxOf 1 (x j)).1))
                                       mag := if floats then cols.foldl (fun y j => max y (amaxOf 1 (x j)).2) l.pendM.mag
                                              else l.pendM.mag })) ∧
    (∀ cause a, OneFails s l.ctx k .store n vas cause a → MxFaults s c k m cause a)) ∧
  -- the products
  (∀ ty sub old as bs, ty ∈ [0, 1, 2, 3, 4, 5, 7, 11] → as.length = bs.length →
    let term := fun t (x : Nat × Nat) => t + BitVec.ofInt 32
      ((if ty = 7 then (if x.1 % 4 = 1 then 1 else if x.1 % 4 = 3 then -1 else 0) else (BitVec.ofNat 8 x.1).toInt) *
        (BitVec.ofNat 8 x.2).toInt)
    (ty = 7 ∨ ty = 11 → mxElement ty sub old as bs = bits ((as.zip bs).foldl term (BitVec.ofNat 32 old)).toNat) ∧
    (ty ≤ 1 → ∀ a b, as = [a] → bs = [b] → mxElement ty sub old as bs =
      (if ty = 0 then (FV.fma .rne (fp64.value a) (fp64.value b) (fp64.value old)).1.round fp64 .rne sub
       else (FV.fma .rne (fp32.value a) (fp32.value b) (fp32.value old)).1.round fp32 .rne sub)) ∧
    (Periodic ty → ∀ f p, tyFmt ty = some f → Partial (kDepth ty) (as.map f.value) (bs.map f.value) (.fin false 0 0) p →
      mxElement ty sub old as bs = (FV.add .rne (fp32.value old) p).1.round fp32 .rne sub)) ∧
  (∀ s c k m func, func = 0 ∨ func = 1 → MxUnderWay s c k m func →
    let l := s.lcAt k
    let ty := m.fields.ty
    let k0 := l.mxProg.count
    let d := kDepth ty
    let k1 := min (depthOf m) (k0 + if Periodic ty then periodOf m else d)
    let rows := maskRows m.mask
    let cols := maskCols m.mask
    let n := mxSize ty
    let vasA := fun lo hi => rows.flatMap (fun i => (upTo lo hi).map (addrOfA m ty i))
    let vasB := fun lo hi => cols.flatMap (fun j => (upTo lo hi).map (fun x => addrOfB m ty x j))
    let w := k1 - k0
    (ty ∈ [0, 1, 2, 3, 4, 5, 7, 11] → k0 < k1 → rows ≠ [] →
      (∀ as bs s1 s2, AllPass s l.ctx k .load n (vasA k0 k1) → AllPass s l.ctx k .load n (vasB k0 k1) →
        Reading l.ctx k n s (vasA k0 k1) as s1 → Reading l.ctx k n s1 (vasB k0 k1) bs s2 →
        let rowA := fun r => if ty = 7 then (((as.drop (r * w)).take w).zip (upTo k0 k1)).map (fun p => p.1 / 4 ^ (p.2 % 4) % 4)
          else (as.drop (r * w)).take w
        let colB := fun r => (bs.drop (r * w)).take w
        let old := fun i j => if func = 1 ∧ k0 = 0 then 0 else l.elem (ty == 0) m.fields.c i j
        let new := fun r q => mxElement ty (tinyOf m.ftz) (old (rows.getD r 0) (cols.getD q 0)) (rowA r) (colB q)
        ((∀ r q, r < rows.length → q < cols.length → (new r q).assist = false) →
          ∃ t, MxSteps s s2 t c k k1 (decide (depthOf m ≤ k1)) ∧
            (∀ r q, r < rows.length → q < cols.length →
              (t.lcAt k).elem (ty == 0) m.fields.c (rows.getD r 0) (cols.getD q 0) =
                (new r q).bits % (if ty = 0 then 2 ^ 64 else 2 ^ 32)) ∧
            ∀ b i j, i < 32 → j < 32 → ¬ (enabled m.mask i j = true ∧ (b = m.fields.c ∨ ty = 0 ∧ b = m.fields.c + 1)) →
              (t.lcAt k).bank b i j = l.bank b i j) ∧
        (∀ r q, r < rows.length → q < cols.length → (new r q).assist = true →
          Detects (.mxStep c) s k l (mxTrap m 6 0))) ∧
      -- the k-steps before pass, and this one fails on A, or passes on A and fails on B
      (∀ x cause a, let lo := k0 + x * d
        let hi := min k1 (lo + d)
        lo < k1 → AllPass s l.ctx k .load n (vasA k0 lo) → AllPass s l.ctx k .load n (vasB k0 lo) →
        OneFails s l.ctx k .load n (vasA lo hi) cause a ∨
          AllPass s l.ctx k .load n (vasA lo hi) ∧ OneFails s l.ctx k .load n (vasB lo hi) cause a →
        MxFaults s c k m cause a)) ∧
    -- nothing enabled, or no depth left: the count alone, and for `mx.macz` without depth the zeros
    (ty ∈ [0, 1, 2, 3, 4, 5, 7, 11] → rows = [] ∨ k1 ≤ k0 → (func = 0 ∨ rows = [] ∨ k0 ≠ 0) →
      ∃ t, MxSteps s s t c k k1 (decide (depthOf m ≤ k1)) ∧ ∀ b i j, i < 32 → j < 32 → (t.lcAt k).bank b i j = l.bank b i j) ∧
    (ty ∈ [0, 1, 2, 3, 4, 5, 7, 11] → func = 1 → k0 = 0 → k1 = 0 →
      ∃ t, MxSteps s s t c k 0 (decide (depthOf m = 0)) ∧ ∀ b i j, i < 32 → j < 32 → (t.lcAt k).bank b i j =
        if enabled m.mask i j = true ∧ (b = m.fields.c ∨ ty = 0 ∧ b = m.fields.c + 1) then 0 else l.bank b i j))

/-- 06_rotator.md R118 to R124: the cell functions: vec, rot, the angle conversion, and the deferred compensation, to the bit. -/
def Sys2Proof.Parts.RotatorCells : Prop :=
  (∀ sub x y comp, let a := fp32.value x
    let b := fp32.value y
    (oddPair a b = true → vecCell sub x y comp = ⟨(0x7FC00000, 0x04000000), 16, false⟩) ∧
    (a.isZero = true → b.isZero = true → vecCell sub x y comp = ⟨(x, 0x04000000), 0, false⟩) ∧
    (oddPair a b = false → ¬ (a.isZero = true ∧ b.isZero = true) → ∀ (X Y : Nat → Int) q,
      let e := topExp a b
      let A := fixed a e
      let B := fixed b e
      (if 0 ≤ A then X 0 = A ∧ Y 0 = B ∧ q = 0 else if 0 ≤ B then X 0 = B ∧ Y 0 = -A ∧ q = 1 else X 0 = -B ∧ Y 0 = A ∧ q = 2) →
      (∀ k, k < 24 → Turned k (decide (0 ≤ Y k)) (X k) (Y k) (X (k + 1)) (Y (k + 1))) →
      let r := renormed sub (X 24) e comp
      vecCell sub x y comp = ⟨(r.bits, q * 2 ^ 24 + signBits (fun k => decide (0 ≤ Y k))), r.flags, r.assist⟩)) ∧
  (∀ sub w u v cu cv, let a := fp32.value u
    let b := fp32.value v
    (w.testBit 26 = true ∨ a.isZero = true ∧ b.isZero = true → rotCell sub w u v cu cv = ⟨(u, v), 0, false⟩) ∧
    (w.testBit 26 = false → oddPair a b = true → rotCell sub w u v cu cv = ⟨(0x7FC00000, 0x7FC00000), 16, false⟩) ∧
    (w.testBit 26 = false → oddPair a b = false → ¬ (a.isZero = true ∧ b.isZero = true) → ∀ X Y : Nat → Int,
      let e := topExp a b
      let U := fixed a e
      let V := fixed b e
      let qd := w / 2 ^ 24 % 4
      (qd = 0 → X 0 = U ∧ Y 0 = V) → (qd = 1 → X 0 = V ∧ Y 0 = -U) → (qd = 2 → X 0 = -V ∧ Y 0 = U) →
      (qd = 3 → X 0 = -U ∧ Y 0 = -V) →
      (∀ k, k < 24 → Turned k (w.testBit k) (X k) (Y k) (X (k + 1)) (Y (k + 1))) →
      let r := renormed sub (X 24) e cu
      let t := renormed sub (Y 24) e cv
      rotCell sub w u v cu cv = ⟨(r.bits, t.bits), r.flags ||| t.flags, r.assist || t.assist⟩)) ∧
  (∀ a (z : Nat → Int), a < 2 ^ 32 → let t := (a + 2 ^ 29) / 2 ^ 30 % 4
    z 0 = (BitVec.ofNat 32 a - BitVec.ofNat 32 (t * 2 ^ 30)).toInt →
    (∀ k, k < 24 → z (k + 1) = if 0 ≤ z k then z k - angle k else z k + angle k) →
    angWord a = [0, 2, 3, 1].getD t 0 * 2 ^ 24 + signBits (fun k => decide (z k < 0))) ∧
  (∀ sub n v, let x := fp32.value v
    (n = 0 → compensate sub n v = ⟨v, 0, false⟩) ∧
    (0 < n → x.isInf = true → compensate sub n v = ⟨v, 0, false⟩) ∧
    (0 < n → x.isNan = true → (compensate sub n v).val = 0x7FC00000 ∧ (compensate sub n v).assist = false) ∧
    (0 < n → x.isZero = true → compensate sub n v = ⟨0, 0, false⟩) ∧
    (∀ neg m e, 0 < n → x = .fin neg m e → 0 < m →
      let r := (FV.fin neg (m * 0x26DD3B6A1 ^ n) (e - 34 * n)).round fp32 .rne sub
      compensate sub n v = ⟨r.bits, r.flags, r.assist⟩)) ∧
  (∀ sub a u x, let v := FV.fma .rne (fp32.value u).negate (fp32.value x) (fp32.value a)
    let r := v.1.round fp32 .rne sub
    fusedStep sub a u x =
      ⟨if v.1.isZero then 0 else r.bits, r.flags ||| (if v.2 then 16 else 0), r.assist⟩) ∧
  (∀ sub x y, let a := fp32.value x
    let b := fp32.value y
    (b.isZero = true → a.isZero = true → div32 sub x y = ⟨0x7FC00000, 16, false⟩) ∧
    (b.isZero = true → a.isZero = false → a.isNan = false →
      div32 sub x y = ⟨if a.neg = b.neg then 0x7F800000 else 0xFF800000, 8, false⟩))

/-- 06_rotator.md R124, R126 to R132, R134, R136 with Tables 3 and 4: a rotator command takes its waits and starts, or faults; what
each row, item or whole command leaves in TRI, RTCNT, FPMODE and its regions; the trap of a failing check or of an assist; and
its end. A base is tested only through the elements that are accessed (the model's reading, log entry 63). -/
def Sys2Proof.Parts.RotatorCommands : Prop :=
  (∀ s c k m, EngineRuns s c k → (s.lcAt k).rtFifo.head? = some m → (s.lcAt k).rtProg = Progress.zero →
    let l := s.lcAt k
    let q := m.fields.q
    l.rillWait posR q = none →
    let taken := { l.rillTake posR q with rtProg := { Progress.zero with waited := true } }
    (¬ BadRotatorOperands m → Streams m ∨ RtPasses s l m 0 → Happens (.rtCommandStart c) s (s.setLc k { taken with
      rtProg := { Progress.zero with waited := true, started := true } })) ∧
    (BadRotatorOperands m → Detects (.rtCommandStart c) s k taken (rtTrap m 8 0)) ∧
    (∀ cause a, ¬ BadRotatorOperands m → ¬ Streams m → RtFails s l m 0 cause a →
      Detects (.rtCommandStart c) s k taken (rtTrap m cause a))) ∧
  (∀ s c k m cause a, RtUnderWay s c k m → Streams m → (s.lcAt k).rtProg.count < rowCount m →
    RtFails s (s.lcAt k) m (s.lcAt k).rtProg.count cause a → Detects (.rtRowCommit c) s k (s.lcAt k) (rtTrap m cause a)) ∧
  -- a row of `rt.qr`: x holds the row as it arrives at each level, w the word of each level
  (∀ s c k m (x : Nat → Nat → Nat) (w : Nat → Nat), RtUnderWay s c k m → gFunc m = 3 →
    let l := s.lcAt k
    let r := l.rtProg.count
    let n := gSub m
    let sub := tinyOf m.ftz
    let st := decide (gMode m = 1)
    let ps := decide (gMode m ≠ 0)
    r < rowCount m → n ≤ 4 → RtPasses s l m r →
    (∀ j, j < 16 → x 0 j = valueAt s l (own2 (dA m) j r)) → (∀ j, j < n → x 0 (16 + j) = valueAt s l (own2 (dB m) j r)) →
    let diag := fun i => vecCell sub (l.triAt (atU i i)) (x i i) st
    let cell := fun i j => rotCell sub (w i) (l.triAt (atU i j)) (x i j) st ps
    let rhs := fun i j => rotCell sub (w i) (l.triAt (atB i j)) (x i (16 + j)) st ps
    (∀ i, i < 16 → w i = (diag i).val.2) → (∀ i j, i < j → j < 16 → x (i + 1) j = (cell i j).val.2) →
    (∀ i j, i < 16 → j < n → x (i + 1) (16 + j) = (rhs i j).val.2) →
    let assists := ∃ i, i < 16 ∧ ((diag i).assist = true ∨ (∃ j, i < j ∧ j < 16 ∧ (cell i j).assist = true) ∨
      ∃ j, j < n ∧ (rhs i j).assist = true)
    (¬ assists → ∃ t f,
      RtCommits (.rtRowCommit c) s k t f (writesOf ((List.range n).map (fun j => (own2 (dB m) j r, x 16 (16 + j))))) (rowDone r) ∧
      FlagsOf f (fun g => ∃ i, i < 16 ∧ (g = (diag i).flags ∨ (∃ j, i < j ∧ j < 16 ∧ g = (cell i j).flags) ∨
        ∃ j, j < n ∧ g = (rhs i j).flags)) ∧
      (∀ i, i < 16 → t.triAt (atU i i) = (diag i).val.1 % 2 ^ 32 ∧
        t.cntAt i = if (w i).testBit 26 = true ∨ gMode m = 1 then l.cntAt i else min (l.cntAt i + 1) 0xFFFF) ∧
      (∀ i j, i < j → j < 16 → t.triAt (atU i j) = (cell i j).val.1 % 2 ^ 32) ∧
      ∀ i j, i < 16 → j < 4 → t.triAt (atB i j) = if j < n then (rhs i j).val.1 % 2 ^ 32 else l.triAt (atB i j)) ∧
    (assists → Detects (.rtRowCommit c) s k l (rtTrap m 6 0))) ∧
  -- a row of `rt.vec` and `rt.rot`, an item of `rt.ang`
  (∀ s c k m, RtUnderWay s c k m → gFunc m = 4 ∨ gFunc m = 5 ∨ gFunc m = 6 →
    let l := s.lcAt k
    let r := l.rtProg.count
    let sub := tinyOf m.ftz
    let comp := decide (gMode m = 1)
    let a := own2 (dA m) 0 r
    let b := own2 (dA m) 1 r
    let d := own2 (dB m) 0 r
    r < rowCount m → RtPasses s l m r →
    let v := vecCell sub (valueAt s l a) (valueAt s l b) comp
    let w := rotCell sub (valueAt s l d) (valueAt s l a) (valueAt s l b) comp comp
    let u := valueAt s l (own (dA m) r)
    (gFunc m = 4 → v.assist = false →
      RtCommits (.rtRowCommit c) s k l v.flags (writesOf [(a, v.val.1), (b, 0), (d, v.val.2)]) (rowDone r)) ∧
    (gFunc m = 5 → w.assist = false →
      RtCommits (.rtRowCommit c) s k l w.flags (writesOf [(a, w.val.1), (b, w.val.2)]) (rowDone r)) ∧
    (gFunc m = 6 →
      RtCommits (.rtRowCommit c) s k l 0 (writesOf [(own (dB m) r, angWord (if gSub m = 0 then u * 2 ^ 16 else u))]) (rowDone r)) ∧
    ((gFunc m = 4 ∧ v.assist = true) ∨ (gFunc m = 5 ∧ w.assist = true) → Detects (.rtRowCommit c) s k l (rtTrap m 6 0))) ∧
  -- a row of `rt.app`: y holds the row before each of the 120 rotations
  (∀ s c k m (y : Nat → Nat → Nat), RtUnderWay s c k m → gFunc m = 8 →
    let l := s.lcAt k
    let r := l.rtProg.count
    let comp := decide (gMode m = 1)
    let no := fun i j => i * 15 - i * (i - 1) / 2 + (j - i - 1)
    let rot := fun i j => rotCell (tinyOf m.ftz) (valueAt s l (own (dB m) (no i j))) (y (no i j) i) (y (no i j) j) comp comp
    r < rowCount m → RtPasses s l m r → (∀ j, j < 16 → y 0 j = valueAt s l (own2 (dA m) j r)) →
    (∀ i j h, i < j → j < 16 → h < 16 →
      y (no i j + 1) h = if h = i then (rot i j).val.1 else if h = j then (rot i j).val.2 else y (no i j) h) →
    ((∀ i j, i < j → j < 16 → (rot i j).assist = false) → ∃ f,
      RtCommits (.rtRowCommit c) s k l f (writesOf ((List.range 16).map (fun j => (own2 (dA m) j r, y 120 j)))) (rowDone r) ∧
      FlagsOf f (fun g => ∃ i j, i < j ∧ j < 16 ∧ g = (rot i j).flags)) ∧
    (∀ i j, i < j → j < 16 → (rot i j).assist = true → Detects (.rtRowCommit c) s k l (rtTrap m 6 0))) ∧
  -- the end of a streaming command, and the commands that act as a whole
  (∀ s c k m, RtUnderWay s c k m → (s.lcAt k).rillFull posR m.fields.q = false → Streams m → rowCount m ≤ (s.lcAt k).rtProg.count →
    Happens (.rtCommandComplete c) s (s.setLc k (rtGone m.fields.q (s.lcAt k)))) ∧
  (∀ s c k m, RtUnderWay s c k m → (s.lcAt k).rillFull posR m.fields.q = false → ¬ Streams m →
    let l := s.lcAt k
    let a := dA m
    let g2 := gMode m = 2
    let sub := tinyOf m.ftz
    let e := Instr.rtCommandComplete c
    let commits := fun t f ws => RtCommits e s k t f ws (rtGone m.fields.q)
    let held := (List.range 200).map (fun n => (own a n, l.triAt n))
    let uFlags := fun g => ∃ i j, i ≤ j ∧ j < 16 ∧ g = (deferred l sub i (atU i j)).flags
    (∀ cause x, RtFails s l m 0 cause x → Detects e s k l (rtTrap m cause x)) ∧
    (RtPasses s l m 0 →
      (gFunc m = 0 → commits { l with tri := [], rtcnt := [] } 0 []) ∧
      (gFunc m = 1 → ∃ t, commits t 0 [] ∧ t.rtcnt = [] ∧ ∀ n, n < 200 → t.triAt n = valueAt s l (own a n) % 2 ^ 32) ∧
      (gFunc m = 10 → ∃ t, commits t 0 [] ∧ t.rtcnt = l.rtcnt ∧
        ∀ n, n < 200 → t.triAt n = if n < 136 then l.triAt n else valueAt s l (own a (n - 136)) % 2 ^ 32) ∧
      (gFunc m = 2 → ¬ g2 → commits l 0 (writesOf held)) ∧
      (gFunc m = 9 → UPlain l sub → ∃ t f, commits t f [] ∧ UCompensated l t sub ∧ FlagsOf f uFlags) ∧
      (gFunc m = 9 → ¬ UPlain l sub → Detects e s k l (rtTrap m 6 0)) ∧
      -- `rt.st.g2`: B is compensated where it is written
      (gFunc m = 2 → g2 →
        let plain := UPlain l sub ∧ ∀ n, 136 ≤ n → n < 200 → n < size a → (deferred l sub ((n - 136) / 4) n).assist = false
        (plain → ∃ t f, commits t f (writesOf ((List.range 200).map (fun n => (own a n,
              if n < 136 then t.triAt n else (deferred l sub ((n - 136) / 4) n).val % 2 ^ 32)))) ∧
          UCompensated l t sub ∧
          FlagsOf f (fun g => uFlags g ∨ ∃ n, 136 ≤ n ∧ n < 200 ∧ n < size a ∧ g = (deferred l sub ((n - 136) / 4) n).flags)) ∧
        (¬ plain → Detects e s k l (rtTrap m 6 0))))) ∧
  -- `rt.sol`: S holds the running sums of each element, X the solution
  (∀ s c k m (S : Nat → Nat → Nat → Nat) (X : Nat → Nat → Nat), RtUnderWay s c k m →
    (s.lcAt k).rillFull posR m.fields.q = false → gFunc m = 7 → ¬ BadRotatorOperands m → gSub m ≤ 4 →
    let l := s.lcAt k
    let sub := tinyOf m.ftz
    let a := dA m
    let n := gSub m
    let rows := a.count1
    let g2 := gMode m = 2
    let U := fun i j => if g2 then (deferred l sub i (atU i j)).val % 2 ^ 32 else l.triAt (atU i j)
    let B := fun i j => if g2 then (deferred l sub i (atB i j)).val % 2 ^ 32 else l.triAt (atB i j)
    let fused := fun i j h => fusedStep sub (S i h j) (U i j) (X j h)
    let quot := fun i h => div32 sub (S i h rows) (U i i)
    RtPasses s l m 0 → (∀ i h, i < rows → h < n → S i h (i + 1) = B i h) →
    (∀ i j h, i < j → j < rows → h < n → S i h (j + 1) = (fused i j h).val) →
    (∀ i h, i < rows → h < n → X i h = (quot i h).val) →
    let assists := (g2 ∧ (¬ UPlain l sub ∨ ∃ i j, i < 16 ∧ j < 4 ∧ (deferred l sub i (atB i j)).assist = true)) ∨
      ∃ i h, i < rows ∧ h < n ∧ ((quot i h).assist = true ∨ ∃ j, i < j ∧ j < rows ∧ (fused i j h).assist = true)
    let flag := fun i => let d := fp32.value (U i i)
      if d.isZero || d.isInf || d.isNan then 1 else 0
    (¬ assists → ∃ t f,
      RtCommits (.rtCommandComplete c) s k t f (writesOf ((List.range rows).map (fun i => (own (dB m) i, flag i)) ++
        (List.range n).flatMap (fun h => (List.range rows).map (fun i => (own2 a h i, X i h))))) (rtGone m.fields.q) ∧
      (¬ g2 → t = l) ∧
      (g2 → t.rtcnt = [] ∧ (∀ i j, i ≤ j → j < 16 → t.triAt (atU i j) = l.triAt (atU i j)) ∧
        ∀ i j, i < 16 → j < 4 → t.triAt (atB i j) = B i j) ∧
      FlagsOf f (fun g =>
        (g2 ∧ ((∃ i j, i ≤ j ∧ j < 16 ∧ g = (deferred l sub i (atU i j)).flags) ∨
          ∃ i j, i < 16 ∧ j < 4 ∧ g = (deferred l sub i (atB i j)).flags)) ∨
        ∃ i h, i < rows ∧ h < n ∧ (g = (quot i h).flags ∨ ∃ j, i < j ∧ j < rows ∧ g = (fused i j h).flags))) ∧
    (assists → Detects (.rtCommandComplete c) s k l (rtTrap m 6 0)))

/-- 13_streams.md R243, R244 and 11_vector_arith.md R208: streams that have blocked one another for 2^20 core cycles fault; and a
beat of the vector syllable that the step has aimed at. -/
def Sys2Proof.Parts.DeadlockAndBeat : Prop :=
  (∀ s c k, EngineRuns s c k → 2 ^ 20 ≤ (s.lcAt k).dlcnt →
    ((s.lcAt k).mutual = true →
      Happens (.queueDeadlock c) s (s.setLc k (faulty s { s.lcAt k with dlcnt := 0 }
        ⟨11, 1, s.blockingSyl k, true, (s.lcAt k).ep.pc, 0⟩))) ∧
    ((s.lcAt k).mutual = false → Passes (.queueDeadlock c) s)) ∧
  (∀ s s1 s2 x c k i v n flags nan mag pos, s.who = some (.core true c k) → s.cur.verdict = .done →
    s.fetchCore k s.wordPc = .ok (x, s2) → decodeWord x = .ok i → i.vop = some v → v.pair = none →
    v.illegal (s.lcAt k) = false → s.issue (.core true c k) (vectorUse v.q v.e v.srcs v.dsts) = .go →
    v.operand (s.lcAt k) = false → (s.lcAt k).vdone < v.work (s.lcAt k) → s.vstep k v = .ok s1 n flags nan mag pos →
    Happens (.vectorBeat c) s (s1.setLc k (stepped (s1.lcAt k) v.num n flags nan mag pos)))

/-- Seven parts: CopyAndGather, CommandEnds, MatrixCommands, MatrixSteps, RotatorCells, RotatorCommands and DeadlockAndBeat.

13_streams.md R241, R246, R249 to R251 with Table 6: a copy or gather command takes its waits and starts, or faults on its
operands; a chunk or a step reads, then writes; the first access that fails decides the trap.

13_streams.md R247, R248, R254 and 05_matrix.md R111: how a copy or gather command ends: its follow-on, its RC commit, its
status, its signals; of one that failed only the last two.

05_matrix.md R107, R110, R112, R113 with Table 7: a matrix command takes its waits, is checked and starts, or faults; it
completes with its signals, and `mx.tw` when its chunks have arrived. That MISALIGNED is found at the start, for the whole
command, is the model's reading (log entry 61).

05_matrix.md R96 to R105, R112, R113 with Tables 1 to 4 and 7: what a step of each matrix command leaves: `mx.zero` clears a
bank, `mx.add` adds two, `mx.ld` and `mx.st` move a row, `mx.stc` converts and stores one, and `mx.mac` and `mx.macz` add
the products of a step to the enabled elements; and the trap of a step whose accesses fail, k-step by k-step and A before B.

06_rotator.md R118 to R124: the cell functions: vec, rot, the angle conversion, and the deferred compensation, to the bit.

06_rotator.md R124, R126 to R132, R134, R136 with Tables 3 and 4: a rotator command takes its waits and starts, or faults; what
each row, item or whole command leaves in TRI, RTCNT, FPMODE and its regions; the trap of a failing check or of an assist; and
its end. A base is tested only through the elements that are accessed (the model's reading, log entry 63).

13_streams.md R243, R244 and 11_vector_arith.md R208: streams that have blocked one another for 2^20 core cycles fault; and a
beat of the vector syllable that the step has aimed at. -/
def Obligations.EngineEvents : Prop :=
  Parts.CopyAndGather ∧ Parts.CommandEnds ∧ Parts.MatrixCommands ∧ Parts.MatrixSteps ∧ Parts.RotatorCells ∧
  Parts.RotatorCommands ∧ Parts.DeadlockAndBeat

namespace Sys2Proof.Spec

/-! ## Ports -/

/-- Port `p` becomes `x`. -/
def portSet (s : State) (p : Nat) (x : Port) : State := { s with ports := s.ports.ins p x }

/-- The header keeps 15_sluice.md R272 (a trimmed packet has lost its payload). -/
abbrev GoodHeader (k : Packet) : Prop :=
  let b := k.header
  let op := at_ b 1 1
  b.length = 32 ∧ at_ b 0 1 = 1 ∧ op ≤ 11 ∧ at_ b 4 2 < 4096 ∧ at_ b 7 1 < (if op = 7 then 4 else 2) ∧
  (2 < op → at_ b 0x12 2 = 0) ∧ (k.trimmed = true ∨ k.payload.length = at_ b 0x12 2) ∧
  (op ≤ 2 → 1 ≤ at_ b 0x12 2 ∧ at_ b 0x12 2 ≤ 4096)

/-- The counter value of packet `k` is in the window of association `a`, or below it (R271). -/
abbrev Replayed (k : Packet) (a : Assoc) : Prop :=
  k.counter ∈ a.seen ∨ (2048 ≤ a.seen.length ∧ ∀ v ∈ a.seen, k.counter < v)

/-- Port `p` is up and not fenced. -/
abbrev Works (s : State) (p : Nat) : Prop := p < 48 ∧ (s.portAt p).up = true ∧ p ∉ s.fencedPorts

/-- Packet `k` passes check 1 at port `p` (R270 to R273): it uses what is supported, is authentic under association `a`, is no
replay, and its header is in order. -/
abbrev Accepted (s : State) (p : Nat) (k : Packet) (a : Assoc) : Prop :=
  Works s p ∧ k.supported = true ∧ (s.slAt (p / 3)).sas.at? k.sa = some a ∧ k.authentic = true ∧ ¬ Replayed k a ∧ GoodHeader k

/-- The packet's bytes are counted; and its counter value is in the window too (R271). -/
def sized (s : State) (p : Nat) (k : Packet) : State := portSet s p { s.portAt p with received := (s.portAt p).received + k.size }
def takenIn (s : State) (p : Nat) (k : Packet) (a : Assoc) : State :=
  let x := s.slAt (p / 3)
  (sized s p k).setSl (p / 3) { x with sas := x.sas.ins k.sa (a.accept k.counter) }

/-- The sender of a packet, as a connection (R285); and the state in which that connection is open from now. -/
def sender (s : State) (k : Packet) : Conn := ⟨k.addr, k.udp, k.ctx, k.sa, s.slTicks⟩
def connected (s : State) (p : Nat) (k : Packet) : State :=
  portSet s p { s.portAt p with conns := (s.portAt p).conns.ins k.conn (sender s k) }

/-- A packet is dropped at port `p`, and counted (19_counters.md Table 5); or counted as rejected, a duplicate or late. -/
def dropped (s : State) (p : Nat) : State := portSet s p { s.portAt p with drop := satInc (s.portAt p).drop }
def rejected (s : State) (p : Nat) : State := portSet s p { s.portAt p with reject := satInc (s.portAt p).reject }
def duplicate (s : State) (p : Nat) : State := portSet s p { s.portAt p with dup := satInc (s.portAt p).dup }
def late (s : State) (p : Nat) : State := portSet s p { s.portAt p with late := satInc (s.portAt p).late }

/-- The port's Sluice core is bound to context `ctx`, which runs. -/
abbrev Serves (s : State) (p ctx : Nat) : Prop :=
  (s.slAt (p / 3)).bound = true ∧ (s.slAt (p / 3)).ctx = ctx ∧ (s.ctxAt ctx).frozen = false ∧ (s.ctxAt ctx).failed = false

/-- The port can raise its event: none of its own is pending (R284). -/
abbrev Free (s : State) (p : Nat) : Prop := (s.slAt (p / 3)).pending.at? (256 + p % 3) = none

/-- Packet `k` arrives at port `p` by event `i`. -/
def ArrivesBy (p : Nat) (k : Packet) (i : Instr) : Prop :=
  match k.op with
  | 3 => i = .chkReqReceived p k
  | 4 => i = .pauseReceived p k
  | 5 => i = .resumeReceived p k
  | 6 => i = .weirReqReceived p k
  | 7 => i = .ticketReceived p k
  | 8 => i = .callReceived p k
  | 9 => i = .weirDoneReceived p k
  | 10 => i = .faultReceived p k
  | 11 => i = .newepReceived p k
  | _ => i = .fabricDataArrival p k

/-- Port `p` acknowledges packet `k`, which arrived at port `via`, under the SA that it came on, with a fresh counter value
(the model's reading of R271 and R274, log entry 46). -/
def Acks (s t : State) (p via : Nat) (k : Packet) : Prop :=
  Transmitted s t (via / 3) p k.sa (min 224 Config.frameOverhead) (fun c => .ack p via k.conn k.sa c k.handle k.chunk)

/-- The linear number of a coordinate under extents `e` (17_collectives.md R306). -/
def linear (c e : List Nat) : Nat :=
  c.getD 0 0 + e.getD 0 0 * (c.getD 1 0 + e.getD 1 0 * (c.getD 2 0 + e.getD 2 0 * c.getD 3 0))

/-- What check 4 finds of packet `k` against descriptor `t`: descriptor, coordinate, length, generation (R273, R309, R311). -/
def Wrong (k : Packet) (t : TDesc) (code : Nat) : Prop :=
  let n := 4 + elemSize t.etype
  let count := k.payload.length / n
  let idx := fun i => at_ k.payload (n * i) 4
  match code with
  | 1 => t.v = false ∨ k.op ≠ t.mode ∨ k.redop ≠ (if k.op = 0 then 0 else t.redop)
  | 2 => (∃ i, i < 4 ∧ t.ext.getD i 0 ≤ k.coords.getD i 0) ∨ (k.op ≠ 0 ∧ t.ncontrib ≤ k.contrib)
  | 3 => if k.op = 2 then k.payload.length = 0 ∨ k.payload.length % n ≠ 0 ∨
        ∃ i, i < count ∧ (t.csize / elemSize t.etype ≤ idx i ∨ (i + 1 < count ∧ idx (i + 1) ≤ idx i))
      else k.length ≠ min t.csize (t.total - linear k.coords t.ext * t.csize)
  | _ => k.gen ≠ t.gen

/-- Two packets claim the same chunk, and for a reduction the same contributor. -/
def SameChunk (a b : Packet) : Prop :=
  a.context = b.context ∧ a.tdesc = b.tdesc ∧ a.coord = b.coord ∧ (a.op = 0 ∨ a.contrib = b.contrib)

/-- A chunk of descriptor `t` is in flight: staged, or with a contribution under way (17_collectives.md R308). -/
def InFlight (x : Ctx) (t q : Nat) : Prop :=
  (q / 2 ^ 28 = t ∧ (x.stage.at? q).isSome = true) ∨
  ∃ d ∈ x.claims, d.packet.tdesc = t ∧ d.packet.op ≠ 0 ∧ q = t * 2 ^ 28 + d.chunk

/-- Placement of chunk `c` of descriptor `d` (number `ti`) of context `x` has failed at port `p`: REMOTE-FAULT there, and the report
to firmware, with that of a page-table error (R278, 08_memory.md R154). -/
def placeFails (s : State) (p x ti : Nat) (d : TDesc) (c : Nat) (e : PlaceErr) : State :=
  let u := if e.table then { s with reports := s.reports ++ [.pageTable x (BitVec.ofNat 64 e.addr)] } else s
  let v := u.portEvent p 15 ti e.cause e.addr (d.coordOf c)
  { v with reports := v.reports ++ [.remoteFault x e.cause (BitVec.ofNat 64 e.addr)] }

/-- A control packet of kind `op` that is accepted, for a context that the core serves, does `f`; where the port has an event
pending, and for a context that it does not serve, it is dropped, and counted (R273, R284). -/
def Controls (op : Nat) (f : Nat → Packet → State → State) : Prop :=
  ∀ s p k a i, Accepted s p k a → k.op = op → ArrivesBy p k i →
    (Serves s p k.context → Free s p → Happens i s (f p k (takenIn s p k a))) ∧
    (Serves s p k.context → ¬ Free s p → Happens i s (dropped (takenIn s p k a) p)) ∧
    (¬ Serves s p k.context → Happens i s (dropped (takenIn s p k a) p))

/-- The connection of packet `k` is open, and its port raises event `type` with the fields given (15_sluice.md Table 7). -/
def notes (s : State) (p : Nat) (k : Packet) (type a w1 w2 w3 : Nat) : State := (connected s p k).portEvent p type a w1 w2 w3

/-- The flows of a core that name an endpoint and a context. -/
def peerFlows (x : Sluice) (addr udp ctx : Nat) : List Nat :=
  (List.range 512).filter (fun f => decide ((flowWord x f 4).toNat * 2 ^ 64 + (flowWord x f 5).toNat = addr ∧
    (flowWord x f 6).toNat % 2 ^ 16 = udp ∧ (flowWord x f 0).toNat / 2 ^ 44 % 2 ^ 16 = ctx))

/-- HOLD of flow `f` is set or cleared. -/
def holdPut (x : Sluice) (h : Bool) (f : Nat) : Sluice :=
  flowPut x f 0 ((flowWord x f 0 &&& ~~~ (BitVec.twoPow 64 62)) ||| (if h then BitVec.twoPow 64 62 else 0))

/-- A transfer that runs. -/
abbrev Running (s : State) (n h : Nat) (t : Transfer) : Prop := (s.slAt n).transfers.at? h = some t ∧ t.state = 1

/-- The port, the SA and the timeout of flow `f`, and its pacing state. -/
def portOf (x : Sluice) (f : Nat) : Nat := (flowWord x f 0).toNat / 2 ^ 60 % 4
def saOf (x : Sluice) (f : Nat) : Nat := (flowWord x f 0).toNat / 2 ^ 32 % 2 ^ 12
def rtoOf (x : Sluice) (f : Nat) : Nat := (flowWord x f 2).toNat % 2 ^ 40
def pacing (x : Sluice) (f : Nat) : FlowSt := x.flowSt.atD f FlowSt.fresh

/-- Bytes that a packet of `n` payload bytes takes from a bucket, with the 20 of preamble and gap (R276). -/
def takes (n : Nat) : Nat := min 224 Config.frameOverhead + (32 + n) + 20

/-- Flow `f` is ready to send at local port `i`: it may, a packet waits, its SA is there, and its bucket holds the packet. -/
def Ready (x : Sluice) (i f : Nat) : Prop :=
  portOf x f = i ∧ flowSends x f = true ∧ (x.sas.at? (saOf x f)).isSome = true ∧ ∃ o r, (pacing x f).queue = o :: r ∧
    176 * takes (match o with
      | .control _ => 0
      | .chunk h k _ => ((x.transfers.at? h).map (fun t => min (at_ t.desc 0x1E 2) (at_ t.desc 8 8 - k * at_ t.desc 0x1E 2))).getD 0)
      ≤ (pacing x f).bucket

/-- It is the turn of flow `f` at port `p`: the flows that are ready share it in turn. -/
def HasTurn (s : State) (p f : Nat) : Prop :=
  let x := s.slAt (p / 3)
  let at_ := fun i => ((s.portAt p).turn + 1 + i) % 512
  ∃ j, j < 512 ∧ f = at_ j ∧ Ready x (p % 3) f ∧ ∀ i, i < j → ¬ Ready x (p % 3) (at_ i)

/-- Flow `f` has had its turn at port `p`. -/
def turned (s : State) (p f : Nat) : State := portSet s p { s.portAt p with turn := f }

/-- Flow `f` of a core with the pacing state `y`. -/
def paced (x : Sluice) (f : Nat) (y : FlowSt) : Sluice := { x with flowSt := x.flowSt.put f y FlowSt.fresh }

/-- Chunk `k` of transfer `h` of a core becomes `c`. -/
def chunkPut (x : Sluice) (h : Nat) (t : Transfer) (k : Nat) (c : Chunk) : Sluice :=
  { x with transfers := x.transfers.ins h { t with chunks := t.chunks.put k c Chunk.fresh } }

/-- A queued record of the same kind for flow or SA `a`: ECN and SEC coalesce (R285). -/
def Joins (x : Sluice) (type a : Nat) : Prop :=
  ∃ q ∈ x.evq, evType q = type ∧ (if type = 6 then evA q = a % 2 ^ 16 else q.getD 2 0 = BitVec.ofNat 64 a)

end Sys2Proof.Spec

/-! ## Ports -/

/-- 15_sluice.md R270 to R274, R278, R284 and 17_collectives.md R306, R308, R309, R311 to R313, R319: what a data packet that arrives does,
check by check: the transport, trimming, the context, the descriptor, the claim, the write; and what a staged contribution does. -/
def Sys2Proof.Parts.DataArrival : Prop :=
  (∀ s p k i, ArrivesBy p k i → p < 48 → (s.portAt p).up = false ∨ p ∈ s.fencedPorts → Happens i s s) ∧
  (∀ s p k i, ArrivesBy p k i → Works s p → let u := sized s p k
    let a := (s.slAt (p / 3)).sas.at? k.sa
    let sec := fun why => (Free s p ∨ Joins (s.slAt (p / 3)) 16 k.sa → Happens i s (u.portEvent p 16 why 1 k.sa 0)) ∧
      (¬ Free s p → ¬ Joins (s.slAt (p / 3)) 16 k.sa → Happens i s (dropped u p))
    (k.supported = false → Happens i s (dropped u p)) ∧
    (k.supported = true → a = none ∨ k.authentic = false → sec 1) ∧
    (∀ x, k.supported = true → a = some x → k.authentic = true → Replayed k x → sec 2) ∧
    (∀ x, k.supported = true → a = some x → k.authentic = true → ¬ Replayed k x → ¬ GoodHeader k →
      Happens i s (dropped (takenIn s p k x) p))) ∧
  (∀ (a : Assoc) c, a.seen.Pairwise (· > ·) → c ∉ a.seen →
    a.accept c = { a with seen := (a.seen.filter (fun v => decide (c < v)) ++ c :: a.seen.filter (fun v => decide (v < c))).take 2048 }) ∧
  -- checks 2 to 4
  (∀ s p k a, Accepted s p k a → k.op ≤ 2 →
    let i := Instr.fabricDataArrival p k
    let u := takenIn s p k a
    let t := connected u p k
    let x := s.ctxAt k.context
    let serves := Serves s p k.context ∧ ∀ z, x.freeze = some z → z.drained = false
    let d := x.tdesc k.tdesc
    (k.trimmed = true → Free s p →
      Happens i s (t.portEvent p 4 k.tdesc (k.chunk + 2 ^ 16 + k.handle * 2 ^ 32) k.conn k.coord)) ∧
    (k.trimmed = true → ¬ Free s p → Happens i s (dropped u p)) ∧
    (k.trimmed = false → ¬ serves → Happens i s (dropped t p)) ∧
    (∀ code, k.trimmed = false → serves → 1 ≤ code → code ≤ 4 → Wrong k d code → (∀ b, 1 ≤ b → b < code → ¬ Wrong k d b) →
      (∀ v, Free s p → Acks (rejected t p) v p p k → Happens i s (v.portEvent p 19 k.tdesc code 0 k.coord)) ∧
      (¬ Free s p → Happens i s (dropped t p))) ∧
    (k.trimmed = false → serves → (∀ code, 1 ≤ code → code ≤ 4 → ¬ Wrong k d code) →
      Happens i s (t.claimChunk p k (x.tnsWords k.tdesc) (linear k.coords d.ext)))) ∧
  -- checks 5 to 7, against the descriptor of words ws, for a packet that arrived at port a
  (∀ (s : State) a (k : Packet) ws c,
    let t := TDesc.ofWords ws
    let p := if k.op = 0 then a else t.rport
    let x := s.ctxAt k.context
    let key := k.tdesc * 2 ^ 28 + c
    let y := x.tdesc k.tdesc
    let got := s.claimChunk a k ws c
    let busy := ∃ d ∈ x.claims, SameChunk d.packet k
    let present := s.basinBit k.context t.bitmap c = true
    let isLate := k.op ≠ 0 ∧ present ∧ (x.finished.at? key).isSome = true
    let st := (x.stage.at? key).getD ⟨0, [], []⟩
    let again := present ∨ (k.op ≠ 0 ∧ (s.basinBit k.context (y.cmap + c * y.recLen + 8) k.contrib = true ∨ k.contrib ∈ st.bits))
    let tooMany := k.op ≠ 0 ∧ ¬ InFlight x k.tdesc key ∧ ∃ l : List Nat, l.Nodup ∧ (∀ q ∈ l, InFlight x k.tdesc q) ∧ t.win ≤ l.length
    let new := st.add k.contrib k.payload
    let full := new.bits.length = t.ncontrib
    let s1 := s.setCtx k.context { x with stage := x.stage.ins key new }
    let e := s.chunkPlace k.context t c
    (busy → got = s.setCtx k.context { x with waiting := x.waiting ++ [(a, k, ws)] }) ∧
    (∀ v, ¬ busy → isLate → Acks (late s p) v p a k → got = v) ∧
    (∀ v, ¬ busy → ¬ isLate → again → Acks (duplicate s p) v p a k →
      (t.dupc = false → got = v) ∧
      (t.dupc = true → Free s p → got = v.portEvent p 7 k.tdesc (c + k.contrib * 2 ^ 32) 0 k.coord) ∧
      (t.dupc = true → ¬ Free s p → got = dropped s p)) ∧
    (¬ busy → ¬ isLate → ¬ again → tooMany → got = dropped s p) ∧
    (¬ busy → ¬ isLate → ¬ again → ¬ tooMany →
      (∀ q, e = .error q → (Free s p → got = placeFails (s.reply a (sender s k)
          (serizHdr 10 k.ctx k.tdesc 0 0 k.coord 0 0 0 k.handle k.chunk q.cause)) p k.context k.tdesc t c q) ∧
        (¬ Free s p → got = dropped s p)) ∧
      (∀ rs, e = .ok rs →
        (k.delay ≠ 0 → got = s.setCtx k.context { x with claims := x.claims ++ [⟨a, k, c, ws, s.ticks + k.delay⟩] }) ∧
        (∀ v, k.delay = 0 → k.op = 0 → Acks ((s.place_ k.context rs k.payload).setBasinBit k.context t.bitmap c) v a a k → got = v) ∧
        (∀ v, k.delay = 0 → k.op ≠ 0 → Acks s1 v p a k →
          (¬ full → got = v) ∧
          (full → s.completionHeld k.context k.tdesc c false new = false → got = v.completeChunk k.context k.tdesc c false new)) ∧
        (k.delay = 0 → k.op ≠ 0 → full → s.completionHeld k.context k.tdesc c false new = true → got = dropped s t.rport)))) ∧
  (∀ st c bs, (∀ i, i ∈ (Stage.add st c bs).bits ↔ i = c ∨ i ∈ st.bits) ∧ (Stage.add st c bs).elapsed = st.elapsed ∧
    ∀ i, (Stage.add st c bs).leaves.at? i = if i = c then some bs else st.leaves.at? i) ∧
  -- a payload's write, block by block (check 6)
  (∀ (s : State) x (t : TDesc) c, let n := min t.csize (t.total - c * t.csize)
    s.chunkPlace x t c = s.placement x (t.mode != 0) (n / 4096 + 2) (t.dest + c * t.csize) n) ∧
  (∀ (s : State) x rs bs, s.place_ x rs bs = (s.writeMarks x rs).putRuns rs bs) ∧
  (∀ (s : State) x red fuel va n, 4096 < va % 4096 + n → let m := 4096 - va % 4096
    let got := s.placement x red (fuel + 1) va n
    (∀ e, s.placement x red 2 va m = .error e → got = .error e) ∧
    (∀ rs e, s.placement x red 2 va m = .ok rs → s.placement x red fuel (va + m) (n - m) = .error e → got = .error e) ∧
    (∀ rs qs, s.placement x red 2 va m = .ok rs → s.placement x red fuel (va + m) (n - m) = .ok qs → got = .ok (rs ++ qs))) ∧
  (∀ (s : State) x red fuel va n, 0 < n → va % 4096 + n ≤ 4096 → let got := s.placement x red (fuel + 2) va n
    let r := s.runs x (2 ^ 40) .store 2 va n
    let mayBe := fun (y : Run) => ∃ pa l, y.place = .phys pa l ∧ match l with
      | some q => (s.entry q).getLsbD 58 = true ∧ (red = true → (s.entry q).toNat / 2 ^ 56 % 4 = 0)
      | none => red = true → 0x01FFFF0040000000 ≤ y.va
    (∀ rs, r = .ok rs → (∀ y ∈ rs, mayBe y) → got = .ok rs) ∧ (∀ rs, r = .ok rs → ¬ (∀ y ∈ rs, mayBe y) → got = .error ⟨3, va, false⟩) ∧
    (∀ c a b, r = .fault c a b → got = .error ⟨if c = 4 then 4 else 3, a.toNat, b⟩) ∧
    (∀ i j, r = .wait i j → got = .error ⟨4, va, false⟩)) ∧
  -- a packet that waited for a claim, and a claim whose payload is due
  (∀ s ctx n p k ws, let x := s.ctxAt ctx
    let d := TDesc.ofWords ws
    x.waiting[n]? = some (p, k, ws) → (∀ i, i < 4 → k.coords.getD i 0 < d.ext.getD i 0) →
    ((∀ c ∈ x.claims, ¬ SameChunk c.packet k) → Happens (.claimWaitEnd ctx n) s
      ((s.setCtx ctx { x with waiting := x.waiting.eraseIdx n }).claimChunk p k ws (linear k.coords d.ext))) ∧
    ((∃ c ∈ x.claims, SameChunk c.packet k) → Passes (.claimWaitEnd ctx n) s)) ∧
  (∀ (s : State) (d : Claim), let k := d.packet
    let t := TDesc.ofWords d.tns
    (k.op ≠ 0 → s.landClaim d = s.claimChunk d.port { k with delay := 0 } d.tns d.chunk) ∧
    (∀ rs v, k.op = 0 → s.chunkPlace k.context t d.chunk = .ok rs →
      Acks ((s.place_ k.context rs k.payload).setBasinBit k.context t.bitmap d.chunk) v d.port d.port k → s.landClaim d = v))

/-- 15_sluice.md R273, R277 to R279, R284, R285: what a control packet that arrives does. The number in a refused TICKET is a free
value, and WEIR-REQ is raised after a refusal too (log entry 48); a NEWEP of a closed connection goes by its SA (log entry 46). -/
def Sys2Proof.Parts.ControlArrival : Prop :=
  Controls 3 (fun p k s => notes s p k 5 k.handle (k.chunk + k.arg % 65536 * 65536) k.conn 0) ∧
  (∀ op hold, (op = 4 ∧ hold = true) ∨ (op = 5 ∧ hold = false) → Controls op (fun p k s =>
    let fs := peerFlows (s.slAt (p / 3)) k.addr k.udp k.ctx
    notes (s.setSl (p / 3) (fs.foldl (fun x f => holdPut x hold f) (s.slAt (p / 3)))) p k 8
      (if fs.length = 1 then fs.headD 0 else 0xFFFF) (if hold then 0 else 1) k.conn 0)) ∧
  Controls 6 (fun p k s =>
    let t := connected s p k
    let x := t.portAt p
    let n := (Config.refusedTicket s.free).toNat
    if 256 ≤ gap x.next x.base then
      { (t.reply p (sender s k) (controlHdr 7 k.ctx 2 k.handle k.chunk n)).portEvent p 11 (p % 3) n k.arg k.conn with free := s.free + 1 }
    else
      let u := portSet t p { x with next := (x.next + 1) % 2 ^ 32, holders := x.holders ++ [⟨sender s k, false⟩] }
      (u.reply p (sender s k) (controlHdr 7 k.ctx 0 k.handle k.chunk x.next)).portEvent p 11 (p % 3) x.next k.arg k.conn) ∧
  Controls 7 (fun p k s => notes s p k 9 ((peerFlows (s.slAt (p / 3)) k.addr k.udp k.ctx).headD 0xFFFF)
    (k.arg + (if k.flags / 2 % 2 = 1 then 2 ^ 63 else 0)) 0 0) ∧
  Controls 8 (fun p k s => notes s p k 10 ((peerFlows (s.slAt (p / 3)) k.addr k.udp k.ctx).headD 0xFFFF) k.arg 0 0) ∧
  -- WEIR-DONE: its ticket is done, and BASE passes over the done tickets from it on; a ticket that nobody holds changes nothing
  (∀ s p k a, Accepted s p k a → k.op = 9 → Serves s p k.context →
    let x := s.portAt p
    let i := gap k.arg x.base
    let t := connected (takenIn s p k a) p k
    (x.holders.length ≤ i → Happens (.weirDoneReceived p k) s t) ∧
    (i < x.holders.length → ¬ Free s p → Happens (.weirDoneReceived p k) s (dropped (takenIn s p k a) p)) ∧
    (∀ h, x.holders[i]? = some h → Free s p → x.holders.length ≤ 257 → x.base < 2 ^ 32 →
      let hs := x.holders.set i { h with isDone := true }
      let n := (hs.takeWhile Ticket.isDone).length
      Happens (.weirDoneReceived p k) s
        ((portSet t p { t.portAt p with base := (x.base + n) % 2 ^ 32, holders := hs.drop n }).portEvent p 12 (p % 3) k.arg 0 k.conn))) ∧
  (∀ s p k a i, Accepted s p k a → k.op = 9 ∨ k.op = 10 → ArrivesBy p k i → ¬ Serves s p k.context →
    Happens i s (dropped (takenIn s p k a) p)) ∧
  -- FAULT: the transfer that it names fails
  (∀ s p k a t, Accepted s p k a → k.op = 10 → Serves s p k.context →
    let u := notes (takenIn s p k a) p k 15 k.tdesc (k.arg % 256 + 2 ^ 63) k.va k.coord
    let v := { u with reports := s.reports ++ [.remoteFault k.context (k.arg % 256) (BitVec.ofNat 64 k.va)] }
    let i := Instr.faultReceived p k
    let runs := Running s (p / 3) k.handle t
    let none_ := ∀ t, ¬ Running s (p / 3) k.handle t
    (Free s p → runs → (s.slAt (p / 3)).evq.length < 256 → Happens i s (v.finishTransfer (p / 3) k.handle true)) ∧
    (Free s p → none_ → Happens i s v) ∧
    (runs ∧ 256 ≤ (s.slAt (p / 3)).evq.length ∨ (runs ∨ none_) ∧ ¬ Free s p → Happens i s (dropped (takenIn s p k a) p))) ∧
  -- NEWEP: the flows to the sender's old endpoint get the new one, and go on
  Controls 11 (fun p k s =>
    let x := s.slAt (p / 3)
    let fs := match (s.portAt p).conns.at? k.conn with
      | some c => (peerFlows x c.addr c.udp k.ctx).filter (flowOn x)
      | none => (List.range 512).filter (fun f =>
        flowOn x f && decide (saOf x f = k.sa ∧ (flowWord x f 0).toNat / 2 ^ 44 % 2 ^ 16 = k.ctx))
    let put := fun y f =>
      let z := flowPut (flowPut y f 4 (BitVec.ofNat 64 (k.addr / 2 ^ 64))) f 5 (BitVec.ofNat 64 k.addr)
      holdPut (flowPut z f 6 ((flowWord z f 6 &&& ~~~ (0xFFFF : Word)) ||| BitVec.ofNat 64 (k.udp % 2 ^ 16))) false f
    notes (s.setSl (p / 3) (fs.foldl put x)) p k 18 fs.length k.ctx k.conn 0)

/-- Two parts: DataArrival and ControlArrival.

15_sluice.md R270 to R274, R278, R284 and 17_collectives.md R306, R308, R309, R311 to R313, R319: what a data packet that arrives does,
check by check: the transport, trimming, the context, the descriptor, the claim, the write; and what a staged contribution does.

15_sluice.md R273, R277 to R279, R284, R285: what a control packet that arrives does. The number in a refused TICKET is a free
value, and WEIR-REQ is raised after a refusal too (log entry 48); a NEWEP of a closed connection goes by its SA (log entry 46). -/
def Obligations.ArrivalEvents : Prop := Parts.DataArrival ∧ Parts.ControlArrival

/-- 15_sluice.md R271, R272, R275, R276, R287: a packet leaves when it is its flow's turn: the header and the payload, the path, the
bucket, the counter value; a chunk that is no longer owed is passed over, and one whose source fails ends its transfer. -/
def Sys2Proof.Parts.Sending : Prop :=
  (∀ s n f o rest, let x := s.slAt n
    let p := 3 * n + portOf x f
    let st := pacing x f
    let popped := s.setSl n (paced x f { st with queue := rest })
    let i := Instr.packetTransmit n f
    portOf x f < 3 → st.queue = o :: rest → x.bound = true → (s.portAt p).up = true → p ∉ s.fencedPorts → HasTurn s p f →
    (∀ hdr payload path t, s.packetOf x f o = .ok (some (hdr, payload)) → nextPath (flowWord x f 1) st.last = some path →
      let y := (paced x f { st with queue := rest, bucket := st.bucket - 176 * takes payload.length, last := path }).markSent o s.slTicks
      Transmitted (s.setSl n y) t n p (saOf x f) (takes payload.length - 20) (fun c =>
        .packet p ((flowWord x f 4).toNat * 2 ^ 64 + (flowWord x f 5).toNat) ((flowWord x f 6).toNat % 2 ^ 16)
          (((flowWord x f 0).toNat / 2 ^ 16 % 2 ^ 16 + path) % 2 ^ 16) (saOf x f) c hdr payload) →
      Happens i s (turned t p f)) ∧
    (s.packetOf x f o = .ok none → Happens i s (turned popped p f)) ∧
    (∀ e h k r t, s.packetOf x f o = .error e → o = .chunk h k r → x.transfers.at? h = some t →
      (Free s p → x.evq.length < 256 →
        let u := if e.table then { s with reports := s.reports ++ [.pageTable x.ctx (BitVec.ofNat 64 e.addr)] } else s
        Happens i s ((((u.setSl n (paced x f { st with queue := rest })).portEvent p 15 (at_ t.desc 0x18 2) (e.cause + 2 ^ 63) e.addr
          ((at_ t.desc 0x10 2 + k) % 2 ^ 16 + at_ t.desc 0x12 6 * 2 ^ 16)).finishTransfer n h true))) ∧
      (¬ Free s p ∨ 256 ≤ x.evq.length → Happens i s (turned s p f)))) ∧
  (∀ s n f, ¬ HasTurn s (3 * n + portOf (s.slAt n) f) f → portOf (s.slAt n) f < 3 → Passes (.packetTransmit n f) s) ∧
  -- the header and the payload of chunk k of a transfer (Tables 2 and 9)
  (∀ (s : State) x f h k (r : Bool) t, x.transfers.at? h = some t → let got := s.packetOf x f (.chunk h k r)
    let b := t.desc
    let cs := at_ b 0x1E 2
    let n := min cs (at_ b 8 8 - k * cs)
    (t.state ≠ 1 ∨ (t.chunk k).acked = true → got = .ok none) ∧
    (∀ rs, t.state = 1 → (t.chunk k).acked = false →
      s.runs x.ctx (2 ^ 40) .load (n / 4096 + 2) ((at_ b 0 8 + k * cs) % 2 ^ 64) n = .ok rs →
      got = .ok (some (serizHdr (at_ b 0x1A 1) ((flowWord x f 0).toNat / 2 ^ 44 % 2 ^ 16) (at_ b 0x18 2) (at_ b 0x1B 1)
        (if r then 1 else 0) ((at_ b 0x10 2 + k) % 2 ^ 16 + at_ b 0x12 6 * 2 ^ 16) (at_ b 0x1C 2) n (at_ b 0x20 4) h k 0,
        s.runsBytes rs))) ∧
    (∀ c a q, t.state = 1 → (t.chunk k).acked = false →
      s.runs x.ctx (2 ^ 40) .load (n / 4096 + 2) ((at_ b 0 8 + k * cs) % 2 ^ 64) n = .fault c a q →
      got = .error ⟨if c = 4 then 4 else 3, a.toNat, q⟩)) ∧
  (∀ (s : State) x f h, s.packetOf x f (.control h) = .ok (some (h, []))) ∧
  (∀ op ctx td redop flags coord contrib len gen h k arg, op < 256 → ctx < 2 ^ 16 → td < 2 ^ 16 → redop < 256 → flags < 256 →
    coord < 2 ^ 64 → contrib < 2 ^ 16 → len < 2 ^ 16 → gen < 2 ^ 32 → h < 2 ^ 16 → k < 2 ^ 16 → arg < 2 ^ 32 →
    let b := serizHdr op ctx td redop flags coord contrib len gen h k arg
    b.length = 32 ∧ at_ b 0 1 = 1 ∧ at_ b 1 1 = op ∧ at_ b 2 2 = ctx ∧ at_ b 4 2 = td ∧ at_ b 6 1 = redop ∧ at_ b 7 1 = flags ∧
    at_ b 8 8 = coord ∧ at_ b 0x10 2 = contrib ∧ at_ b 0x12 2 = len ∧ at_ b 0x14 4 = gen ∧ at_ b 0x18 2 = h ∧ at_ b 0x1A 2 = k ∧
    at_ b 0x1C 4 = arg) ∧
  -- what a packet that leaves marks, the next path, and the last counter value of an SA
  (∀ (x : Sluice) h k r now t, x.transfers.at? h = some t →
    x.markSent (.chunk h k r) now = chunkPut x h t k { t.chunk k with sent := some now, rto := rtoOf x t.flow }) ∧
  (∀ (x : Sluice) h now, x.markSent (.control h) now = x) ∧
  (∀ paths last i, i < 64 → paths.getLsbD ((last + 1 + i) % 64) = true → (∀ j, j < i → paths.getLsbD ((last + 1 + j) % 64) = false) →
    nextPath paths last = some ((last + 1 + i) % 64)) ∧
  (∀ (x : Sluice) a k, x.sas.at? a = some k →
    (2 ^ 64 - 2 ^ 32 ≤ k.counter → x.takeCounter a = none) ∧
    (k.counter + 1 = 2 ^ 64 - 2 ^ 32 → ∃ y, x.takeCounter a = some (k.counter, y) ∧
      y = { x with sas := x.sas.ins a { k with counter := k.counter + 1 }, flows := y.flows, flowSt := y.flowSt } ∧
      ∀ f, f < 512 → if saOf x f = a then (flowWord y f 0).getLsbD 62 = true ∧ (pacing y f).exhausted = true
        else flowWord y f 0 = flowWord x f 0 ∧ pacing y f = pacing x f))

/-- 15_sluice.md R274, R276, R278, R282, R284 to R287 and 17_collectives.md R316: acknowledgements, the end of a transfer, timers, links,
connections, and what raising an event does. An acknowledgement, or an event, that would have to raise what it cannot is counted
as dropped (log entries 46 and 47). -/
def Sys2Proof.Parts.TransferEnds : Prop :=
  (∀ s p h k path t, let n := p / 3
    let x := s.slAt n
    let i := fun m => Instr.ackArrival p h k path m
    let valid := p < 48 ∧ t.state = 1 ∧ k < t.n ∧ (t.chunk k).sent ≠ none ∧ (t.chunk k).acked = false ∧ portOf x t.flow = p % 3
    let y := chunkPut x h t k { t.chunk k with acked := true }
    let u := (s.setSl n y).setAck n (at_ t.desc 0x28 8) (t.ackBit + k)
    let last := ∀ j, j < t.n → j = k ∨ (t.chunk j).acked = true
    let v := u.portEvent p 6 t.flow 1 (2 ^ (path % 64)) 0
    let marks := Free s p ∨ Joins x 6 t.flow
    x.transfers.at? h = some t →
    (∀ m, ¬ valid → Passes (i m) s) ∧
    (valid → ¬ last → Happens (i false) s u) ∧
    (valid → last → t.coll.isSome = true ∨ Free s p → Happens (i false) s (u.finishTransfer n h false)) ∧
    (valid → last → t.coll = none → ¬ Free s p → ∀ m, Happens (i m) s (dropped s p)) ∧
    (valid → ¬ marks → Happens (i true) s (dropped s p)) ∧
    (valid → marks → ¬ last → Happens (i true) s v) ∧
    (valid → marks → last → t.coll.isSome = true ∨ (Free s p ∧ (x.evq.length < 256 ∨ Joins x 6 t.flow)) →
      Happens (i true) s (v.finishTransfer n h false)) ∧
    (valid → last → t.coll = none → 256 ≤ x.evq.length → ¬ Joins x 6 t.flow → Happens (i true) s (dropped s p))) ∧
  (∀ s p h k path m, (s.slAt (p / 3)).transfers.at? h = none → Passes (.ackArrival p h k path m) s) ∧
  (∀ s n va i b f, bitByte s n (va + i / 8) = some (b, f) → s.setAck n va i = f (b ||| BitVec.twoPow 8 (i % 8))) ∧
  -- the end of a transfer: it leaves the queues; a collective's is counted there and its handle is free; XFER-DONE
  (∀ (s : State) n h (failed : Bool) t, let x := s.slAt n
    let p := portOf x t.flow
    let y := { x with
      flowSt := x.flowSt.map (fun (q : Nat × FlowSt) => (q.1, { q.2 with queue := q.2.queue.filter (fun o => match o with
        | .chunk j _ _ => j != h
        | .control _ => true) }))
      transfers := x.transfers.ins h { t with state := if failed then 3 else 2 } }
    let done := fun (u : State) => u.raiseEv n (256 + p) 2 (3 * n + p) h (t.n + (if failed then 2 ^ 63 else 0)) t.flow 0
    x.transfers.at? h = some t →
    (t.coll = none → s.finishTransfer n h failed = done (s.setSl n y)) ∧
    (∀ c r, t.coll = some c → (s.ctxAt x.ctx).colls.at? c = some r →
      let u := s.setSl n { y with transfers := y.transfers.del h }
      let w := u.setCtx x.ctx { s.ctxAt x.ctx with
        colls := (s.ctxAt x.ctx).colls.ins c { r with completed := r.completed + 1, bad := r.bad || failed } }
      s.finishTransfer n h failed = if failed then done w else w)) ∧
  (∀ s n h k t q, let x := s.slAt n
    let c := t.chunk k
    let p := portOf x t.flow
    x.transfers.at? h = some t → c.sent = some q → t.state = 1 → c.acked = false → 0 < c.rto → c.rto < s.slTicks - q → p < 3 →
    Free s (3 * n + p) →
    Happens (.timeout n h k) s ((s.setSl n (chunkPut x h t k { c with sent := some s.slTicks })).portEvent (3 * n + p) 3 h
      (k + 65536) t.flow 0)) ∧
  (∀ s n t tag, let x := s.slAt n
    x.timers.at? t = some (0, tag) → x.pending.at? t = none →
    Happens (.timer n t) s ((s.setSl n { x with timers := x.timers.del t }).raiseEv n t 13 0xFF t tag 0 0)) ∧
  (∀ s p i c, (s.portAt p).conns.at? i = some c →
    (2 ^ 24 ≤ s.slTicks - c.last →
      Happens (.connectionClose p i) s (portSet s p { s.portAt p with conns := (s.portAt p).conns.del i })) ∧
    (s.slTicks - c.last < 2 ^ 24 → Passes (.connectionClose p i) s)) ∧
  (∀ s p up, p < 48 → (s.portAt p).up ≠ up →
    let t := portSet s p { s.portAt p with up := up }
    let plus := fun (b : Bool) n => if b then n else 0
    Happens (.link p up) s (t.portEvent p 17 (p % 3)
      (plus up 1 + plus (s.portAt p).slow 2 + plus (decide (p ∈ s.fencedPorts)) 4) 0 0)) ∧
  (∀ s n, let x := s.slAt n
    x.trapMode = true → x.running = true → 165000 ≤ x.trapCycles →
    Happens (.sluiceTrapTimeout n) s { s.setSl n { x with running := false } with
      reports := s.reports ++ [.sluice n (x.scause.toNat % 256)] }) ∧
  -- raising an event: it joins a queued record of its flow or SA, enters the queue, or is pending while that is full; with its
  -- XFER-DONE an ended transfer frees its handle
  (∀ (x : Sluice) src r, let joins := fun q => evType q = evType r ∧ ((evType r = 6 ∧ evA q = evA r) ∨
      (evType r = 16 ∧ q.getD 2 0 = r.getD 2 0))
    ((∃ q ∈ x.evq, joins q) → ∃ e, x.raiseEv src r = { x with evq := e } ∧ e.length = x.evq.length ∧
      ∀ (j : Nat) (q : List Word), x.evq[j]? = some q → e[j]? = some (if evType q = evType r ∧ ((evType r = 6 ∧ evA q = evA r) ∨
          (evType r = 16 ∧ q.getD 2 0 = r.getD 2 0)) then
        [q.getD 0 0, q.getD 1 0 + r.getD 1 0, if evType r = 6 then q.getD 2 0 ||| r.getD 2 0 else q.getD 2 0, q.getD 3 0] else q)) ∧
    ((∀ q ∈ x.evq, ¬ joins q) →
      (x.pending.at? src ≠ none → x.raiseEv src r = x) ∧
      (x.pending.at? src = none → 256 ≤ x.evq.length → x.raiseEv src r = { x with pending := x.pending.ins src r }) ∧
      (x.pending.at? src = none → x.evq.length < 256 → x.raiseEv src r = x.enqueue r))) ∧
  (∀ (x : Sluice) r, let y := { x with evq := x.evq ++ [r] }
    (∀ t, evType r = 2 → x.transfers.at? (evA r) = some t → t.state ≠ 1 →
      x.enqueue r = { y with transfers := x.transfers.del (evA r) }) ∧
    (evType r ≠ 2 ∨ (∀ t, x.transfers.at? (evA r) = some t → t.state = 1) → x.enqueue r = y)) ∧
  (∀ (s : State) n src type port a w1 w2 w3, s.raiseEv n src type port a w1 w2 w3 = s.setSl n ((s.slAt n).raiseEv src
    [BitVec.ofNat 64 (type % 256 + port % 256 * 2 ^ 8 + a % 2 ^ 16 * 2 ^ 16 + s.cycle.toNat % 2 ^ 32 * 2 ^ 32),
      BitVec.ofNat 64 w1, BitVec.ofNat 64 w2, BitVec.ofNat 64 w3])) ∧
  (∀ (s : State) p type a w1 w2 w3, s.portEvent p type a w1 w2 w3 = s.raiseEv (p / 3) (256 + p % 3) type p a w1 w2 w3) ∧
  (∀ s n src r rest, let x := s.slAt n
    x.pending = (src, r) :: rest → x.evq.length < 256 →
    Happens (.eventDeferredEnqueue n) s (s.setSl n (({ x with pending := x.pending.del src } : Sluice).enqueue r)))

/-- 17_collectives.md R309 to R313: the fixed tree of a reduction, what a completed chunk leaves, and its release at the deadline;
the basin bytes that hold its bits and records. -/
def Sys2Proof.Parts.Reductions : Prop :=
  -- basin bytes and bits, under the context's grant (08_memory.md R153)
  (∀ (s : State) ctx va k bs, let o := va - 0x01FFFF0040000000
    let c := s.ctxAt ctx
    let inside := 0x01FFFF0040000000 ≤ va ∧ va < 0x01FFFF0060000000 ∧ o % 2 ^ 27 < c.grantSize (o / 2 ^ 27)
    let pa := 0x1000000000000 + o / 2 ^ 27 * 2 ^ 27 + c.grantBase (o / 2 ^ 27) + o % 2 ^ 27
    let b := s.basinByte ctx (va + k / 8)
    (inside → s.basinByte ctx va = s.rawByte pa ∧ ∀ v, s.setBasins ctx va (v :: bs) = (s.setRaw pa v).setBasins ctx (va + 1) bs) ∧
    s.setBasins ctx va [] = s ∧ s.basinBit ctx va k = b.getLsbD (k % 8) ∧
    s.setBasinBit ctx va k = s.setBasins ctx (va + k / 8) [b ||| BitVec.twoPow 8 (k % 8)] ∧
    (∀ n, 0 < n → (s.inBasin ctx va n = true ↔ 0x01FFFF0040000000 ≤ va ∧ va + n ≤ 0x01FFFF0060000000 ∧
      o % 2 ^ 27 + n ≤ 2 ^ 27 ∧ o % 2 ^ 27 + n ≤ c.grantSize (o / 2 ^ 27)))) ∧
  -- a staged chunk whose deadline has passed is released with what has arrived
  (∀ s ctx d c st, let x := s.ctxAt ctx
    let t := x.tdesc d
    let i := Instr.deadlineRelease ctx d c
    x.stage.at? (d * 2 ^ 28 + c) = some st →
    (0 < t.dline → t.dline ≤ st.elapsed → x.frozen = false → x.failed = false → s.completionHeld ctx d c true st = false →
      Happens i s (s.completeChunk ctx d c true st)) ∧
    (t.dline = 0 ∨ st.elapsed < t.dline ∨ x.frozen = true ∨ x.failed = true ∨ s.completionHeld ctx d c true st = true → Passes i s)) ∧
  -- completion: the root at the chunk's home, the record, the arrival bit; a write that fails is a fatal error
  (∀ (s : State) ctx d c st early, let x := s.ctxAt ctx
    let t := x.tdesc d
    let u := s.setCtx ctx { x with stage := x.stage.del (d * 2 ^ 28 + c) }
    let at_ := t.cmap + c * t.recLen
    let got := s.completeChunk ctx d c early st
    (∀ rs, u.chunkPlace ctx t c = .ok rs → s.inBasin ctx at_ t.recLen = true →
      let v := ((u.place_ ctx rs (t.root c st.leaves)).setBasins ctx at_ (t.record early st.bits)).setBasinBit ctx t.bitmap c
      got = v.setCtx ctx { v.ctxAt ctx with finished := (v.ctxAt ctx).finished.ins (d * 2 ^ 28 + c) true }) ∧
    (∀ e, u.chunkPlace ctx t c = .error e → got = placeFails u t.rport ctx d t c e) ∧
    (∀ rs, u.chunkPlace ctx t c = .ok rs → s.inBasin ctx at_ t.recLen = false → got = placeFails u t.rport ctx d t c ⟨3, at_, false⟩)) ∧
  (∀ (s : State) ctx d c early st, s.completionHeld ctx d c early st = true ↔
    ¬ Free s ((s.ctxAt ctx).tdesc d).rport ∧ ∀ u, s.completion ctx d c early st ≠ .ok u) ∧
  -- the tree: a staged node as it is, another from its children
  (∀ (α : Type) (staged : Nat → Option α) (join : α → α → α) h j,
    let node := treeNode staged join
    let own := staged (65536 * (h + 1) + j)
    node 0 j = staged j ∧ (∀ x, own = some x → node (h + 1) j = some x) ∧
    (∀ x y, own = none → node h (2 * j) = some x → node h (2 * j + 1) = some y → node (h + 1) j = some (join x y)) ∧
    (own = none → node h (2 * j + 1) = none → node (h + 1) j = node h (2 * j)) ∧
    (own = none → node h (2 * j) = none → node (h + 1) j = node h (2 * j + 1))) ∧
  (∀ n, n ≤ 2 ^ treeHeight n ∧ (0 < treeHeight n → 2 ^ (treeHeight n - 1) < n)) ∧
  -- the root of a dense chunk and of a sparse one, and the value of a node
  (∀ (t : TDesc) c leaves, let n := elemSize t.etype
    let count := min t.csize (t.total - c * t.csize) / n
    let dense := treeNode (fun i => (leaves.at? i).map (fun b => (List.range (b.length / n)).map (fun j => at_ b (n * j) n)))
      t.joinDense (treeHeight t.ncontrib) 0
    (t.mode ≠ 2 → ∀ xs, dense = some xs → t.root c leaves = xs.flatMap (bytesOf n)) ∧
    (t.mode ≠ 2 → dense = none → t.root c leaves = (List.range count).flatMap (fun i => bytesOf n (t.identity i))) ∧
    let sparse := treeNode (fun i => (leaves.at? i).map (fun b => ascending (t.pairsOf b))) t.joinSparse (treeHeight t.ncontrib) 0
    (t.mode = 2 → t.root c leaves = (List.range count).flatMap (fun i => bytesOf n (SMap.atD (sparse.getD []) i 0)))) ∧
  (∀ (t : TDesc) b, let n := elemSize t.etype
    t.pairsOf b = (List.range (b.length / (4 + n))).map (fun i => (at_ b ((4 + n) * i) 4, at_ b ((4 + n) * i + 4) n))) ∧
  (∀ ps : List (Nat × Nat), ps.Pairwise (fun p q => p.1 < q.1) → ascending ps = ps) ∧
  (∀ (t : TDesc) x y, let op := if t.redop = 1 then AmoOp.add else if t.redop = 2 then .min else .max
    (t.redop ≠ 4 → t.joinDense x y = (x.zip y).map (fun p => op.apply t.etype p.1 p.2 0)) ∧
    (t.redop = 4 → 0 < t.rlen → x.length = y.length → x.length % t.rlen = 0 →
      t.joinDense x y = (List.range (x.length / t.rlen)).flatMap (fun i =>
        combine ((x.drop (t.rlen * i)).take t.rlen) ((y.drop (t.rlen * i)).take t.rlen)))) ∧
  (∀ (t : TDesc) x y i, x.Pairwise (fun p q => p.1 < q.1) → y.Pairwise (fun p q => p.1 < q.1) →
    (t.joinSparse x y).at? i = match x.at? i, y.at? i with
      | some v, some w => some (AmoOp.add.apply t.etype v w 0)
      | some v, none => some v
      | none, w => w) ∧
  (∀ (t : TDesc) i, (t.redop = 1 → t.identity i = 0) ∧ (t.redop = 4 → t.etype = 1 → t.identity i = if i % t.rlen = 0 then 0xFF800000 else 0) ∧
    (t.redop = 2 → t.identity i = ([(1, 0x7F800000), (2, 0x7F80), (9, 0x7FFFFFFF), (8, 0x7FFFFFFFFFFFFFFF)].lookup t.etype).getD (t.identity i)) ∧
    (t.redop = 3 → t.identity i = ([(1, 0xFF800000), (2, 0xFF80), (9, 0x80000000), (8, 0x8000000000000000)].lookup t.etype).getD (t.identity i))) ∧
  -- the contributor record (R313)
  (∀ (t : TDesc) (early : Bool) set, set.Nodup → (∀ c ∈ set, c < t.ncontrib) → set.length < 2 ^ 32 → let r := t.record early set
    r.length = t.recLen ∧ at_ r 0 4 = set.length ∧ at_ r 4 1 = (if early then 1 else 0) ∧ at_ r 5 3 = 0 ∧
    ∀ c, c < 64 * ((t.ncontrib + 63) / 64) → (at_ r (8 + c / 8) 1).testBit (c % 8) = decide (c ∈ set))

/-- 17_collectives.md R315 to R317 and 15_sluice.md R286: a walker emits its transfers while its budget lasts, gated chunks wait for their
bit, and the end of a collective. -/
def Sys2Proof.Parts.Collectives : Prop :=
  -- walkers: a transfer for the next point, while the budget lasts; on a flow that is not valid it fails at once
  (∀ s ctx hd h x, let c := s.ctxAt ctx
    let r := x.record
    let n := cPort r / 3
    let f := cFlowbase r + cPeer r x.walked
    let sl := s.slAt n
    let i := Instr.walkerEmit ctx hd
    let go := x.state = 1 ∧ x.walked < cPoints r ∧ 0 < x.budget ∧ ¬ Stops c ∧ sl.bound = true ∧ sl.ctx = ctx
    let t := s.setCtx ctx { c with colls := c.colls.ins hd { x with
      walked := cNext r (cPoints r) (x.walked + 1), emitted := x.emitted + 1, budget := x.budget - 1 } }
    let u := t.setSl n (sl.startTransfer h (cDesc r x.walked) f (some hd)
      (if cGate r then some (cF r 8 2, cGateChunk r x.walked) else none) (x.emitted * cNchunk r))
    c.colls.at? hd = some x → NextHandle sl h →
    (go → flowOn sl f = true → Happens i s u) ∧
    (go → flowOn sl f = false → sl.pending.at? (256 + portOf sl f) = none → Happens i s (u.finishTransfer n h true)) ∧
    (¬ go → Passes i s)) ∧
  -- the points, and the values at one (R316)
  (∀ r w, let X := fun i => if i < cNlev r then at_ r (0x40 + 16 * i) 2 else 1
    let idx := fun i => [w / (X 1 * X 2 * X 3), w / (X 2 * X 3) % X 1, w / X 3 % X 2, w % X 3].getD i 0
    let term := fun o n (i : Nat) => if i < cNlev r then
      (BitVec.ofNat (8 * n) (at_ r (0x40 + 16 * i + o) n)).toInt * (idx i : Int) else 0
    let sum := fun o n => term o n 0 + term o n 1 + term o n 2 + term o n 3
    cPoints r = X 0 * X 1 * X 2 * X 3 ∧ cBase r w = (BitVec.ofInt 64 (at_ r 0x20 8 + sum 4 4)).toNat ∧
    (0 < cTsz r → cPeer r w = ((at_ r 0x36 2 + sum 2 2) % cTsz r).toNat) ∧
    cC0 r w = ((at_ r 0x28 2 + sum 8 2) % 2 ^ 16).toNat ∧ cCtb r w = ((at_ r 0x34 2 + sum 12 2) % 2 ^ 16).toNat ∧
    cGateChunk r w = at_ r 0x30 4 + sum 10 2) ∧
  -- the next point that is not skipped
  (∀ r w, let v := cNext r (cPoints r) w
    let skip := fun i => cSelf r && cPeer r i == cRank r
    w ≤ v ∧ (∀ i, w ≤ i → i < v → skip i = true) ∧ (v < cPoints r → skip v = false)) ∧
  (∀ r w, r.length = 128 → let b := cDesc r w
    at_ b 0 8 = cBase r w ∧ at_ b 8 8 = cTb r ∧ at_ b 0x10 2 = cC0 r w ∧ at_ b 0x12 6 = at_ r 0x2A 6 ∧ at_ b 0x18 2 = at_ r 6 2 ∧
    at_ b 0x1A 1 = cOp r ∧ at_ b 0x1B 1 = at_ r 3 1 ∧ at_ b 0x1C 2 = cCtb r w ∧ at_ b 0x1E 2 = cCsize r ∧ at_ b 0x20 4 = at_ r 0x10 4 ∧
    at_ b 0x24 2 = cNchunk r ∧ at_ b 0x28 8 = cAckmap r) ∧
  -- a transfer starts: its chunks are queued, or wait for their gate
  (∀ (x : Sluice) h desc f coll g ack, let n := at_ desc 0x24 2
    let t := fun chunks => ({ x with
      transfers := x.transfers.ins h ⟨desc, f, 1, chunks, coll, g, ack, x.xferCount⟩
      lastHandle := h
      xferCount := x.xferCount + 1 } : Sluice)
    (g = none → x.startTransfer h desc f coll g ack = (t []).queueOn f ((List.range n).map (fun k => OutPkt.chunk h k false))) ∧
    (g ≠ none → x.startTransfer h desc f coll g ack = t ((List.range n).map (fun k => (k, { Chunk.fresh with gated := true }))))) ∧
  (∀ (x : Sluice) f ps, let q := waiting x f
    let old := q.takeWhile OutPkt.isRtx
    ((∀ p ∈ ps, p.isRtx = false) → x.queueOn f ps = queued x f (q ++ ps)) ∧
    ((∀ p ∈ ps, p.isRtx = true) → x.queueOn f ps = queued x f (old ++ ps ++ q.drop old.length))) ∧
  (∀ s n h (k : Nat) t g (j : Int), let x := s.slAt n
    let c := s.ctxAt x.ctx
    let d := c.tdesc g
    let opens := 0 ≤ j + (k : Int) ∧ j + (k : Int) < d.n ∧ s.basinBit x.ctx d.bitmap (j + (k : Int)).toNat = true
    let i := Instr.gatedChunkRelease n h k
    x.transfers.at? h = some t → t.gate = some (g, j) → t.state = 1 → k < t.n → (t.chunk k).gated = true →
    (d.v = true → opens → ¬ Stops c →
      Happens i s (s.setSl n ((chunkPut x h t k { t.chunk k with gated := false }).queueOn t.flow [.chunk h k false]))) ∧
    (d.v = false ∨ ¬ opens ∨ Stops c → Passes i s)) ∧
  -- the end of a collective: its range is cleared, its state set, COLL-DONE raised
  (∀ s ctx hd x, let c := s.ctxAt ctx
    let n := cPort x.record / 3
    let i := Instr.collDone ctx hd
    let done := x.state = 1 ∧ cPoints x.record ≤ x.walked ∧ x.emitted ≤ x.completed ∧ (s.slAt n).pending.at? 259 = none
    let w := fun r j => c.ranges.atD (3 * r + j) 0
    let d := match x.range with
      | some r => rangeSet c r (w r 0 &&& ~~~ (BitVec.twoPow 64 63)) (w r 1) (w r 2)
      | none => c
    c.colls.at? hd = some x →
    (done → Happens i s ((s.setCtx ctx { d with colls := c.colls.ins hd { x with state := if x.bad then 3 else 2 } }).raiseEv n 259 14
      0xFF hd (x.emitted % 2 ^ 32 + (if x.bad then 2 ^ 63 else 0)) 0 0)) ∧
    (¬ done → Passes i s))

/-- Four parts: Sending, TransferEnds, Reductions and Collectives.

15_sluice.md R271, R272, R275, R276, R287: a packet leaves when it is its flow's turn: the header and the payload, the path, the
bucket, the counter value; a chunk that is no longer owed is passed over, and one whose source fails ends its transfer.

15_sluice.md R274, R276, R278, R282, R284 to R287 and 17_collectives.md R316: acknowledgements, the end of a transfer, timers, links,
connections, and what raising an event does. An acknowledgement, or an event, that would have to raise what it cannot is counted
as dropped (log entries 46 and 47).

17_collectives.md R309 to R313: the fixed tree of a reduction, what a completed chunk leaves, and its release at the deadline;
the basin bytes that hold its bits and records.

17_collectives.md R315 to R317 and 15_sluice.md R286: a walker emits its transfers while its budget lasts, gated chunks wait for their
bit, and the end of a collective. -/
def Obligations.TransferEvents : Prop :=
  Parts.Sending ∧ Parts.TransferEnds ∧ Parts.Reductions ∧ Parts.Collectives

namespace Sys2Proof.Spec

/-! ## Issue, turns and bundles -/

/-- A queue number stands twice in the list. -/
abbrev TwiceNamed (l : List Nat) : Prop := ∃ n ∈ l, 24 ≤ n ∧ 2 ≤ l.count n

/-- A rill bit is set. -/
abbrev Rilled (q : Rill) : Prop := q.wp = true ∨ q.wn = true ∨ q.sp = true ∨ q.sn = true

/-- The word with uses `u` may not run in stream `ep` of logical core `k`: it is not valid there; it is an AP word that trap
mode refuses (07_traps.md R144); or it names a queue against Table 4 of 02_encoding.md, or twice. -/
def NotForStream (s : State) (ep : Bool) (k : Nat) (u : Use) : Prop :=
  (if ep then u.ep = false else u.ap = false ∨ u.e = true) ∨
  (ep = false ∧ (s.lcAt k).trapMode = true ∧ (Rilled u.q ∨ u.inTrap = false ∨ ∃ n ∈ u.srcs ++ u.dsts, 24 ≤ n)) ∨
  (∃ n ∈ u.srcs, if ep then 30 ≤ n else 24 ≤ n ∧ n < 30) ∨
  (∃ n ∈ u.dsts, if ep then 24 ≤ n ∧ n < 30 else 30 ≤ n) ∨
  TwiceNamed u.srcs ∨ TwiceNamed u.dsts

/-- The word with uses `u` must wait in stream `ep` of `l`: a register owed a status (the AP's), an empty source queue, a
full destination queue, or the rill: the AP acts at position A, the EP at V, between R and A (R75, R76, R241). -/
def MustWait (l : LCore) (ep : Bool) (u : Use) : Prop :=
  (ep = false ∧ ∃ n ∈ u.srcs ++ u.dsts, l.tokenPending n = true) ∨
  (∃ n ∈ u.srcs, 24 ≤ n ∧ l.queue (n - 24) = []) ∨
  (∃ n ∈ u.dsts, 24 ≤ n ∧ 16 ≤ (l.queue (n - 24)).length) ∨
  (u.q.wp = true ∧ l.tokens (if ep then 3 else 4) = 0) ∨
  (u.q.wn = true ∧ l.tokens (if ep then 9 else 5) = 0) ∨
  (u.q.sp = true ∧ 8 ≤ l.tokens (if ep then 8 else 9)) ∨
  (u.q.sn = true ∧ 8 ≤ l.tokens (if ep then 4 else 0))

/-- Where the words of instruction `i` may not issue, it traps with ILLEGAL; where it must wait, its stream stalls. -/
def ObeysIssue (i : Instr) (u : Use) : Prop :=
  ∀ s w, s.who = some w → i.wf = true →
    (s.issue w u = .illegal → MayTrap s w → ∃ t, exec i s = .next t ∧ Trapped s t w u.unit 1 0) ∧
    (∀ x, s.issue w u = .stall x → ∃ t, exec i s = .next t ∧ Stalled s t w x)

/-- Rotation requested of physical core `c`, when another logical core is resident and no swap is due or under way. -/
def rotationAsked (s : State) (c : Nat) : State :=
  let p := s.coreAt c
  if 1 < p.rot.length ∧ p.swapReq = none ∧ p.swapping = none then s.setCore c { p with swapReq := some .rotate } else s

/-- The unit of a word's slot class, by its major (02_encoding.md R32, 07_traps.md R138). -/
def unitOf (x : Nat) : Nat :=
  let m := x / 2097152 % 64
  if m < 32 then 1 else if m < 48 then 2 else if m < 52 then 3 else if m < 56 then 4 else 1

/-- The turn that `s` takes next is agent `a`'s, and `s1` has taken it: it heads the agenda, or the agenda is empty and the
schedule gives it (log entry 2). -/
def TurnOf (s s1 : State) (x : Machine.Turn) : Prop :=
  (∃ r, s.agenda = x :: r ∧ s1 = { s with agenda := r }) ∨
  (s.agenda = [] ∧ Config.schedule s.turn = x ∧ s1 = { s with turn := s.turn + 1 })

/-- The cursor on an instruction of `n` words at `pc` that agent `a` runs. -/
def cursorOn (a : Agent) (pc : Word) (n : Nat) (vector : Bool) : Cursor :=
  { Cursor.none with agent := some a, pc := pc, next := pc + BitVec.ofNat 64 (4 * n), vector := vector }

/-- Stream `w` reads the four bytes `bs` at `pc`, and `s1` has their pages marked: a Sluice core reads its private SRAM, a
logical core the translated memory that it may execute. -/
def FetchesBytes (s : State) (w : Who) (pc : Word) (bs : List Byte) (s1 : State) : Prop :=
  bs.length = 4 ∧
  match w with
  | .core _ _ k =>
    ∃ rs, s.runs (s.lcAt k).ctx k .fetch 2 pc.toNat 4 = .ok rs ∧ bs = s.runsBytes rs ∧ s1 = s.readMarks (s.lcAt k).ctx rs
  | .sluice n => pc.toNat + 4 ≤ 262144 ∧ bs = (List.range 4).map (fun i => (s.slAt n).sram.atD (pc.toNat + i) 0) ∧ s1 = s

/-- The stream is an AP's or a Sluice core's. -/
abbrev NoEp (w : Who) : Prop :=
  match w with
  | .core ep _ _ => ep = false
  | .sluice _ => True

/-- The words of a bundle of two or more syllables keep R32. -/
def KeepsR32 (ws : List Nat) : Prop :=
  let xs := sylsOf ws
  (∀ x ∈ xs, ∀ y ∈ xs, x.i < y.i →
    unitOf x.word ≠ unitOf y.word ∧
    (∀ n, 24 ≤ n → n < 32 → n ∈ x.instr.regs.1 → n ∉ y.instr.regs.1) ∧
    (∀ n, 24 ≤ n → n < 32 → n ∈ x.instr.regs.2 → n ∉ y.instr.regs.2) ∧
    (∀ n, 1 ≤ n → n < 24 → n ∈ x.instr.regs.2 → n ∉ y.instr.regs.2) ∧
    (unitOf x.word ≤ 2 → unitOf y.word ≤ 2 → ∀ b, 28 ≤ b → b < 32 → x.word.testBit b = true → y.word.testBit b = false)) ∧
  (∀ x ∈ xs, unitOf x.word ≠ 3 → ¬ TwiceNamed x.instr.regs.1 ∧ ¬ TwiceNamed x.instr.regs.2) ∧
  (4 ≤ ws.length → (ws.getD 3 0).testBit 27 = true)

/-- The syllables of a bundle in the order in which they act: V, M, G, then S. -/
def inOrder (xs : List Syl) : List Syl := ofSlot xs .v ++ ofSlot xs .m ++ ofSlot xs .g ++ ofSlot xs .s

/-- The syllables of `xs` run one after another, each told how many follow it. -/
def Chain : List Syl → State → State → Prop
  | [], s, t => t = s
  | x :: xs, s, t =>
    ∃ s1, exec x.instr { s with cur := { s.cur with syl := x.i, left := xs.length } } = .next s1 ∧ Chain xs s1 t

/-- Syllable `x`, tried alone on the state in which its bundle reads, leaves `t`. -/
def Tried (s : State) (x : Syl) (t : State) : Prop :=
  exec x.instr { s with cur := { s.cur with syl := x.i, left := 1 } } = .next t

/-- The EP of physical core `c` is to run the bundle `ws` at `pc`, in the state `s2`, which has fetched it. -/
def BundleDue (s s2 : State) (c k : Nat) (pc : Word) (ws : List Nat) : Prop :=
  ∃ s0 s1, TurnOf s s0 (.run (.ep c)) ∧ s0.streamOf (.ep c) = some (.core true c k, pc) ∧
    ({ s0 with cur := cursorOn (.ep c) pc 1 false }).fetchBundle k pc 4 = .ok (ws, s1) ∧
    s2 = { s1 with cur := cursorOn (.ep c) pc ws.length (hasVector ws) }

end Sys2Proof.Spec

/-- A word issues exactly where it is valid in its stream and mode, names its queues as Table 4 allows, and need not wait; a
Sluice core issues any of its own words without bits 31:27. Where it may not issue it raises ILLEGAL, and where it must wait
its stream stalls and nothing else changes: shown for a word of each kind of validity. `ctx.yield` retires and asks for
rotation; a word that does not decode raises ILLEGAL, of the unit of its slot, and of unit 1 where the bundle as a whole is
at fault (02_encoding.md R26, R34, R46; 04_scalar.md R75, R76; 07_traps.md R138, R144). -/
def Obligations.IssueConditions : Prop :=
  (∀ (s : State) (ep : Bool) (c k : Nat) (u : Use), s.issue (.core ep c k) u = .illegal ↔ NotForStream s ep k u) ∧
  (∀ (s : State) (ep : Bool) (c k : Nat) (u : Use), s.issue (.core ep c k) u = .go ↔ ¬ NotForStream s ep k u ∧ ¬ MustWait (s.lcAt k) ep u) ∧
  (∀ (s : State) (n : Nat) (u : Use), s.issue (.sluice n) u = .go ↔ u.sl = true ∧ ¬ Rilled u.q ∧ u.e = false) ∧
  (∀ (s : State) (n : Nat) (u : Use), s.issue (.sluice n) u ≠ .go → s.issue (.sluice n) u = .illegal) ∧
  (∀ q e d a b, ObeysIssue (.add q e d a b) (anywhere q e [a, b] [d])) ∧
  (∀ q e a off, ObeysIssue (.beqz q e a off) (anywhere q e [a] [])) ∧
  (∀ q d a off, ObeysIssue (.ldW q d a off) (apAndSluice q [a] [d])) ∧
  (∀ q a, ObeysIssue (.cqPut q a) (apOnly q [a] [])) ∧
  (∀ q e, ObeysIssue (.ctxYield q e) (apAndEp q e [] [])) ∧
  (∀ s ep c k q e, s.who = some (.core ep c k) → (ep = true → s.cur.left = 0) →
    s.issue (.core ep c k) (apAndEp q e [] []) = .go →
    ∃ t, exec (.ctxYield q e) s = .next (rotationAsked t c) ∧ Retired s t (.core ep c k) (apAndEp q e [] []) 0 0 .next) ∧
  (∀ s w n, s.who = some w → NoEp w → MayTrap s w →
    ∃ t, exec (.illegal n) s = .next t ∧ Trapped { s with cur := { s.cur with syl := n } } t w 1 1 0) ∧
  (∀ s c k n, s.who = some (.core true c k) → HasHandler s k → s.cur.bundle = true →
    ∃ t, exec (.illegal n) s = .next t ∧ Trapped { s with cur := { s.cur with syl := n } } t (.core true c k) 1 1 0) ∧
  (∀ s s1 c k n x, s.who = some (.core true c k) → HasHandler s k → s.cur.bundle = false →
    s.fetchCore k (s.cur.pc + BitVec.ofNat 64 (4 * n)) = .ok (x, s1) →
    ∃ t, exec (.illegal n) s = .next t ∧ Trapped { s with cur := { s.cur with syl := n } } t (.core true c k) (unitOf x) 1 0)

/-- A step runs the instruction that the bytes at the stream's address decode to, on the state that has taken the turn,
fetched the bytes and put the cursor on the instruction's words: one word, or a word and its literal, of an AP or a Sluice
core, and a bundle of one syllable of an EP that names no queue twice; bytes that decode to nothing run as ILLEGAL. An agent
without a stream to run does nothing; an event runs with no stream selected (the turns are the model's, log entry 2;
02_encoding.md R25, R30 to R32, 04_scalar.md R86). -/
def Obligations.StepRunsDecoded : Prop :=
  (∀ s s0 s1 a w pc bs i, TurnOf s s0 (.run a) → s0.streamOf a = some (w, pc) → NoEp w →
    FetchesBytes { s0 with cur := cursorOn a pc 1 false } w pc bs s1 → decode false bs = .ok (i, []) →
    step s = exec i s1) ∧
  (∀ s s0 s1 s2 a w pc bs cs i, TurnOf s s0 (.run a) → s0.streamOf a = some (w, pc) → NoEp w →
    FetchesBytes { s0 with cur := cursorOn a pc 1 false } w pc bs s1 → FetchesBytes s1 w (pc + 4) cs s2 →
    decode false (bs ++ cs) = .ok (i, []) →
    step s = exec i { s2 with cur := cursorOn a pc 2 false }) ∧
  (∀ s s0 s1 a w pc bs r, TurnOf s s0 (.run a) → s0.streamOf a = some (w, pc) → NoEp w →
    FetchesBytes { s0 with cur := cursorOn a pc 1 false } w pc bs s1 → decode false bs = .error r → r ≠ .truncated →
    step s = exec (.illegal 0) s1) ∧
  (∀ s s0 s1 s2 a w pc bs cs r, TurnOf s s0 (.run a) → s0.streamOf a = some (w, pc) → NoEp w →
    FetchesBytes { s0 with cur := cursorOn a pc 1 false } w pc bs s1 → decode false bs = .error .truncated →
    FetchesBytes s1 w (pc + 4) cs s2 → decode false (bs ++ cs) = .error r →
    step s = exec (.illegal 0) { s2 with cur := cursorOn a pc 1 false }) ∧
  (∀ s s0 s1 c k pc bs i, TurnOf s s0 (.run (.ep c)) → s0.streamOf (.ep c) = some (.core true c k, pc) →
    FetchesBytes { s0 with cur := cursorOn (.ep c) pc 1 false } (.core true c k) pc bs s1 →
    decode true bs = .ok (i, []) → (ofBytes bs).testBit 27 = true →
    (unitOf (ofBytes bs) ≠ 3 → ¬ TwiceNamed i.regs.1 ∧ ¬ TwiceNamed i.regs.2) →
    step s = exec i { s1 with cur := cursorOn (.ep c) pc 1 (unitOf (ofBytes bs) == 2) }) ∧
  (∀ s s0 s1 c k pc bs r, TurnOf s s0 (.run (.ep c)) → s0.streamOf (.ep c) = some (.core true c k, pc) →
    FetchesBytes { s0 with cur := cursorOn (.ep c) pc 1 false } (.core true c k) pc bs s1 →
    decode true bs = .error r → (ofBytes bs).testBit 27 = true →
    step s = exec (.illegal 0) { s1 with cur := cursorOn (.ep c) pc 1 (unitOf (ofBytes bs) == 2) }) ∧
  (∀ s s0 a, TurnOf s s0 (.run a) → s0.streamOf a = none → step s = .next (s0.verdict .idle)) ∧
  (∀ s s0 i, TurnOf s s0 (.event i) → i.hasWord = false → (∀ c, i ≠ .vectorBeat c) →
    step s = exec i { s0 with cur := Cursor.none })

/-- A bundle runs as a whole: its words keep R32 or it raises ILLEGAL; where each of its syllables, tried on the state in
which all of them read, can go on, they act in turn, V, M, G and S, and the last one closes it; where one cannot, the step is
that syllable's trap or stall alone, the S syllable's trap first. Bundles with `halt` are HaltEnds' (02_encoding.md R32, R33;
the order in which syllables act shows nowhere, and is the model's). -/
def Obligations.BundlesRun : Prop :=
  (∀ ws, 1 < ws.length → ws.length ≤ 4 → (bundleFault ws = none ↔ KeepsR32 ws)) ∧
  (∀ s s2 c k pc ws n, BundleDue s s2 c k pc ws → bundleFault ws = some n →
    step s = exec (.illegal n) { s2 with cur := { s2.cur with syl := n, bundle := true } }) ∧
  (∀ s s2 t c k pc ws, BundleDue s s2 c k pc ws → 1 < ws.length → bundleFault ws = none →
    (∀ x ∈ sylsOf ws, (∀ q e, x.instr ≠ .halt q e) ∧ ∃ u, Tried s2 x u ∧ u.cur.verdict = .done) →
    Chain (inOrder (sylsOf ws)) s2 t → step s = .next t) ∧
  (∀ s s2 c k pc ws, BundleDue s s2 c k pc ws → 1 < ws.length → bundleFault ws = none →
    (∀ x ∈ sylsOf ws, (∀ q e, x.instr ≠ .halt q e) ∧ ∃ u, Tried s2 x u) →
    ∀ x u, x ∈ sylsOf ws → Tried s2 x u → u.cur.verdict = .trapped ∨ u.cur.verdict = .stalled →
    ∃ y v, y ∈ sylsOf ws ∧ Tried s2 y v ∧ (v.cur.verdict = .trapped ∨ v.cur.verdict = .stalled) ∧ step s = .next v) ∧
  (∀ s s2 c k pc ws, BundleDue s s2 c k pc ws → 1 < ws.length → bundleFault ws = none →
    (∀ x ∈ sylsOf ws, ∀ q e, x.instr ≠ .halt q e) →
    ∀ x u, x ∈ sylsOf ws → unitOf x.word = 1 → Tried s2 x u → u.cur.verdict = .trapped → step s = .next u)

/-- The words that the spec's own examples write out decode to the instructions that they stand for: in the EP, where bit 27
ends the bundle, and in the AP and the Sluice cores, where a literal may follow (02_encoding.md's worked encodings and those
of 04_scalar.md, 05_matrix.md, 06_rotator.md, 11_vector_arith.md to 19_counters.md). -/
def Obligations.EncodingWords : Prop :=
  decodeWords false 0x10232140 none = .ok (.add ⟨false, false, false, true⟩ false 3 4 5, 1) ∧
  decodeWords true 0x004217FF none = .ok (.addi Rill.none false 2 2 0x7FF, 1) ∧
  decodeWords true 0x1C024601 none = .ok (.vadd ⟨false, false, false, true⟩ true 0 1 2 3 1, 1) ∧
  decodeWords false 0x09070000 (some 0x12345678) = .ok (.liLiteral Rill.none 7 0x12345678, 2) ∧
  decodeWords true 0x09070000 none = .ok (.li Rill.none true 7 0, 1) ∧
  decodeWords false 0x01461B3F none = .ok (.ldD Rill.none 6 3 0x3F, 1) ∧
  decodeWords false 0x09461B00 (some 0x200) = .ok (.ldDLiteral Rill.none 6 3 0x200, 2) ∧
  decodeWords true 0x096807FD none = .ok (.bcq Rill.none true 0x7FD, 1) ∧
  decodeWords false 0x01E30010 none = .ok (.mfsr Rill.none false 3 0x10, 1) ∧
  decodeWords true 0x09C42001 none = .ok (.loopi Rill.none true 0 4 1, 1) ∧
  decodeWords false 0x02000140 none = .ok (.trap Rill.none false 5, 1) ∧
  decodeWords false 0x02002803 none = .ok (.escal 5, 1) ∧
  decodeWords false 0x02202142 none = .ok (.acqGen Rill.none false 4 5, 1) ∧
  decodeWords false 0x02200083 none = .ok (.fence Rill.none false 2, 1) ∧
  decodeWords false 0x02402001 none = .ok (.dlogArm Rill.none 4, 1) ∧
  decodeWords false 0x00E32140 none = .ok (.amoAdd Rill.none 3 4 5 0, 1) ∧
  decodeWords false 0x03462281 none = .ok (.cpFo Rill.none 6 4 10, 1) ∧
  decodeWords false 0x03653204 none = .ok (.geScatter Rill.none 5 6 8, 1) ∧
  decodeWords false 0x032411C2 none = .ok (.ringClaim Rill.none 4 2 7, 1) ∧
  decodeWords false 0x03091002 none = .ok (.engSt Rill.none 9 2, 1) ∧
  decodeWords true 0x0C08AC31 none = .ok (.vmac Rill.none true 0 4 5 6 1, 1) ∧
  decodeWords true 0x0CA67811 none = .ok (.vmuls Rill.none true 3 3 24 1, 1) ∧
  decodeWords true 0x0CC73F80 none = .ok (.vsetf Rill.none true 3 0x3F80, 1) ∧
  decodeWords true 0x0E021020 none = .ok (.mxMacz Rill.none true 0 2 0 1, 1) ∧
  decodeWords true 0x0E8C2280 none = .ok (.rtAngB16 Rill.none true 4 5, 1) ∧
  decodeWords true 0x0E869190 none = .ok (.rtQr Rill.none true 1 2 3 1, 1) ∧
  decodeWords false 0x870531C0 none = .ok (.seqRetire ⟨true, false, false, false⟩ 5 6 7, 1) ∧
  decodeWords false 0x07284803 none = .ok (.collStart Rill.none 8 9, 1) ∧
  decodeWords false 0x074501C3 none = .ok (.flagAdd Rill.none false 5 0 7, 1) ∧
  decodeWords false 0x07853000 none = .ok (.evPop 5 6, 1) ∧
  decodeWords false 0x078952C3 none = .ok (.pktResend 9 10 11, 1) ∧
  decodeWords false 0x07C96340 none = .ok (.rateSet 9 12 13, 1) ∧
  decodeWords false 0x00000000 none = .error .reservedMajor ∧
  decodeWords false 0x0C000000 none = .error .literalRefused

/-- Decoding what an instruction encodes to gives the instruction back, with every operand at every value that its field
admits, and leaves the bytes after it: in the EP for the words that exist there, in the AP and the Sluice cores for the
words without E (02_encoding.md R25 to R31). -/
def Obligations.RoundTrip : Prop :=
  ∀ ep i rest, i.wf = true → i.hasWord = true → (ep = true → i.isLiteral = false) → (ep = false → i.endsBundle = false) →
    decode ep (encode i ++ rest) = .ok (i, rest)

/-- A word has one meaning: what it decodes to is well formed and encodes to that very word, so that no set bit of it is
passed over (02_encoding.md R27, R28, R46). -/
def Obligations.WordsReadBack : Prop :=
  ∀ w i, w < 4294967296 → decodeWord w = .ok i → encodeWords i = [w] ∧ i.wf = true

/-- Every step that goes on keeps the memory's canonical form: addresses strictly rising, and none listed with the byte that
an unlisted one reads as. -/
def Obligations.MemoryCanonical : Prop :=
  ∀ s t, MemoryOk s → step s = .next t → MemoryOk t

/-- What device reset leaves: memory in its canonical form with every byte 0 (the value is the model's choice, log entry 3),
CYCLE 0, device status OK with no core fenced, no queue enabled, every model slot EMPTY, no node, every counter 0, every
range register invalid, and no stream that runs. -/
def Obligations.ResetState : Prop :=
  MemoryOk State.reset ∧ (∀ pa, State.reset.rawByte pa = 0) ∧
  State.reset.cycle = 0 ∧ State.reset.hstate = 0 ∧ State.reset.fencedCores = [] ∧ State.reset.fencedPorts = [] ∧
  (∀ q, (State.reset.queueAt q).w0.getLsbD 63 = false) ∧
  (∀ n, (State.reset.slotAt n).state = 0) ∧ State.reset.nodes = [] ∧ State.reset.reports = [] ∧
  (∀ n, State.reset.errs.atD n 0 = 0) ∧ (∀ c n, State.reset.idleAt c n = 0) ∧
  (∀ p, (State.reset.portAt p).drop = 0 ∧ (State.reset.portAt p).reject = 0 ∧ (State.reset.portAt p).dup = 0 ∧
    (State.reset.portAt p).late = 0) ∧
  (∀ c, (State.reset.ctxAt c).grants = [] ∧ (State.reset.ctxAt c).ranges = []) ∧
  (∀ a, State.reset.streamOf a = none)

end
end

