-- ==== Sys2Proof/Laws/Bits.lean ====
section
/-! SUPPORT. Immediates as bit vectors: a field sign-extended by value is the field sign-extended as bits. -/

namespace Sys2Proof.Machine

theorem sextZ_eq (n v : Nat) (hn : 0 < n) (h : v < 2 ^ n) : sextZ n v = (BitVec.ofNat n v).toInt := by
  have hp : 2 ^ n = 2 * 2 ^ (n - 1) := by
    rw [← Nat.pow_succ']
    congr 1
    omega
  rw [BitVec.toInt_eq_toNat_cond, BitVec.toNat_ofNat, Nat.mod_eq_of_lt h, sextZ]
  split <;> split <;> first | rfl | omega

theorem sext_eq (n v : Nat) (hn : 0 < n) (h : v < 2 ^ n) : sext n v = (BitVec.ofNat n v).signExtend 64 := by
  rw [sext, sextZ_eq n v hn h]
  rfl

end Sys2Proof.Machine
end

