-- ==== Sys2Proof/Laws/Encoding.lean ====
section
/-! SUPPORT. Reading a word back: the bytes of a word, the rill bits and E of a word as numbers, and one lemma per major that
takes `decodeWord` to the decoder of the major. Cite these and read each field by `omega` (`simp only [fld]; omega`); unfolding
`decodeWord` in a goal about a sum of fields is slow to check. -/

namespace Sys2Proof

open Machine

theorem takeWord_wordBytes (w : Nat) (h : w < 4294967296) (rest : List Byte) :
    takeWord (wordBytes w ++ rest) = some (w, rest) := by
  simp [wordBytes, takeWord]
  omega

/-- Rill bits and bit 27 as numbers below 2, with their places in the word. -/
theorem bits_as_numbers (q : Rill) (e : Bool) : ∃ x y z u v : Nat, x < 2 ∧ y < 2 ∧ z < 2 ∧ u < 2 ∧ v < 2 ∧
    q = ⟨x == 1, y == 1, z == 1, u == 1⟩ ∧ e = (v == 1) ∧
    q.bits = x * 2147483648 + y * 1073741824 + z * 536870912 + u * 268435456 ∧ eBit e = v * 134217728 := by
  obtain ⟨a, b, c, d⟩ := q
  refine ⟨if a then 1 else 0, if b then 1 else 0, if c then 1 else 0, if d then 1 else 0, if e then 1 else 0, ?_⟩
  cases a <;> cases b <;> cases c <;> cases d <;> cases e <;> simp [Rill.bits, eBit]

/-- What a decoder of one major answers. -/
def decoded (o : Option Instr) : Except DecodeError Instr :=
  match o with
  | some i => .ok i
  | none => .error .unassigned

theorem decodeWord_1 (w : Nat) (h : fld w 26 21 = 1) : decodeWord w = decoded (decode01 w) := by
  unfold decodeWord
  rw [h]
  rfl

theorem decodeWord_2 (w : Nat) (h : fld w 26 21 = 2) : decodeWord w = decoded (decode02 w) := by
  unfold decodeWord
  rw [h]
  rfl

theorem decodeWord_3 (w : Nat) (h : fld w 26 21 = 3) : decodeWord w = decoded (decode03 w) := by
  unfold decodeWord
  rw [h]
  rfl

theorem decodeWord_4 (w : Nat) (h : fld w 26 21 = 4) : decodeWord w = decoded (decode04 w) := by
  unfold decodeWord
  rw [h]
  rfl

theorem decodeWord_5 (w : Nat) (h : fld w 26 21 = 5) : decodeWord w = decoded (decode05 w) := by
  unfold decodeWord
  rw [h]
  rfl

theorem decodeWord_6 (w : Nat) (h : fld w 26 21 = 6) : decodeWord w = decoded (decode06 w) := by
  unfold decodeWord
  rw [h]
  rfl

theorem decodeWord_7 (w : Nat) (h : fld w 26 21 = 7) : decodeWord w = decoded (decode07 w) := by
  unfold decodeWord
  rw [h]
  rfl

theorem decodeWord_8 (w : Nat) (h : fld w 26 21 = 8) : decodeWord w = decoded (decode08 w) := by
  unfold decodeWord
  rw [h]
  rfl

theorem decodeWord_9 (w : Nat) (h : fld w 26 21 = 9) : decodeWord w = decoded (decode09 w) := by
  unfold decodeWord
  rw [h]
  rfl

theorem decodeWord_10 (w : Nat) (h : fld w 26 21 = 10) : decodeWord w = decoded (decode0A w) := by
  unfold decodeWord
  rw [h]
  rfl

theorem decodeWord_11 (w : Nat) (h : fld w 26 21 = 11) : decodeWord w = decoded (decode0B w) := by
  unfold decodeWord
  rw [h]
  rfl

theorem decodeWord_12 (w : Nat) (h : fld w 26 21 = 12) : decodeWord w = decoded (decode0C w) := by
  unfold decodeWord
  rw [h]
  rfl

theorem decodeWord_13 (w : Nat) (h : fld w 26 21 = 13) : decodeWord w = decoded (decode0D w) := by
  unfold decodeWord
  rw [h]
  rfl

theorem decodeWord_14 (w : Nat) (h : fld w 26 21 = 14) : decodeWord w = decoded (decode0E w) := by
  unfold decodeWord
  rw [h]
  rfl

theorem decodeWord_15 (w : Nat) (h : fld w 26 21 = 15) : decodeWord w = decoded (decode0F w) := by
  unfold decodeWord
  rw [h]
  rfl

theorem decodeWord_16 (w : Nat) (h : fld w 26 21 = 16) : decodeWord w = decoded (decode10 w) := by
  unfold decodeWord
  rw [h]
  rfl

theorem decodeWord_17 (w : Nat) (h : fld w 26 21 = 17) : decodeWord w = decoded (decode11 w) := by
  unfold decodeWord
  rw [h]
  rfl

theorem decodeWord_18 (w : Nat) (h : fld w 26 21 = 18) : decodeWord w = decoded (decode12 w) := by
  unfold decodeWord
  rw [h]
  rfl

theorem decodeWord_24 (w : Nat) (h : fld w 26 21 = 24) : decodeWord w = decoded (decode18 w) := by
  unfold decodeWord
  rw [h]
  rfl

theorem decodeWord_25 (w : Nat) (h : fld w 26 21 = 25) : decodeWord w = decoded (decode19 w) := by
  unfold decodeWord
  rw [h]
  rfl

theorem decodeWord_26 (w : Nat) (h : fld w 26 21 = 26) : decodeWord w = decoded (decode1A w) := by
  unfold decodeWord
  rw [h]
  rfl

theorem decodeWord_27 (w : Nat) (h : fld w 26 21 = 27) : decodeWord w = decoded (decode1B w) := by
  unfold decodeWord
  rw [h]
  rfl

theorem decodeWord_32 (w : Nat) (h : fld w 26 21 = 32) : decodeWord w = decoded (decode20 w) := by
  unfold decodeWord
  rw [h]
  rfl

theorem decodeWord_33 (w : Nat) (h : fld w 26 21 = 33) : decodeWord w = decoded (decode20 w) := by
  unfold decodeWord
  rw [h]
  rfl

theorem decodeWord_34 (w : Nat) (h : fld w 26 21 = 34) : decodeWord w = decoded (decode20 w) := by
  unfold decodeWord
  rw [h]
  rfl

theorem decodeWord_35 (w : Nat) (h : fld w 26 21 = 35) : decodeWord w = decoded (decode20 w) := by
  unfold decodeWord
  rw [h]
  rfl

theorem decodeWord_36 (w : Nat) (h : fld w 26 21 = 36) : decodeWord w = decoded (decode24 w) := by
  unfold decodeWord
  rw [h]
  rfl

theorem decodeWord_37 (w : Nat) (h : fld w 26 21 = 37) : decodeWord w = decoded (decode25 w) := by
  unfold decodeWord
  rw [h]
  rfl

theorem decodeWord_38 (w : Nat) (h : fld w 26 21 = 38) : decodeWord w = decoded (decode26 w) := by
  unfold decodeWord
  rw [h]
  rfl

theorem decodeWord_39 (w : Nat) (h : fld w 26 21 = 39) : decodeWord w = decoded (decode27 w) := by
  unfold decodeWord
  rw [h]
  rfl

theorem decodeWord_40 (w : Nat) (h : fld w 26 21 = 40) : decodeWord w = decoded (decode28 w) := by
  unfold decodeWord
  rw [h]
  rfl

theorem decodeWord_41 (w : Nat) (h : fld w 26 21 = 41) : decodeWord w = decoded (decode29 w) := by
  unfold decodeWord
  rw [h]
  rfl

theorem decodeWord_42 (w : Nat) (h : fld w 26 21 = 42) : decodeWord w = decoded (decode2A w) := by
  unfold decodeWord
  rw [h]
  rfl

theorem decodeWord_48 (w : Nat) (h : fld w 26 21 = 48) : decodeWord w = decoded (decode30 w) := by
  unfold decodeWord
  rw [h]
  rfl

theorem decodeWord_52 (w : Nat) (h : fld w 26 21 = 52) : decodeWord w = decoded (decode34 w) := by
  unfold decodeWord
  rw [h]
  rfl

theorem decodeWord_56 (w : Nat) (h : fld w 26 21 = 56) : decodeWord w = decoded (decode38 w) := by
  unfold decodeWord
  rw [h]
  rfl

theorem decodeWord_57 (w : Nat) (h : fld w 26 21 = 57) : decodeWord w = decoded (decode39 w) := by
  unfold decodeWord
  rw [h]
  rfl

theorem decodeWord_58 (w : Nat) (h : fld w 26 21 = 58) : decodeWord w = decoded (decode3A w) := by
  unfold decodeWord
  rw [h]
  rfl

theorem decodeWord_60 (w : Nat) (h : fld w 26 21 = 60) : decodeWord w = decoded (decode3C w) := by
  unfold decodeWord
  rw [h]
  rfl

theorem decodeWord_61 (w : Nat) (h : fld w 26 21 = 61) : decodeWord w = decoded (decode3D w) := by
  unfold decodeWord
  rw [h]
  rfl

theorem decodeWord_62 (w : Nat) (h : fld w 26 21 = 62) : decodeWord w = decoded (decode3E w) := by
  unfold decodeWord
  rw [h]
  rfl

end Sys2Proof
end

