-- ==== Sys2Proof/Laws/State.lean ====
section
/-! SUPPORT. Each update of a part of the state leaves every other field as it was: one lemma per field and update. -/

namespace Sys2Proof.Machine

/-! ## Logical core `k` is replaced. -/

@[simp] theorem State.setLc_mem (s : State) (k : Nat) (l : LCore) : (s.setLc k l).mem = s.mem := rfl
@[simp] theorem State.setLc_cycle (s : State) (k : Nat) (l : LCore) : (s.setLc k l).cycle = s.cycle := rfl
@[simp] theorem State.setLc_ticks (s : State) (k : Nat) (l : LCore) : (s.setLc k l).ticks = s.ticks := rfl
@[simp] theorem State.setLc_cores (s : State) (k : Nat) (l : LCore) : (s.setLc k l).cores = s.cores := rfl
@[simp] theorem State.setLc_ctxs (s : State) (k : Nat) (l : LCore) : (s.setLc k l).ctxs = s.ctxs := rfl
@[simp] theorem State.setLc_sluices (s : State) (k : Nat) (l : LCore) : (s.setLc k l).sluices = s.sluices := rfl
@[simp] theorem State.setLc_multicasts (s : State) (k : Nat) (l : LCore) : (s.setLc k l).multicasts = s.multicasts := rfl
@[simp] theorem State.setLc_mcWeak (s : State) (k : Nat) (l : LCore) : (s.setLc k l).mcWeak = s.mcWeak := rfl
@[simp] theorem State.setLc_l2 (s : State) (k : Nat) (l : LCore) : (s.setLc k l).l2 = s.l2 := rfl
@[simp] theorem State.setLc_formats (s : State) (k : Nat) (l : LCore) : (s.setLc k l).formats = s.formats := rfl
@[simp] theorem State.setLc_carveouts (s : State) (k : Nat) (l : LCore) : (s.setLc k l).carveouts = s.carveouts := rfl
@[simp] theorem State.setLc_errs (s : State) (k : Nat) (l : LCore) : (s.setLc k l).errs = s.errs := rfl
@[simp] theorem State.setLc_slots (s : State) (k : Nat) (l : LCore) : (s.setLc k l).slots = s.slots := rfl
@[simp] theorem State.setLc_nodes (s : State) (k : Nat) (l : LCore) : (s.setLc k l).nodes = s.nodes := rfl
@[simp] theorem State.setLc_nodeOrder (s : State) (k : Nat) (l : LCore) : (s.setLc k l).nodeOrder = s.nodeOrder := rfl
@[simp] theorem State.setLc_retired (s : State) (k : Nat) (l : LCore) : (s.setLc k l).retired = s.retired := rfl
@[simp] theorem State.setLc_seqs (s : State) (k : Nat) (l : LCore) : (s.setLc k l).seqs = s.seqs := rfl
@[simp] theorem State.setLc_queues (s : State) (k : Nat) (l : LCore) : (s.setLc k l).queues = s.queues := rfl
@[simp] theorem State.setLc_wakeTurn (s : State) (k : Nat) (l : LCore) : (s.setLc k l).wakeTurn = s.wakeTurn := rfl
@[simp] theorem State.setLc_handlers (s : State) (k : Nat) (l : LCore) : (s.setLc k l).handlers = s.handlers := rfl
@[simp] theorem State.setLc_control (s : State) (k : Nat) (l : LCore) : (s.setLc k l).control = s.control := rfl
@[simp] theorem State.setLc_slotbox (s : State) (k : Nat) (l : LCore) : (s.setLc k l).slotbox = s.slotbox := rfl
@[simp] theorem State.setLc_hw2base (s : State) (k : Nat) (l : LCore) : (s.setLc k l).hw2base = s.hw2base := rfl
@[simp] theorem State.setLc_msix (s : State) (k : Nat) (l : LCore) : (s.setLc k l).msix = s.msix := rfl
@[simp] theorem State.setLc_ports (s : State) (k : Nat) (l : LCore) : (s.setLc k l).ports = s.ports := rfl
@[simp] theorem State.setLc_sent (s : State) (k : Nat) (l : LCore) : (s.setLc k l).sent = s.sent := rfl
@[simp] theorem State.setLc_hstate (s : State) (k : Nat) (l : LCore) : (s.setLc k l).hstate = s.hstate := rfl
@[simp] theorem State.setLc_fencedCores (s : State) (k : Nat) (l : LCore) : (s.setLc k l).fencedCores = s.fencedCores := rfl
@[simp] theorem State.setLc_fencedPorts (s : State) (k : Nat) (l : LCore) : (s.setLc k l).fencedPorts = s.fencedPorts := rfl
@[simp] theorem State.setLc_fencedChannels (s : State) (k : Nat) (l : LCore) : (s.setLc k l).fencedChannels = s.fencedChannels := rfl
@[simp] theorem State.setLc_softErrors (s : State) (k : Nat) (l : LCore) : (s.setLc k l).softErrors = s.softErrors := rfl
@[simp] theorem State.setLc_boots (s : State) (k : Nat) (l : LCore) : (s.setLc k l).boots = s.boots := rfl
@[simp] theorem State.setLc_spdm (s : State) (k : Nat) (l : LCore) : (s.setLc k l).spdm = s.spdm := rfl
@[simp] theorem State.setLc_frames (s : State) (k : Nat) (l : LCore) : (s.setLc k l).frames = s.frames := rfl
@[simp] theorem State.setLc_reports (s : State) (k : Nat) (l : LCore) : (s.setLc k l).reports = s.reports := rfl
@[simp] theorem State.setLc_cur (s : State) (k : Nat) (l : LCore) : (s.setLc k l).cur = s.cur := rfl
@[simp] theorem State.setLc_agenda (s : State) (k : Nat) (l : LCore) : (s.setLc k l).agenda = s.agenda := rfl
@[simp] theorem State.setLc_turn (s : State) (k : Nat) (l : LCore) : (s.setLc k l).turn = s.turn := rfl
@[simp] theorem State.setLc_free (s : State) (k : Nat) (l : LCore) : (s.setLc k l).free = s.free := rfl

/-! ## Physical core `c` is replaced. -/

@[simp] theorem State.setCore_mem (s : State) (c : Nat) (p : PCore) : (s.setCore c p).mem = s.mem := rfl
@[simp] theorem State.setCore_cycle (s : State) (c : Nat) (p : PCore) : (s.setCore c p).cycle = s.cycle := rfl
@[simp] theorem State.setCore_ticks (s : State) (c : Nat) (p : PCore) : (s.setCore c p).ticks = s.ticks := rfl
@[simp] theorem State.setCore_lcores (s : State) (c : Nat) (p : PCore) : (s.setCore c p).lcores = s.lcores := rfl
@[simp] theorem State.setCore_ctxs (s : State) (c : Nat) (p : PCore) : (s.setCore c p).ctxs = s.ctxs := rfl
@[simp] theorem State.setCore_sluices (s : State) (c : Nat) (p : PCore) : (s.setCore c p).sluices = s.sluices := rfl
@[simp] theorem State.setCore_multicasts (s : State) (c : Nat) (p : PCore) : (s.setCore c p).multicasts = s.multicasts := rfl
@[simp] theorem State.setCore_mcWeak (s : State) (c : Nat) (p : PCore) : (s.setCore c p).mcWeak = s.mcWeak := rfl
@[simp] theorem State.setCore_l2 (s : State) (c : Nat) (p : PCore) : (s.setCore c p).l2 = s.l2 := rfl
@[simp] theorem State.setCore_formats (s : State) (c : Nat) (p : PCore) : (s.setCore c p).formats = s.formats := rfl
@[simp] theorem State.setCore_carveouts (s : State) (c : Nat) (p : PCore) : (s.setCore c p).carveouts = s.carveouts := rfl
@[simp] theorem State.setCore_errs (s : State) (c : Nat) (p : PCore) : (s.setCore c p).errs = s.errs := rfl
@[simp] theorem State.setCore_slots (s : State) (c : Nat) (p : PCore) : (s.setCore c p).slots = s.slots := rfl
@[simp] theorem State.setCore_nodes (s : State) (c : Nat) (p : PCore) : (s.setCore c p).nodes = s.nodes := rfl
@[simp] theorem State.setCore_nodeOrder (s : State) (c : Nat) (p : PCore) : (s.setCore c p).nodeOrder = s.nodeOrder := rfl
@[simp] theorem State.setCore_retired (s : State) (c : Nat) (p : PCore) : (s.setCore c p).retired = s.retired := rfl
@[simp] theorem State.setCore_seqs (s : State) (c : Nat) (p : PCore) : (s.setCore c p).seqs = s.seqs := rfl
@[simp] theorem State.setCore_queues (s : State) (c : Nat) (p : PCore) : (s.setCore c p).queues = s.queues := rfl
@[simp] theorem State.setCore_wakeTurn (s : State) (c : Nat) (p : PCore) : (s.setCore c p).wakeTurn = s.wakeTurn := rfl
@[simp] theorem State.setCore_handlers (s : State) (c : Nat) (p : PCore) : (s.setCore c p).handlers = s.handlers := rfl
@[simp] theorem State.setCore_control (s : State) (c : Nat) (p : PCore) : (s.setCore c p).control = s.control := rfl
@[simp] theorem State.setCore_slotbox (s : State) (c : Nat) (p : PCore) : (s.setCore c p).slotbox = s.slotbox := rfl
@[simp] theorem State.setCore_hw2base (s : State) (c : Nat) (p : PCore) : (s.setCore c p).hw2base = s.hw2base := rfl
@[simp] theorem State.setCore_msix (s : State) (c : Nat) (p : PCore) : (s.setCore c p).msix = s.msix := rfl
@[simp] theorem State.setCore_ports (s : State) (c : Nat) (p : PCore) : (s.setCore c p).ports = s.ports := rfl
@[simp] theorem State.setCore_sent (s : State) (c : Nat) (p : PCore) : (s.setCore c p).sent = s.sent := rfl
@[simp] theorem State.setCore_hstate (s : State) (c : Nat) (p : PCore) : (s.setCore c p).hstate = s.hstate := rfl
@[simp] theorem State.setCore_fencedCores (s : State) (c : Nat) (p : PCore) : (s.setCore c p).fencedCores = s.fencedCores := rfl
@[simp] theorem State.setCore_fencedPorts (s : State) (c : Nat) (p : PCore) : (s.setCore c p).fencedPorts = s.fencedPorts := rfl
@[simp] theorem State.setCore_fencedChannels (s : State) (c : Nat) (p : PCore) : (s.setCore c p).fencedChannels = s.fencedChannels := rfl
@[simp] theorem State.setCore_softErrors (s : State) (c : Nat) (p : PCore) : (s.setCore c p).softErrors = s.softErrors := rfl
@[simp] theorem State.setCore_boots (s : State) (c : Nat) (p : PCore) : (s.setCore c p).boots = s.boots := rfl
@[simp] theorem State.setCore_spdm (s : State) (c : Nat) (p : PCore) : (s.setCore c p).spdm = s.spdm := rfl
@[simp] theorem State.setCore_frames (s : State) (c : Nat) (p : PCore) : (s.setCore c p).frames = s.frames := rfl
@[simp] theorem State.setCore_reports (s : State) (c : Nat) (p : PCore) : (s.setCore c p).reports = s.reports := rfl
@[simp] theorem State.setCore_cur (s : State) (c : Nat) (p : PCore) : (s.setCore c p).cur = s.cur := rfl
@[simp] theorem State.setCore_agenda (s : State) (c : Nat) (p : PCore) : (s.setCore c p).agenda = s.agenda := rfl
@[simp] theorem State.setCore_turn (s : State) (c : Nat) (p : PCore) : (s.setCore c p).turn = s.turn := rfl
@[simp] theorem State.setCore_free (s : State) (c : Nat) (p : PCore) : (s.setCore c p).free = s.free := rfl

/-! ## Sluice core `n` is replaced. -/

@[simp] theorem State.setSl_mem (s : State) (n : Nat) (x : Sluice) : (s.setSl n x).mem = s.mem := rfl
@[simp] theorem State.setSl_cycle (s : State) (n : Nat) (x : Sluice) : (s.setSl n x).cycle = s.cycle := rfl
@[simp] theorem State.setSl_ticks (s : State) (n : Nat) (x : Sluice) : (s.setSl n x).ticks = s.ticks := rfl
@[simp] theorem State.setSl_cores (s : State) (n : Nat) (x : Sluice) : (s.setSl n x).cores = s.cores := rfl
@[simp] theorem State.setSl_lcores (s : State) (n : Nat) (x : Sluice) : (s.setSl n x).lcores = s.lcores := rfl
@[simp] theorem State.setSl_ctxs (s : State) (n : Nat) (x : Sluice) : (s.setSl n x).ctxs = s.ctxs := rfl
@[simp] theorem State.setSl_multicasts (s : State) (n : Nat) (x : Sluice) : (s.setSl n x).multicasts = s.multicasts := rfl
@[simp] theorem State.setSl_mcWeak (s : State) (n : Nat) (x : Sluice) : (s.setSl n x).mcWeak = s.mcWeak := rfl
@[simp] theorem State.setSl_l2 (s : State) (n : Nat) (x : Sluice) : (s.setSl n x).l2 = s.l2 := rfl
@[simp] theorem State.setSl_formats (s : State) (n : Nat) (x : Sluice) : (s.setSl n x).formats = s.formats := rfl
@[simp] theorem State.setSl_carveouts (s : State) (n : Nat) (x : Sluice) : (s.setSl n x).carveouts = s.carveouts := rfl
@[simp] theorem State.setSl_errs (s : State) (n : Nat) (x : Sluice) : (s.setSl n x).errs = s.errs := rfl
@[simp] theorem State.setSl_slots (s : State) (n : Nat) (x : Sluice) : (s.setSl n x).slots = s.slots := rfl
@[simp] theorem State.setSl_nodes (s : State) (n : Nat) (x : Sluice) : (s.setSl n x).nodes = s.nodes := rfl
@[simp] theorem State.setSl_nodeOrder (s : State) (n : Nat) (x : Sluice) : (s.setSl n x).nodeOrder = s.nodeOrder := rfl
@[simp] theorem State.setSl_retired (s : State) (n : Nat) (x : Sluice) : (s.setSl n x).retired = s.retired := rfl
@[simp] theorem State.setSl_seqs (s : State) (n : Nat) (x : Sluice) : (s.setSl n x).seqs = s.seqs := rfl
@[simp] theorem State.setSl_queues (s : State) (n : Nat) (x : Sluice) : (s.setSl n x).queues = s.queues := rfl
@[simp] theorem State.setSl_wakeTurn (s : State) (n : Nat) (x : Sluice) : (s.setSl n x).wakeTurn = s.wakeTurn := rfl
@[simp] theorem State.setSl_handlers (s : State) (n : Nat) (x : Sluice) : (s.setSl n x).handlers = s.handlers := rfl
@[simp] theorem State.setSl_control (s : State) (n : Nat) (x : Sluice) : (s.setSl n x).control = s.control := rfl
@[simp] theorem State.setSl_slotbox (s : State) (n : Nat) (x : Sluice) : (s.setSl n x).slotbox = s.slotbox := rfl
@[simp] theorem State.setSl_hw2base (s : State) (n : Nat) (x : Sluice) : (s.setSl n x).hw2base = s.hw2base := rfl
@[simp] theorem State.setSl_msix (s : State) (n : Nat) (x : Sluice) : (s.setSl n x).msix = s.msix := rfl
@[simp] theorem State.setSl_ports (s : State) (n : Nat) (x : Sluice) : (s.setSl n x).ports = s.ports := rfl
@[simp] theorem State.setSl_sent (s : State) (n : Nat) (x : Sluice) : (s.setSl n x).sent = s.sent := rfl
@[simp] theorem State.setSl_hstate (s : State) (n : Nat) (x : Sluice) : (s.setSl n x).hstate = s.hstate := rfl
@[simp] theorem State.setSl_fencedCores (s : State) (n : Nat) (x : Sluice) : (s.setSl n x).fencedCores = s.fencedCores := rfl
@[simp] theorem State.setSl_fencedPorts (s : State) (n : Nat) (x : Sluice) : (s.setSl n x).fencedPorts = s.fencedPorts := rfl
@[simp] theorem State.setSl_fencedChannels (s : State) (n : Nat) (x : Sluice) : (s.setSl n x).fencedChannels = s.fencedChannels := rfl
@[simp] theorem State.setSl_softErrors (s : State) (n : Nat) (x : Sluice) : (s.setSl n x).softErrors = s.softErrors := rfl
@[simp] theorem State.setSl_boots (s : State) (n : Nat) (x : Sluice) : (s.setSl n x).boots = s.boots := rfl
@[simp] theorem State.setSl_spdm (s : State) (n : Nat) (x : Sluice) : (s.setSl n x).spdm = s.spdm := rfl
@[simp] theorem State.setSl_frames (s : State) (n : Nat) (x : Sluice) : (s.setSl n x).frames = s.frames := rfl
@[simp] theorem State.setSl_reports (s : State) (n : Nat) (x : Sluice) : (s.setSl n x).reports = s.reports := rfl
@[simp] theorem State.setSl_cur (s : State) (n : Nat) (x : Sluice) : (s.setSl n x).cur = s.cur := rfl
@[simp] theorem State.setSl_agenda (s : State) (n : Nat) (x : Sluice) : (s.setSl n x).agenda = s.agenda := rfl
@[simp] theorem State.setSl_turn (s : State) (n : Nat) (x : Sluice) : (s.setSl n x).turn = s.turn := rfl
@[simp] theorem State.setSl_free (s : State) (n : Nat) (x : Sluice) : (s.setSl n x).free = s.free := rfl

/-! ## Context `c` is replaced. -/

@[simp] theorem State.setCtx_mem (s : State) (c : Nat) (x : Ctx) : (s.setCtx c x).mem = s.mem := rfl
@[simp] theorem State.setCtx_cycle (s : State) (c : Nat) (x : Ctx) : (s.setCtx c x).cycle = s.cycle := rfl
@[simp] theorem State.setCtx_ticks (s : State) (c : Nat) (x : Ctx) : (s.setCtx c x).ticks = s.ticks := rfl
@[simp] theorem State.setCtx_cores (s : State) (c : Nat) (x : Ctx) : (s.setCtx c x).cores = s.cores := rfl
@[simp] theorem State.setCtx_lcores (s : State) (c : Nat) (x : Ctx) : (s.setCtx c x).lcores = s.lcores := rfl
@[simp] theorem State.setCtx_sluices (s : State) (c : Nat) (x : Ctx) : (s.setCtx c x).sluices = s.sluices := rfl
@[simp] theorem State.setCtx_multicasts (s : State) (c : Nat) (x : Ctx) : (s.setCtx c x).multicasts = s.multicasts := rfl
@[simp] theorem State.setCtx_mcWeak (s : State) (c : Nat) (x : Ctx) : (s.setCtx c x).mcWeak = s.mcWeak := rfl
@[simp] theorem State.setCtx_l2 (s : State) (c : Nat) (x : Ctx) : (s.setCtx c x).l2 = s.l2 := rfl
@[simp] theorem State.setCtx_formats (s : State) (c : Nat) (x : Ctx) : (s.setCtx c x).formats = s.formats := rfl
@[simp] theorem State.setCtx_carveouts (s : State) (c : Nat) (x : Ctx) : (s.setCtx c x).carveouts = s.carveouts := rfl
@[simp] theorem State.setCtx_errs (s : State) (c : Nat) (x : Ctx) : (s.setCtx c x).errs = s.errs := rfl
@[simp] theorem State.setCtx_slots (s : State) (c : Nat) (x : Ctx) : (s.setCtx c x).slots = s.slots := rfl
@[simp] theorem State.setCtx_nodes (s : State) (c : Nat) (x : Ctx) : (s.setCtx c x).nodes = s.nodes := rfl
@[simp] theorem State.setCtx_nodeOrder (s : State) (c : Nat) (x : Ctx) : (s.setCtx c x).nodeOrder = s.nodeOrder := rfl
@[simp] theorem State.setCtx_retired (s : State) (c : Nat) (x : Ctx) : (s.setCtx c x).retired = s.retired := rfl
@[simp] theorem State.setCtx_seqs (s : State) (c : Nat) (x : Ctx) : (s.setCtx c x).seqs = s.seqs := rfl
@[simp] theorem State.setCtx_queues (s : State) (c : Nat) (x : Ctx) : (s.setCtx c x).queues = s.queues := rfl
@[simp] theorem State.setCtx_wakeTurn (s : State) (c : Nat) (x : Ctx) : (s.setCtx c x).wakeTurn = s.wakeTurn := rfl
@[simp] theorem State.setCtx_handlers (s : State) (c : Nat) (x : Ctx) : (s.setCtx c x).handlers = s.handlers := rfl
@[simp] theorem State.setCtx_control (s : State) (c : Nat) (x : Ctx) : (s.setCtx c x).control = s.control := rfl
@[simp] theorem State.setCtx_slotbox (s : State) (c : Nat) (x : Ctx) : (s.setCtx c x).slotbox = s.slotbox := rfl
@[simp] theorem State.setCtx_hw2base (s : State) (c : Nat) (x : Ctx) : (s.setCtx c x).hw2base = s.hw2base := rfl
@[simp] theorem State.setCtx_msix (s : State) (c : Nat) (x : Ctx) : (s.setCtx c x).msix = s.msix := rfl
@[simp] theorem State.setCtx_ports (s : State) (c : Nat) (x : Ctx) : (s.setCtx c x).ports = s.ports := rfl
@[simp] theorem State.setCtx_sent (s : State) (c : Nat) (x : Ctx) : (s.setCtx c x).sent = s.sent := rfl
@[simp] theorem State.setCtx_hstate (s : State) (c : Nat) (x : Ctx) : (s.setCtx c x).hstate = s.hstate := rfl
@[simp] theorem State.setCtx_fencedCores (s : State) (c : Nat) (x : Ctx) : (s.setCtx c x).fencedCores = s.fencedCores := rfl
@[simp] theorem State.setCtx_fencedPorts (s : State) (c : Nat) (x : Ctx) : (s.setCtx c x).fencedPorts = s.fencedPorts := rfl
@[simp] theorem State.setCtx_fencedChannels (s : State) (c : Nat) (x : Ctx) : (s.setCtx c x).fencedChannels = s.fencedChannels := rfl
@[simp] theorem State.setCtx_softErrors (s : State) (c : Nat) (x : Ctx) : (s.setCtx c x).softErrors = s.softErrors := rfl
@[simp] theorem State.setCtx_boots (s : State) (c : Nat) (x : Ctx) : (s.setCtx c x).boots = s.boots := rfl
@[simp] theorem State.setCtx_spdm (s : State) (c : Nat) (x : Ctx) : (s.setCtx c x).spdm = s.spdm := rfl
@[simp] theorem State.setCtx_frames (s : State) (c : Nat) (x : Ctx) : (s.setCtx c x).frames = s.frames := rfl
@[simp] theorem State.setCtx_reports (s : State) (c : Nat) (x : Ctx) : (s.setCtx c x).reports = s.reports := rfl
@[simp] theorem State.setCtx_cur (s : State) (c : Nat) (x : Ctx) : (s.setCtx c x).cur = s.cur := rfl
@[simp] theorem State.setCtx_agenda (s : State) (c : Nat) (x : Ctx) : (s.setCtx c x).agenda = s.agenda := rfl
@[simp] theorem State.setCtx_turn (s : State) (c : Nat) (x : Ctx) : (s.setCtx c x).turn = s.turn := rfl
@[simp] theorem State.setCtx_free (s : State) (c : Nat) (x : Ctx) : (s.setCtx c x).free = s.free := rfl

/-! ## A report is added. -/

@[simp] theorem State.report_mem (s : State) (r : Report) : (s.report r).mem = s.mem := rfl
@[simp] theorem State.report_cycle (s : State) (r : Report) : (s.report r).cycle = s.cycle := rfl
@[simp] theorem State.report_ticks (s : State) (r : Report) : (s.report r).ticks = s.ticks := rfl
@[simp] theorem State.report_cores (s : State) (r : Report) : (s.report r).cores = s.cores := rfl
@[simp] theorem State.report_lcores (s : State) (r : Report) : (s.report r).lcores = s.lcores := rfl
@[simp] theorem State.report_ctxs (s : State) (r : Report) : (s.report r).ctxs = s.ctxs := rfl
@[simp] theorem State.report_sluices (s : State) (r : Report) : (s.report r).sluices = s.sluices := rfl
@[simp] theorem State.report_multicasts (s : State) (r : Report) : (s.report r).multicasts = s.multicasts := rfl
@[simp] theorem State.report_mcWeak (s : State) (r : Report) : (s.report r).mcWeak = s.mcWeak := rfl
@[simp] theorem State.report_l2 (s : State) (r : Report) : (s.report r).l2 = s.l2 := rfl
@[simp] theorem State.report_formats (s : State) (r : Report) : (s.report r).formats = s.formats := rfl
@[simp] theorem State.report_carveouts (s : State) (r : Report) : (s.report r).carveouts = s.carveouts := rfl
@[simp] theorem State.report_errs (s : State) (r : Report) : (s.report r).errs = s.errs := rfl
@[simp] theorem State.report_slots (s : State) (r : Report) : (s.report r).slots = s.slots := rfl
@[simp] theorem State.report_nodes (s : State) (r : Report) : (s.report r).nodes = s.nodes := rfl
@[simp] theorem State.report_nodeOrder (s : State) (r : Report) : (s.report r).nodeOrder = s.nodeOrder := rfl
@[simp] theorem State.report_retired (s : State) (r : Report) : (s.report r).retired = s.retired := rfl
@[simp] theorem State.report_seqs (s : State) (r : Report) : (s.report r).seqs = s.seqs := rfl
@[simp] theorem State.report_queues (s : State) (r : Report) : (s.report r).queues = s.queues := rfl
@[simp] theorem State.report_wakeTurn (s : State) (r : Report) : (s.report r).wakeTurn = s.wakeTurn := rfl
@[simp] theorem State.report_handlers (s : State) (r : Report) : (s.report r).handlers = s.handlers := rfl
@[simp] theorem State.report_control (s : State) (r : Report) : (s.report r).control = s.control := rfl
@[simp] theorem State.report_slotbox (s : State) (r : Report) : (s.report r).slotbox = s.slotbox := rfl
@[simp] theorem State.report_hw2base (s : State) (r : Report) : (s.report r).hw2base = s.hw2base := rfl
@[simp] theorem State.report_msix (s : State) (r : Report) : (s.report r).msix = s.msix := rfl
@[simp] theorem State.report_ports (s : State) (r : Report) : (s.report r).ports = s.ports := rfl
@[simp] theorem State.report_sent (s : State) (r : Report) : (s.report r).sent = s.sent := rfl
@[simp] theorem State.report_hstate (s : State) (r : Report) : (s.report r).hstate = s.hstate := rfl
@[simp] theorem State.report_fencedCores (s : State) (r : Report) : (s.report r).fencedCores = s.fencedCores := rfl
@[simp] theorem State.report_fencedPorts (s : State) (r : Report) : (s.report r).fencedPorts = s.fencedPorts := rfl
@[simp] theorem State.report_fencedChannels (s : State) (r : Report) : (s.report r).fencedChannels = s.fencedChannels := rfl
@[simp] theorem State.report_softErrors (s : State) (r : Report) : (s.report r).softErrors = s.softErrors := rfl
@[simp] theorem State.report_boots (s : State) (r : Report) : (s.report r).boots = s.boots := rfl
@[simp] theorem State.report_spdm (s : State) (r : Report) : (s.report r).spdm = s.spdm := rfl
@[simp] theorem State.report_frames (s : State) (r : Report) : (s.report r).frames = s.frames := rfl
@[simp] theorem State.report_cur (s : State) (r : Report) : (s.report r).cur = s.cur := rfl
@[simp] theorem State.report_agenda (s : State) (r : Report) : (s.report r).agenda = s.agenda := rfl
@[simp] theorem State.report_turn (s : State) (r : Report) : (s.report r).turn = s.turn := rfl
@[simp] theorem State.report_free (s : State) (r : Report) : (s.report r).free = s.free := rfl

/-! ## The verdict is set. -/

@[simp] theorem State.verdict_mem (s : State) (v : Verdict) : (s.verdict v).mem = s.mem := rfl
@[simp] theorem State.verdict_cycle (s : State) (v : Verdict) : (s.verdict v).cycle = s.cycle := rfl
@[simp] theorem State.verdict_ticks (s : State) (v : Verdict) : (s.verdict v).ticks = s.ticks := rfl
@[simp] theorem State.verdict_cores (s : State) (v : Verdict) : (s.verdict v).cores = s.cores := rfl
@[simp] theorem State.verdict_lcores (s : State) (v : Verdict) : (s.verdict v).lcores = s.lcores := rfl
@[simp] theorem State.verdict_ctxs (s : State) (v : Verdict) : (s.verdict v).ctxs = s.ctxs := rfl
@[simp] theorem State.verdict_sluices (s : State) (v : Verdict) : (s.verdict v).sluices = s.sluices := rfl
@[simp] theorem State.verdict_multicasts (s : State) (v : Verdict) : (s.verdict v).multicasts = s.multicasts := rfl
@[simp] theorem State.verdict_mcWeak (s : State) (v : Verdict) : (s.verdict v).mcWeak = s.mcWeak := rfl
@[simp] theorem State.verdict_l2 (s : State) (v : Verdict) : (s.verdict v).l2 = s.l2 := rfl
@[simp] theorem State.verdict_formats (s : State) (v : Verdict) : (s.verdict v).formats = s.formats := rfl
@[simp] theorem State.verdict_carveouts (s : State) (v : Verdict) : (s.verdict v).carveouts = s.carveouts := rfl
@[simp] theorem State.verdict_errs (s : State) (v : Verdict) : (s.verdict v).errs = s.errs := rfl
@[simp] theorem State.verdict_slots (s : State) (v : Verdict) : (s.verdict v).slots = s.slots := rfl
@[simp] theorem State.verdict_nodes (s : State) (v : Verdict) : (s.verdict v).nodes = s.nodes := rfl
@[simp] theorem State.verdict_nodeOrder (s : State) (v : Verdict) : (s.verdict v).nodeOrder = s.nodeOrder := rfl
@[simp] theorem State.verdict_retired (s : State) (v : Verdict) : (s.verdict v).retired = s.retired := rfl
@[simp] theorem State.verdict_seqs (s : State) (v : Verdict) : (s.verdict v).seqs = s.seqs := rfl
@[simp] theorem State.verdict_queues (s : State) (v : Verdict) : (s.verdict v).queues = s.queues := rfl
@[simp] theorem State.verdict_wakeTurn (s : State) (v : Verdict) : (s.verdict v).wakeTurn = s.wakeTurn := rfl
@[simp] theorem State.verdict_handlers (s : State) (v : Verdict) : (s.verdict v).handlers = s.handlers := rfl
@[simp] theorem State.verdict_control (s : State) (v : Verdict) : (s.verdict v).control = s.control := rfl
@[simp] theorem State.verdict_slotbox (s : State) (v : Verdict) : (s.verdict v).slotbox = s.slotbox := rfl
@[simp] theorem State.verdict_hw2base (s : State) (v : Verdict) : (s.verdict v).hw2base = s.hw2base := rfl
@[simp] theorem State.verdict_msix (s : State) (v : Verdict) : (s.verdict v).msix = s.msix := rfl
@[simp] theorem State.verdict_ports (s : State) (v : Verdict) : (s.verdict v).ports = s.ports := rfl
@[simp] theorem State.verdict_sent (s : State) (v : Verdict) : (s.verdict v).sent = s.sent := rfl
@[simp] theorem State.verdict_hstate (s : State) (v : Verdict) : (s.verdict v).hstate = s.hstate := rfl
@[simp] theorem State.verdict_fencedCores (s : State) (v : Verdict) : (s.verdict v).fencedCores = s.fencedCores := rfl
@[simp] theorem State.verdict_fencedPorts (s : State) (v : Verdict) : (s.verdict v).fencedPorts = s.fencedPorts := rfl
@[simp] theorem State.verdict_fencedChannels (s : State) (v : Verdict) : (s.verdict v).fencedChannels = s.fencedChannels := rfl
@[simp] theorem State.verdict_softErrors (s : State) (v : Verdict) : (s.verdict v).softErrors = s.softErrors := rfl
@[simp] theorem State.verdict_boots (s : State) (v : Verdict) : (s.verdict v).boots = s.boots := rfl
@[simp] theorem State.verdict_spdm (s : State) (v : Verdict) : (s.verdict v).spdm = s.spdm := rfl
@[simp] theorem State.verdict_frames (s : State) (v : Verdict) : (s.verdict v).frames = s.frames := rfl
@[simp] theorem State.verdict_reports (s : State) (v : Verdict) : (s.verdict v).reports = s.reports := rfl
@[simp] theorem State.verdict_agenda (s : State) (v : Verdict) : (s.verdict v).agenda = s.agenda := rfl
@[simp] theorem State.verdict_turn (s : State) (v : Verdict) : (s.verdict v).turn = s.turn := rfl
@[simp] theorem State.verdict_free (s : State) (v : Verdict) : (s.verdict v).free = s.free := rfl

/-! ## A byte is stored. -/

@[simp] theorem State.setRaw_cycle (s : State) (pa : Nat) (b : Byte) : (s.setRaw pa b).cycle = s.cycle := rfl
@[simp] theorem State.setRaw_ticks (s : State) (pa : Nat) (b : Byte) : (s.setRaw pa b).ticks = s.ticks := rfl
@[simp] theorem State.setRaw_cores (s : State) (pa : Nat) (b : Byte) : (s.setRaw pa b).cores = s.cores := rfl
@[simp] theorem State.setRaw_lcores (s : State) (pa : Nat) (b : Byte) : (s.setRaw pa b).lcores = s.lcores := rfl
@[simp] theorem State.setRaw_ctxs (s : State) (pa : Nat) (b : Byte) : (s.setRaw pa b).ctxs = s.ctxs := rfl
@[simp] theorem State.setRaw_sluices (s : State) (pa : Nat) (b : Byte) : (s.setRaw pa b).sluices = s.sluices := rfl
@[simp] theorem State.setRaw_multicasts (s : State) (pa : Nat) (b : Byte) : (s.setRaw pa b).multicasts = s.multicasts := rfl
@[simp] theorem State.setRaw_mcWeak (s : State) (pa : Nat) (b : Byte) : (s.setRaw pa b).mcWeak = s.mcWeak := rfl
@[simp] theorem State.setRaw_l2 (s : State) (pa : Nat) (b : Byte) : (s.setRaw pa b).l2 = s.l2 := rfl
@[simp] theorem State.setRaw_formats (s : State) (pa : Nat) (b : Byte) : (s.setRaw pa b).formats = s.formats := rfl
@[simp] theorem State.setRaw_carveouts (s : State) (pa : Nat) (b : Byte) : (s.setRaw pa b).carveouts = s.carveouts := rfl
@[simp] theorem State.setRaw_errs (s : State) (pa : Nat) (b : Byte) : (s.setRaw pa b).errs = s.errs := rfl
@[simp] theorem State.setRaw_slots (s : State) (pa : Nat) (b : Byte) : (s.setRaw pa b).slots = s.slots := rfl
@[simp] theorem State.setRaw_nodes (s : State) (pa : Nat) (b : Byte) : (s.setRaw pa b).nodes = s.nodes := rfl
@[simp] theorem State.setRaw_nodeOrder (s : State) (pa : Nat) (b : Byte) : (s.setRaw pa b).nodeOrder = s.nodeOrder := rfl
@[simp] theorem State.setRaw_retired (s : State) (pa : Nat) (b : Byte) : (s.setRaw pa b).retired = s.retired := rfl
@[simp] theorem State.setRaw_seqs (s : State) (pa : Nat) (b : Byte) : (s.setRaw pa b).seqs = s.seqs := rfl
@[simp] theorem State.setRaw_queues (s : State) (pa : Nat) (b : Byte) : (s.setRaw pa b).queues = s.queues := rfl
@[simp] theorem State.setRaw_wakeTurn (s : State) (pa : Nat) (b : Byte) : (s.setRaw pa b).wakeTurn = s.wakeTurn := rfl
@[simp] theorem State.setRaw_handlers (s : State) (pa : Nat) (b : Byte) : (s.setRaw pa b).handlers = s.handlers := rfl
@[simp] theorem State.setRaw_control (s : State) (pa : Nat) (b : Byte) : (s.setRaw pa b).control = s.control := rfl
@[simp] theorem State.setRaw_slotbox (s : State) (pa : Nat) (b : Byte) : (s.setRaw pa b).slotbox = s.slotbox := rfl
@[simp] theorem State.setRaw_hw2base (s : State) (pa : Nat) (b : Byte) : (s.setRaw pa b).hw2base = s.hw2base := rfl
@[simp] theorem State.setRaw_msix (s : State) (pa : Nat) (b : Byte) : (s.setRaw pa b).msix = s.msix := rfl
@[simp] theorem State.setRaw_ports (s : State) (pa : Nat) (b : Byte) : (s.setRaw pa b).ports = s.ports := rfl
@[simp] theorem State.setRaw_sent (s : State) (pa : Nat) (b : Byte) : (s.setRaw pa b).sent = s.sent := rfl
@[simp] theorem State.setRaw_hstate (s : State) (pa : Nat) (b : Byte) : (s.setRaw pa b).hstate = s.hstate := rfl
@[simp] theorem State.setRaw_fencedCores (s : State) (pa : Nat) (b : Byte) : (s.setRaw pa b).fencedCores = s.fencedCores := rfl
@[simp] theorem State.setRaw_fencedPorts (s : State) (pa : Nat) (b : Byte) : (s.setRaw pa b).fencedPorts = s.fencedPorts := rfl
@[simp] theorem State.setRaw_fencedChannels (s : State) (pa : Nat) (b : Byte) : (s.setRaw pa b).fencedChannels = s.fencedChannels := rfl
@[simp] theorem State.setRaw_softErrors (s : State) (pa : Nat) (b : Byte) : (s.setRaw pa b).softErrors = s.softErrors := rfl
@[simp] theorem State.setRaw_boots (s : State) (pa : Nat) (b : Byte) : (s.setRaw pa b).boots = s.boots := rfl
@[simp] theorem State.setRaw_spdm (s : State) (pa : Nat) (b : Byte) : (s.setRaw pa b).spdm = s.spdm := rfl
@[simp] theorem State.setRaw_frames (s : State) (pa : Nat) (b : Byte) : (s.setRaw pa b).frames = s.frames := rfl
@[simp] theorem State.setRaw_reports (s : State) (pa : Nat) (b : Byte) : (s.setRaw pa b).reports = s.reports := rfl
@[simp] theorem State.setRaw_cur (s : State) (pa : Nat) (b : Byte) : (s.setRaw pa b).cur = s.cur := rfl
@[simp] theorem State.setRaw_agenda (s : State) (pa : Nat) (b : Byte) : (s.setRaw pa b).agenda = s.agenda := rfl
@[simp] theorem State.setRaw_turn (s : State) (pa : Nat) (b : Byte) : (s.setRaw pa b).turn = s.turn := rfl
@[simp] theorem State.setRaw_free (s : State) (pa : Nat) (b : Byte) : (s.setRaw pa b).free = s.free := rfl

@[simp] theorem State.setLc_lcores (s : State) (k : Nat) (l : LCore) : (s.setLc k l).lcores = s.lcores.ins k l := rfl
@[simp] theorem State.setCore_cores (s : State) (c : Nat) (p : PCore) : (s.setCore c p).cores = s.cores.ins c p := rfl
@[simp] theorem State.setSl_sluices (s : State) (n : Nat) (x : Sluice) : (s.setSl n x).sluices = s.sluices.ins n x := rfl
@[simp] theorem State.setCtx_ctxs (s : State) (c : Nat) (x : Ctx) : (s.setCtx c x).ctxs = s.ctxs.ins c x := rfl
@[simp] theorem State.report_reports (s : State) (r : Report) : (s.report r).reports = s.reports ++ [r] := rfl
@[simp] theorem State.verdict_cur (s : State) (v : Verdict) : (s.verdict v).cur = { s.cur with verdict := v } := rfl
@[simp] theorem State.setRaw_mem (s : State) (pa : Nat) (b : Byte) : (s.setRaw pa b).mem = s.mem.put pa b 0 := rfl

end Sys2Proof.Machine
end

