-- ==== Sys2Proof/Laws/Tables.lean ====
section
/-! SUPPORT. The laws of tables: what an entry reads as after a change, and that every change keeps the canonical form. -/

namespace Sys2Proof.Machine

theorem SMap.atD_eq {β : Type} (m : SMap β) (k : Nat) (d : β) : m.atD k d = (m.at? k).getD d := by
  induction m with
  | nil => rfl
  | cons p r ih =>
    obtain ⟨j, x⟩ := p
    simp only [SMap.atD, SMap.at?]
    split
    · rfl
    · exact ih

@[simp] theorem SMap.at?_nil {β : Type} (k : Nat) : SMap.at? ([] : SMap β) k = none := rfl

@[simp] theorem SMap.atD_nil {β : Type} (k : Nat) (d : β) : SMap.atD ([] : SMap β) k d = d := rfl

/-! ## Reading after a change -/

@[simp] theorem SMap.at?_ins_same {β : Type} (m : SMap β) (k : Nat) (v : β) : (m.ins k v).at? k = some v := by
  induction m with
  | nil => simp [SMap.ins, SMap.at?]
  | cons p r ih =>
    obtain ⟨j, x⟩ := p
    simp only [SMap.ins]
    split
    · simp [SMap.at?]
    · split
      · simp [SMap.at?]
      · have : j ≠ k := by omega
        simp [SMap.at?, this, ih]

@[simp] theorem SMap.at?_ins_other {β : Type} (m : SMap β) {k j : Nat} (v : β) (h : j ≠ k) :
    (m.ins k v).at? j = m.at? j := by
  induction m with
  | nil => simp [SMap.ins, SMap.at?, Ne.symm h]
  | cons p r ih =>
    obtain ⟨i, x⟩ := p
    simp only [SMap.ins]
    split
    · simp [SMap.at?, Ne.symm h]
    · split
      · subst_vars
        simp [SMap.at?, Ne.symm h]
      · simp [SMap.at?, ih]

@[simp] theorem SMap.at?_del_same {β : Type} (m : SMap β) (k : Nat) : (m.del k).at? k = none := by
  induction m with
  | nil => rfl
  | cons p r ih =>
    obtain ⟨i, x⟩ := p
    simp only [SMap.del]
    split
    · exact ih
    · simp [SMap.at?, *]

@[simp] theorem SMap.at?_del_other {β : Type} (m : SMap β) {k j : Nat} (h : j ≠ k) : (m.del k).at? j = m.at? j := by
  induction m with
  | nil => rfl
  | cons p r ih =>
    obtain ⟨i, x⟩ := p
    simp only [SMap.del]
    split
    · subst_vars
      simp [SMap.at?, ih, Ne.symm h]
    · simp [SMap.at?, ih]

@[simp] theorem SMap.atD_ins_same {β : Type} (m : SMap β) (k : Nat) (v d : β) : (m.ins k v).atD k d = v := by
  simp [SMap.atD_eq]

@[simp] theorem SMap.atD_ins_other {β : Type} (m : SMap β) {k j : Nat} (v d : β) (h : j ≠ k) :
    (m.ins k v).atD j d = m.atD j d := by
  simp [SMap.atD_eq, h]

@[simp] theorem SMap.atD_put_same {β : Type} [DecidableEq β] (m : SMap β) (k : Nat) (v d : β) :
    (m.put k v d).atD k d = v := by
  unfold SMap.put
  split
  · simp [SMap.atD_eq, *]
  · simp

@[simp] theorem SMap.atD_put_other {β : Type} [DecidableEq β] (m : SMap β) {k j : Nat} (v d : β) (h : j ≠ k) :
    (m.put k v d).atD j d = m.atD j d := by
  unfold SMap.put
  split <;> simp [SMap.atD_eq, h]

/-! ## The canonical form -/

/-- Every number listed is above `k`. -/
def SMap.above {β : Type} (m : SMap β) (k : Nat) : Prop := ∀ p ∈ m, k < p.1

theorem SMap.sorted_cons {β : Type} (p : Nat × β) (r : SMap β) :
    SMap.sorted (p :: r) = true ↔ SMap.above r p.1 ∧ r.sorted = true := by
  obtain ⟨k, v⟩ := p
  simp [SMap.sorted, SMap.above, List.all_eq_true]

theorem SMap.mem_ins {β : Type} {m : SMap β} {k : Nat} {v : β} {p : Nat × β} (h : p ∈ m.ins k v) :
    p = (k, v) ∨ p ∈ m := by
  induction m with
  | nil => simp_all [SMap.ins]
  | cons q r ih =>
    obtain ⟨i, x⟩ := q
    simp only [SMap.ins] at h
    split at h
    · simpa using h
    · split at h
      · simp only [List.mem_cons] at h ⊢
        rcases h with h | h
        · exact .inl h
        · exact .inr (.inr h)
      · simp only [List.mem_cons] at h ⊢
        rcases h with h | h
        · exact .inr (.inl h)
        · rcases ih h with h | h
          · exact .inl h
          · exact .inr (.inr h)

theorem SMap.mem_del {β : Type} {m : SMap β} {k : Nat} {p : Nat × β} (h : p ∈ m.del k) : p ∈ m := by
  induction m with
  | nil => exact h
  | cons q r ih =>
    obtain ⟨i, x⟩ := q
    simp only [SMap.del] at h
    split at h
    · exact List.mem_cons_of_mem _ (ih h)
    · simp only [List.mem_cons] at h ⊢
      exact h.imp id ih

theorem SMap.sorted_ins {β : Type} (m : SMap β) (k : Nat) (v : β) (h : m.sorted = true) : (m.ins k v).sorted = true := by
  induction m with
  | nil => simp [SMap.ins, SMap.sorted]
  | cons q r ih =>
    obtain ⟨i, x⟩ := q
    obtain ⟨ha, hr⟩ := (SMap.sorted_cons _ _).mp h
    simp only [SMap.ins]
    split
    · rename_i hk
      refine (SMap.sorted_cons _ _).mpr ⟨?_, h⟩
      intro p hp
      rcases List.mem_cons.mp hp with rfl | hp
      · exact hk
      · exact Nat.lt_trans hk (ha p hp)
    · split
      · subst_vars
        exact (SMap.sorted_cons _ _).mpr ⟨ha, hr⟩
      · refine (SMap.sorted_cons _ _).mpr ⟨?_, ih hr⟩
        intro p hp
        rcases SMap.mem_ins hp with rfl | hp
        · show i < k
          omega
        · exact ha p hp

theorem SMap.sorted_del {β : Type} (m : SMap β) (k : Nat) (h : m.sorted = true) : (m.del k).sorted = true := by
  induction m with
  | nil => exact h
  | cons q r ih =>
    obtain ⟨i, x⟩ := q
    obtain ⟨ha, hr⟩ := (SMap.sorted_cons _ _).mp h
    simp only [SMap.del]
    split
    · exact ih hr
    · exact (SMap.sorted_cons _ _).mpr ⟨fun p hp => ha p (SMap.mem_del hp), ih hr⟩

theorem SMap.canon_iff {β : Type} [DecidableEq β] (m : SMap β) (d : β) :
    m.canon d = true ↔ m.sorted = true ∧ ∀ p ∈ m, p.2 ≠ d := by
  simp [SMap.canon, List.all_eq_true]

/-- `put` keeps the canonical form. -/
theorem SMap.canon_put {β : Type} [DecidableEq β] (m : SMap β) (k : Nat) (v d : β) (h : m.canon d = true) :
    (m.put k v d).canon d = true := by
  obtain ⟨hs, hd⟩ := (SMap.canon_iff m d).mp h
  unfold SMap.put
  split
  · exact (SMap.canon_iff _ _).mpr ⟨SMap.sorted_del m k hs, fun p hp => hd p (SMap.mem_del hp)⟩
  · rename_i hv
    refine (SMap.canon_iff _ _).mpr ⟨SMap.sorted_ins m k v hs, ?_⟩
    intro p hp
    rcases SMap.mem_ins hp with rfl | hp
    · exact hv
    · exact hd p hp

theorem SMap.sorted_filter {β : Type} (f : Nat × β → Bool) (m : SMap β) (h : m.sorted = true) :
    SMap.sorted (m.filter f) = true := by
  induction m with
  | nil => exact h
  | cons q r ih =>
    obtain ⟨ha, hr⟩ := (SMap.sorted_cons _ _).mp h
    rw [List.filter_cons]
    split
    · exact (SMap.sorted_cons _ _).mpr ⟨fun p hp => ha p (List.mem_filter.mp hp).1, ih hr⟩
    · exact ih hr

/-- Leaving out entries keeps the canonical form. -/
theorem SMap.canon_filter {β : Type} [DecidableEq β] (f : Nat × β → Bool) (m : SMap β) (d : β) (h : m.canon d = true) :
    SMap.canon (m.filter f) d = true := by
  obtain ⟨hs, hd⟩ := (SMap.canon_iff m d).mp h
  exact (SMap.canon_iff _ _).mpr ⟨SMap.sorted_filter f m hs, fun p hp => hd p (List.mem_filter.mp hp).1⟩

/-- `norm` gives the canonical form of any list. -/
theorem SMap.canon_norm {β : Type} [DecidableEq β] (m : SMap β) (d : β) : (m.norm d).canon d = true := by
  induction m with
  | nil => simp [SMap.norm, SMap.canon, SMap.sorted]
  | cons p r ih => exact SMap.canon_put _ _ _ _ ih

theorem SMap.sorted_append {β : Type} (m n : SMap β) (hm : m.sorted = true) (hn : n.sorted = true)
    (h : ∀ p ∈ m, ∀ q ∈ n, p.1 < q.1) : SMap.sorted (m ++ n) = true := by
  induction m with
  | nil => exact hn
  | cons p r ih =>
    obtain ⟨ha, hr⟩ := (SMap.sorted_cons _ _).mp hm
    refine (SMap.sorted_cons _ _).mpr ⟨?_, ih hr fun x hx => h x (List.mem_cons_of_mem _ hx)⟩
    intro q hq
    rcases List.mem_append.mp hq with hq | hq
    · exact ha q hq
    · exact h p List.mem_cons_self q hq

/-- `splice` keeps the canonical form, whatever is put in. -/
theorem SMap.canon_splice {β : Type} [DecidableEq β] (m : SMap β) (lo hi : Nat) (new : SMap β) (d : β) (hle : lo ≤ hi)
    (h : m.canon d = true) : (m.splice lo hi new d).canon d = true := by
  have h1 := (SMap.canon_iff _ _).mp (SMap.canon_filter (fun p => decide (p.1 < lo)) m d h)
  have h2 := (SMap.canon_iff _ _).mp
    (SMap.canon_filter (fun p => decide (lo ≤ p.1) && decide (p.1 < hi)) (new.norm d) d (SMap.canon_norm new d))
  have h3 := (SMap.canon_iff _ _).mp (SMap.canon_filter (fun p => decide (hi ≤ p.1)) m d h)
  refine (SMap.canon_iff _ _).mpr ⟨?_, ?_⟩
  · refine SMap.sorted_append _ _ (SMap.sorted_append _ _ h1.1 h2.1 ?_) h3.1 ?_
    · intro p hp q hq
      have := (List.mem_filter.mp hp).2
      have := (List.mem_filter.mp hq).2
      simp only [Bool.and_eq_true, decide_eq_true_eq] at *
      omega
    · intro p hp q hq
      have h4 := (List.mem_filter.mp hq).2
      simp only [decide_eq_true_eq] at h4
      rcases List.mem_append.mp hp with hp | hp
      · have h5 := (List.mem_filter.mp hp).2
        simp only [decide_eq_true_eq] at h5
        omega
      · have h5 := (List.mem_filter.mp hp).2
        simp only [Bool.and_eq_true, decide_eq_true_eq] at h5
        omega
  · intro p hp
    rcases List.mem_append.mp hp with hp | hp
    · rcases List.mem_append.mp hp with hp | hp
      · exact h1.2 p hp
      · exact h2.2 p hp
    · exact h3.2 p hp

end Sys2Proof.Machine
end

