-- ==== Sys2Proof/Laws/Registers.lean ====
section
/-! SUPPORT. The laws of the operations over registers, queues and rill counts, and what a retirement leaves. -/

namespace Sys2Proof.Machine

open Sys2Proof.Safety

/-! ## Parts of the state -/

@[simp] theorem State.lcAt_setLc_same (s : State) (k : Nat) (l : LCore) : (s.setLc k l).lcAt k = l := by
  simp [State.lcAt]

@[simp] theorem State.lcAt_setLc_other (s : State) {k j : Nat} (l : LCore) (h : j ≠ k) :
    (s.setLc k l).lcAt j = s.lcAt j := by
  simp [State.lcAt, h]

theorem SMap.ins_ins {β : Type} (m : SMap β) (k : Nat) (v w : β) : (m.ins k v).ins k w = m.ins k w := by
  induction m with
  | nil => simp [SMap.ins]
  | cons p r ih =>
    obtain ⟨i, x⟩ := p
    by_cases h1 : k < i
    · simp [SMap.ins, h1]
    · by_cases h2 : k = i
      · subst h2
        simp [SMap.ins]
      · simp [SMap.ins, h1, h2, ih]

@[simp] theorem State.setLc_setLc (s : State) (k : Nat) (l m : LCore) : (s.setLc k l).setLc k m = s.setLc k m := by
  simp [State.setLc, SMap.ins_ins]

@[simp] theorem State.slAt_setSl_same (s : State) (n : Nat) (x : Sluice) : (s.setSl n x).slAt n = x := by
  simp [State.slAt]

@[simp] theorem State.slAt_setSl_other (s : State) {n j : Nat} (x : Sluice) (h : j ≠ n) :
    (s.setSl n x).slAt j = s.slAt j := by
  simp [State.slAt, h]

@[simp] theorem State.setSl_setSl (s : State) (n : Nat) (x y : Sluice) : (s.setSl n x).setSl n y = s.setSl n y := by
  simp [State.setSl, SMap.ins_ins]

/-! ## Registers and queues of a logical core -/

@[simp] theorem LCore.strm_setStrm (l : LCore) (ep : Bool) (x : Strm) : (l.setStrm ep x).strm ep = x := by
  cases ep <;> rfl

@[simp] theorem LCore.strm_setStrm_other (l : LCore) (ep : Bool) (x : Strm) : (l.setStrm ep x).strm (!ep) = l.strm (!ep) := by
  cases ep <;> rfl

@[simp] theorem LCore.queue_setStrm (l : LCore) (ep : Bool) (x : Strm) (n : Nat) : (l.setStrm ep x).queue n = l.queue n := by
  cases ep <;> rfl

@[simp] theorem LCore.strm_setQueue (l : LCore) (ep : Bool) (n : Nat) (q : List Word) :
    (l.setQueue n q).strm ep = l.strm ep := by
  cases ep <;> rfl

@[simp] theorem LCore.queue_setQueue_same (l : LCore) (n : Nat) (q : List Word) : (l.setQueue n q).queue n = q := by
  simp [LCore.queue, LCore.setQueue]

@[simp] theorem LCore.queue_setQueue_other (l : LCore) {n j : Nat} (q : List Word) (h : j ≠ n) :
    (l.setQueue n q).queue j = l.queue j := by
  simp [LCore.queue, LCore.setQueue, h]

@[simp] theorem LCore.reg_zero (l : LCore) (ep : Bool) : l.reg ep 0 = 0 := rfl

/-- What `setReg` does to a register below g24. -/
theorem LCore.reg_setReg (l : LCore) (ep : Bool) (d : Nat) (v : Word) (n : Nat) (hn : n < 24) :
    (l.setReg ep d v).reg ep n = if n = 0 then 0 else if n = d then v else l.reg ep n := by
  by_cases h0 : n = 0
  · simp [h0]
  · by_cases hd0 : d = 0
    · simp only [LCore.setReg, hd0, if_true, h0, if_false]
    · by_cases hd : d < 24
      · by_cases hnd : n = d
        · subst hnd
          simp [LCore.setReg, LCore.reg, h0, hn]
        · simp [LCore.setReg, LCore.reg, h0, hd0, hd, hn, hnd]
      · have : n ≠ d := by omega
        simp [LCore.setReg, LCore.reg, h0, hd0, hd, hn, this]

/-- What `setReg` does to a queue. -/
theorem LCore.queue_setReg (l : LCore) (ep : Bool) (d : Nat) (v : Word) (n : Nat) :
    (l.setReg ep d v).queue n = l.queue n ++ if d = 24 + n then [v] else [] := by
  by_cases hd0 : d = 0
  · subst hd0
    have : ¬ 0 = 24 + n := by omega
    simp only [LCore.setReg, if_true]
    simp [this]
  · by_cases hd : d < 24
    · have : ¬ d = 24 + n := by omega
      simp [LCore.setReg, hd0, hd, this]
    · by_cases hn : d = 24 + n
      · subst hn
        simp only [LCore.setReg, hd0, hd, if_false, Nat.add_sub_cancel_left, LCore.queue_setQueue_same, if_true]
      · have : n ≠ d - 24 := by omega
        simp [LCore.setReg, hd0, hd, hn, this]

/-- `setReg` changes the registers of its stream and the queues only. -/
theorem LCore.setReg_frame (l : LCore) (ep : Bool) (d : Nat) (v : Word) :
    l.setReg ep d v = ({ l with qs := (l.setReg ep d v).qs } : LCore).setStrm ep
      { l.strm ep with regs := ((l.setReg ep d v).strm ep).regs } := by
  cases ep <;> simp only [LCore.setReg, LCore.setStrm, LCore.strm, LCore.setQueue] <;> split <;>
    first | rfl | (split <;> rfl)

@[simp] theorem LCore.strm_pops (l : LCore) (ep : Bool) (srcs : List Nat) : (l.pops srcs).strm ep = l.strm ep := by
  cases ep <;> rfl

theorem LCore.reg_pops (l : LCore) (ep : Bool) (srcs : List Nat) (n : Nat) (h : n < 24) :
    (l.pops srcs).reg ep n = l.reg ep n := by
  simp [LCore.reg, h]

/-- `pops` takes the head of each queue that is named; none is named twice. -/
theorem LCore.queue_pops (srcs : List Nat) (l : LCore) (h : namedTwice srcs = false) (n : Nat) :
    (l.pops srcs).queue n = if 24 + n ∈ srcs then (l.queue n).tail else l.queue n := by
  simp only [LCore.pops, LCore.queue]
  generalize l.qs = qs
  induction srcs generalizing qs with
  | nil => simp
  | cons i r ih =>
    simp only [namedTwice, Bool.or_eq_false_iff, Bool.and_eq_false_iff, decide_eq_false_iff_not] at h
    rw [List.foldl_cons, ih h.2]
    by_cases hi : i < 24
    · have : ¬ 24 + n = i := by omega
      simp [hi, this]
    · by_cases hn : 24 + n = i
      · subst hn
        have hr : ¬ (24 + n ∈ r) := by
          rcases h.1 with h1 | h1
          · omega
          · simpa using h1
        simp only [hr, hi, if_false, Nat.add_sub_cancel_left, SMap.atD_put_same, List.mem_cons, true_or, if_true]
      · have : n ≠ i - 24 := by omega
        simp [hi, hn, this]

/-! ## The rill and the counters -/

theorem LCore.rillTake_rill (l m : LCore) (p : Nat) (q : Rill) (h : m.rill = l.rill) :
    (m.rillTake p q).rill = (l.rillTake p q).rill := by
  simp only [LCore.rillTake, h]

theorem LCore.rillGive_rill (l m : LCore) (p : Nat) (q : Rill) (h : m.rill = l.rill) :
    (m.rillGive p q).rill = (l.rillGive p q).rill := by
  simp only [LCore.rillGive, h]

theorem LCore.count_pcs (l m : LCore) (code n : Nat) (h : m.pcsel = l.pcsel) (h2 : m.pcs = l.pcs) :
    (m.count code n).pcs = (l.count code n).pcs := by
  simp only [LCore.count, h, h2]

/-! ## What a retirement leaves -/

/-- `reg` reads the registers of its stream, and the queues. -/
theorem LCore.reg_low (l m : LCore) (ep : Bool) (h : (m.strm ep).regs = (l.strm ep).regs) (n : Nat) (hn : n < 24) :
    m.reg ep n = l.reg ep n := by
  simp [LCore.reg, hn, h]

theorem LCore.queue_eq (l m : LCore) (h : m.qs = l.qs) (n : Nat) : m.queue n = l.queue n := by
  simp [LCore.queue, h]

theorem Sluice.reg_setReg (x : Sluice) (d : Nat) (v : Word) (n : Nat) :
    (x.setReg d v).reg n = if n = 0 then 0 else if n = d then v else x.reg n := by
  by_cases h0 : n = 0
  · simp [h0, Sluice.reg]
  · by_cases hd0 : d = 0
    · simp only [Sluice.setReg, hd0, if_true, h0, if_false]
    · by_cases hnd : n = d
      · subst hnd
        simp [Sluice.setReg, Sluice.reg, h0]
      · simp [Sluice.setReg, Sluice.reg, h0, hd0, hnd]

theorem Sluice.setReg_frame (x : Sluice) (d : Nat) (v : Word) : x.setReg d v = { x with regs := (x.setReg d v).regs } := by
  simp only [Sluice.setReg]
  split <;> rfl

end Sys2Proof.Machine
end

