-- ==== Sys2Proof/Laws/Memory.lean ====
section
/-! SUPPORT. What storing bytes does: the bytes stored read back, every other byte is as before, nothing of the state but
memory differs, and memory keeps its canonical form. -/

namespace Sys2Proof.Machine

open Sys2Proof.Safety

@[simp] theorem State.rawByte_setRaw_same (s : State) (pa : Nat) (b : Byte) : (s.setRaw pa b).rawByte pa = b := by
  simp [State.rawByte, State.setRaw]

@[simp] theorem State.rawByte_setRaw_other (s : State) {pa p : Nat} (b : Byte) (h : p ≠ pa) :
    (s.setRaw pa b).rawByte p = s.rawByte p := by
  simp [State.rawByte, State.setRaw, h]

theorem State.setRaw_wf (s : State) (pa : Nat) (b : Byte) (h : MemoryOk s) : MemoryOk (s.setRaw pa b) :=
  SMap.canon_put s.mem pa b 0 h

theorem State.setRaws_frame (bs : List Byte) (s : State) (pa : Nat) :
    s.setRaws pa bs = { s with mem := (s.setRaws pa bs).mem } := by
  induction bs generalizing s pa with
  | nil => rfl
  | cons b bs ih =>
    rw [State.setRaws, ih]
    rfl

theorem State.setRaws_wf (bs : List Byte) (s : State) (pa : Nat) (h : MemoryOk s) : MemoryOk (s.setRaws pa bs) := by
  induction bs generalizing s pa with
  | nil => exact h
  | cons b bs ih => exact ih _ _ (State.setRaw_wf s pa b h)

/-- A byte outside those stored is as before. -/
theorem State.rawByte_setRaws_outside (bs : List Byte) (s : State) (pa p : Nat) (h : p < pa ∨ pa + bs.length ≤ p) :
    (s.setRaws pa bs).rawByte p = s.rawByte p := by
  induction bs generalizing s pa with
  | nil => rfl
  | cons b bs ih =>
    simp only [List.length_cons] at h
    rw [State.setRaws, ih _ _ (by omega), State.rawByte_setRaw_other _ _ (by omega)]

/-- Byte `i` of those stored. -/
theorem State.rawByte_setRaws_inside (bs : List Byte) (s : State) (pa i : Nat) (h : i < bs.length) :
    (s.setRaws pa bs).rawByte (pa + i) = bs[i] := by
  induction bs generalizing s pa i with
  | nil => simp at h
  | cons b bs ih =>
    cases i with
    | zero =>
      rw [State.setRaws, State.rawByte_setRaws_outside _ _ _ _ (by omega)]
      simp
    | succ i =>
      have := ih (s.setRaw pa b) (pa + 1) i (by simpa using h)
      rw [State.setRaws]
      simpa [Nat.add_assoc, Nat.add_comm 1 i] using this

theorem State.length_rawBytes (s : State) (pa n : Nat) : (s.rawBytes pa n).length = n := by
  induction n generalizing pa with
  | zero => rfl
  | succ n ih => simp [State.rawBytes, ih]

theorem State.getElem_rawBytes (s : State) (pa n i : Nat) (h : i < (s.rawBytes pa n).length) :
    (s.rawBytes pa n)[i] = s.rawByte (pa + i) := by
  induction n generalizing pa i with
  | zero => simp [State.rawBytes] at h
  | succ n ih =>
    cases i with
    | zero => rfl
    | succ i =>
      simp only [State.rawBytes, List.length_cons, Nat.add_lt_add_iff_right] at h
      simp only [State.rawBytes, List.getElem_cons_succ, ih _ _ h]
      congr 1
      omega

/-- A part of the bytes stored reads back. -/
theorem State.rawBytes_setRaws_part (bs : List Byte) (s : State) (pa i n : Nat) (h : i + n ≤ bs.length) :
    (s.setRaws pa bs).rawBytes (pa + i) n = (bs.drop i).take n := by
  apply List.ext_getElem
  · simp [State.length_rawBytes]
    omega
  · intro j h1 h2
    rw [State.getElem_rawBytes]
    simp only [List.length_take, List.length_drop] at h2
    rw [Nat.add_assoc, State.rawByte_setRaws_inside _ _ _ _ (by omega)]
    simp

/-- The bytes stored read back. -/
theorem State.rawBytes_setRaws (bs : List Byte) (s : State) (pa : Nat) :
    (s.setRaws pa bs).rawBytes pa bs.length = bs := by
  have := State.rawBytes_setRaws_part bs s pa 0 bs.length (by omega)
  simpa using this

theorem State.rawBytes_outside {s t : State} {pa n : Nat} (h : ∀ p, pa ≤ p → p < pa + n → t.rawByte p = s.rawByte p) :
    t.rawBytes pa n = s.rawBytes pa n := by
  apply List.ext_getElem
  · simp [State.length_rawBytes]
  · intro i h1 h2
    rw [State.length_rawBytes] at h1
    rw [State.getElem_rawBytes, State.getElem_rawBytes, h _ (by omega) (by omega)]

/-! ## Stores at a byte's home: discarded inside a storage-format range -/

theorem State.setPhys_frame (s : State) (pa : Nat) (b : Byte) : s.setPhys pa b = { s with mem := (s.setPhys pa b).mem } := by
  unfold State.setPhys
  split <;> rfl

theorem State.setPhys_wf (s : State) (pa : Nat) (b : Byte) (h : MemoryOk s) : MemoryOk (s.setPhys pa b) := by
  unfold State.setPhys
  split
  · exact State.setRaw_wf s pa b h
  · exact h

theorem State.setEach_frame (bs : List Byte) (s : State) (pa : Nat) :
    s.setEach pa bs = { s with mem := (s.setEach pa bs).mem } := by
  induction bs generalizing s pa with
  | nil => rfl
  | cons b bs ih =>
    rw [State.setEach, ih, State.setPhys_frame]

theorem State.setEach_wf (bs : List Byte) (s : State) (pa : Nat) (h : MemoryOk s) : MemoryOk (s.setEach pa bs) := by
  induction bs generalizing s pa with
  | nil => exact h
  | cons b bs ih => exact ih _ _ (State.setPhys_wf s pa b h)

theorem State.rawByte_setEach_outside (bs : List Byte) (s : State) (pa p : Nat) (h : p < pa ∨ pa + bs.length ≤ p) :
    (s.setEach pa bs).rawByte p = s.rawByte p := by
  induction bs generalizing s pa with
  | nil => rfl
  | cons b bs ih =>
    simp only [List.length_cons] at h
    rw [State.setEach, ih _ _ (by omega)]
    unfold State.setPhys
    split
    · exact State.rawByte_setRaw_other _ _ (by omega)
    · rfl

/-- Where no storage-format range is set up, a store at a byte's home is a store. -/
theorem State.setPhyss_plain (bs : List Byte) (s : State) (pa : Nat) (h : s.formats = []) : s.setPhyss pa bs = s.setRaws pa bs :=
  if_pos h

/-- A store at a byte's home changes memory and the count of discarded writes. -/
theorem State.setPhyss_frame (bs : List Byte) (s : State) (pa : Nat) :
    s.setPhyss pa bs = { s with mem := (s.setPhyss pa bs).mem, errs := (s.setPhyss pa bs).errs } := by
  by_cases hf : s.formats = []
  · rw [State.setPhyss_plain bs s pa hf, State.setRaws_frame]
  · have hs := State.setEach_frame bs s pa
    simp only [State.setPhyss, hf, if_false]
    split <;> rw [hs] <;> rfl

theorem State.setPhyss_wf (bs : List Byte) (s : State) (pa : Nat) (h : MemoryOk s) : MemoryOk (s.setPhyss pa bs) := by
  by_cases hf : s.formats = []
  · rw [State.setPhyss_plain bs s pa hf]
    exact State.setRaws_wf bs s pa h
  · have hs := State.setEach_wf bs s pa h
    simp only [State.setPhyss, hf, if_false]
    split <;> exact hs

theorem State.rawByte_setPhyss_outside (bs : List Byte) (s : State) (pa p : Nat) (h : p < pa ∨ pa + bs.length ≤ p) :
    (s.setPhyss pa bs).rawByte p = s.rawByte p := by
  by_cases hf : s.formats = []
  · rw [State.setPhyss_plain bs s pa hf, State.rawByte_setRaws_outside bs s pa p h]
  · have hs := State.rawByte_setEach_outside bs s pa p h
    simp only [State.setPhyss, hf, if_false]
    split <;> exact hs

end Sys2Proof.Machine
end

