-- ==== Sys2Proof/Laws/Retire.lean ====
section
/-! SUPPORT. What `commit` does, said once: the instruction's sources are taken, its destination written, and the stream
goes on; nothing else differs. -/

namespace Sys2Proof.Machine

open Sys2Proof.Safety

/-- An instruction that issues names no queue as a source twice. -/
theorem State.issue_go_srcs {s : State} {ep : Bool} {c k : Nat} {u : Use} (h : s.issue (.core ep c k) u = .go) :
    namedTwice u.srcs = false := by
  cases hn : namedTwice u.srcs with
  | false => rfl
  | true =>
    have hb : badQueueUse ep u.srcs u.dsts = true := by simp [badQueueUse, hn]
    simp [State.issue, hb] at h

/-- What the register and queue changes of an instruction leave: `l` with the sources `srcs` taken and `v` written to `d`. -/
structure Taken (l m : LCore) (ep : Bool) (srcs : List Nat) (d : Nat) (v : Word) : Prop where
  regs : ∀ n, n < 24 → m.reg ep n = if n = 0 then 0 else if n = d then v else l.reg ep n
  queues : ∀ n, m.queue n = (if 24 + n ∈ srcs then (l.queue n).tail else l.queue n) ++ if d = 24 + n then [v] else []
  frame : m = ({ l with qs := m.qs } : LCore).setStrm ep { l.strm ep with regs := (m.strm ep).regs }

theorem LCore.taken (l : LCore) (ep : Bool) (srcs : List Nat) (d : Nat) (v : Word) (hs : namedTwice srcs = false) :
    Taken l ((l.pops srcs).setReg ep d v) ep srcs d v where
  regs n hn := by rw [LCore.reg_setReg _ _ _ _ _ hn, LCore.reg_pops _ _ _ _ hn]
  queues n := by rw [LCore.queue_setReg, LCore.queue_pops _ _ hs]
  frame := by
    rw [LCore.setReg_frame, LCore.strm_pops]
    cases ep <;> rfl

/-! ## Where a stream goes on does not depend on its registers -/

theorem Strm.setLoop_regs (t : Strm) (r : SMap Word) (i : Nat) (f : Loop) :
    ({ t with regs := r } : Strm).setLoop i f = { t.setLoop i f with regs := r } := by
  unfold Strm.setLoop
  split <;> rfl

theorem Strm.pickFrame_regs (t : Strm) (r : SMap Word) (is : List Nat) :
    ({ t with regs := r } : Strm).pickFrame is = t.pickFrame is := by
  induction is with
  | nil => rfl
  | cons i is ih =>
    simp only [Strm.pickFrame, ih]
    rfl

theorem Strm.endOfBody_regs (t : Strm) (r : SMap Word) (lo hi next : Word) (fuel : Nat) (is : List Nat) :
    ({ t with regs := r } : Strm).endOfBody lo hi next fuel is =
      ({ (t.endOfBody lo hi next fuel is).1 with regs := r }, (t.endOfBody lo hi next fuel is).2) := by
  induction fuel generalizing t is with
  | zero => rfl
  | succ n ih =>
    have he : ({ t with regs := r } : Strm).endsIn lo hi = t.endsIn lo hi := rfl
    simp only [Strm.endOfBody, he, Strm.pickFrame_regs]
    cases t.pickFrame (is.filter (t.endsIn lo hi)) with
    | none => rfl
    | some i =>
      have hl : ({ t with regs := r } : Strm).loop i = t.loop i := rfl
      simp only [hl, Strm.setLoop_regs]
      split
      · rfl
      · exact ih _ _

/-- A retirement keeps the registers, and where it leads does not depend on them. -/
theorem Strm.retire_regs (t : Strm) (r : SMap Word) (tm : Bool) (lo hi : Word) (f : Flow) :
    ({ t with regs := r } : Strm).retire tm lo hi f = { t.retire tm lo hi f with regs := r } := by
  have ha (next : Word) : ({ t with regs := r } : Strm).after tm lo hi next = { t.after tm lo hi next with regs := r } := by
    unfold Strm.after
    split
    · rfl
    · simp only [Strm.endOfBody_regs]
  cases f with
  | next => exact ha hi
  | goto a => exact ha a
  | jump a => rfl

theorem Strm.regs_retire (t : Strm) (tm : Bool) (lo hi : Word) (f : Flow) : (t.retire tm lo hi f).regs = t.regs := by
  have h : t.retire tm lo hi f = { t.retire tm lo hi f with regs := t.regs } := Strm.retire_regs t t.regs tm lo hi f
  rw [h]

theorem Strm.eq_with_own_regs {x y : Strm} {r : SMap Word} (h : x = { y with regs := r }) : x = { y with regs := x.regs } := by
  rw [h]

/-! ## What `commit` leaves -/

theorem State.lcAt_verdict (s : State) (v : Verdict) (k : Nat) : (s.verdict v).lcAt k = s.lcAt k := rfl

theorem State.onlyCore_setLc (s : State) (k : Nat) (l : LCore) (v : Verdict) : OnlyCore s ((s.setLc k l).verdict v) k :=
  ⟨fun j hj => by simp [State.verdict, State.setLc, hj], rfl⟩

/-- `commit` in the AP. -/
theorem State.commit_ap (s : State) (c k : Nat) (u : Use) (d : Nat) (v : Word) (f : Flow)
    (hs : namedTwice u.srcs = false) :
    Retired s (s.commit (.core false c k) u d v f) (.core false c k) u d v f := by
  have ht := LCore.taken (s.lcAt k) false u.srcs d v hs
  have hc : s.commit (.core false c k) u d v f =
      (s.setLc k ((((s.lcAt k).pops u.srcs).setReg false d v).retireAp u.q s.cur.pc s.cur.next f)).verdict .done := by
    simp [State.commit, State.pops, State.dst, State.retire]
  rw [hc]
  clear hc
  generalize ((s.lcAt k).pops u.srcs).setReg false d v = m at ht
  obtain ⟨hr, hq, hf⟩ := ht
  refine ⟨rfl, State.onlyCore_setLc _ _ _ _, rfl, ?_, ?_, ?_⟩
  · intro n hn
    rw [State.lcAt_verdict, State.lcAt_setLc_same, LCore.reg_low m (m.retireAp u.q s.cur.pc s.cur.next f) false (Strm.regs_retire ..) n hn, hr n hn]
    rfl
  · intro n hn
    rw [State.lcAt_verdict, State.lcAt_setLc_same]
    have : (m.retireAp u.q s.cur.pc s.cur.next f).queue n = m.queue n := rfl
    rw [this, hq n]
    simp [closingWrite]
  · rw [State.lcAt_verdict, State.lcAt_setLc_same, hf]
    generalize (m.strm false).regs = r
    generalize m.qs = qs
    generalize s.lcAt k = l
    refine ⟨?_, rfl, rfl, ?_⟩
    · exact Strm.eq_with_own_regs (Strm.retire_regs l.ap r l.trapMode s.cur.pc s.cur.next f)
    · simp [closed]
      rfl

/-- A register or queue write of a logical core. -/
theorem LCore.lateWrite_frame (l : LCore) (x : Option (Nat × Word)) :
    l.lateWrite x = ({ l with qs := (l.lateWrite x).qs } : LCore).setStrm true
      { l.ep with regs := (l.lateWrite x).ep.regs } := by
  unfold LCore.lateWrite
  split
  · exact LCore.setReg_frame l true _ _
  · rfl

theorem LCore.closeBundle_strm (l : LCore) (vec : Bool) (dw : Option (Nat × BitVec 128)) :
    (l.closeBundle vec dw).ep = l.ep ∧ (l.closeBundle vec dw).ap = l.ap ∧ (l.closeBundle vec dw).qs = l.qs := by
  unfold LCore.closeBundle LCore.mergeStat
  cases vec <;> cases dw <;> simp <;> split <;> simp

/-- `commit` of a syllable that does not end its bundle. -/
theorem State.commit_open (s : State) (c k : Nat) (u : Use) (d : Nat) (v : Word) (f : Flow)
    (hs : namedTwice u.srcs = false) (ho : s.cur.left ≠ 0) :
    Retired s (s.commit (.core true c k) u d v f) (.core true c k) u d v f := by
  have ht := LCore.taken (s.lcAt k) true u.srcs d v hs
  have hc : s.commit (.core true c k) u d v f =
      { s.setLc k (((s.lcAt k).pops u.srcs).setReg true d v) with
        cur := { s.cur with rill := Rill.or s.cur.rill u.q, verdict := .done } } := by
    simp only [State.commit, State.pops, State.dst, State.retire, State.lcAt_setLc_same, State.setLc_setLc]
    rw [State.setLc_cur, if_neg ho]
  rw [hc]
  clear hc
  generalize ((s.lcAt k).pops u.srcs).setReg true d v = m at ht
  obtain ⟨hr, hq, hf⟩ := ht
  have hl : State.lcAt { s.setLc k m with cur := { s.cur with rill := Rill.or s.cur.rill u.q, verdict := .done } } k = m :=
    State.lcAt_setLc_same s k m
  refine ⟨rfl, ⟨fun j hj => ?_, rfl⟩, ?_, ?_, ?_, ?_⟩
  · exact SMap.at?_ins_other _ _ hj
  · simp [cursorAfter, ho]
  · intro n hn
    rw [hl, hr n hn]
    simp [closingWrite, ho]
  · intro n hn
    rw [hl, hq n]
    simp [closingWrite, ho]
  · rw [hl, hf]
    generalize (m.strm true).regs = r
    generalize m.qs = qs
    generalize s.lcAt k = l
    refine ⟨?_, rfl, ?_, ?_⟩
    · simp only [wentOn, ho, if_true, if_false]
      rfl
    · simp only [rillAfter, ho, if_true, if_false]
      rfl
    · simp only [ho, ne_eq, not_false_eq_true, and_self, if_true]
      rfl

/-- A closing bundle leaves the registers and queues with its vector syllable's write made. -/
theorem LCore.retireEp_reads (m : LCore) (cur : Cursor) (q : Rill) (f : Flow) :
    (∀ n, n < 24 → (m.retireEp cur q f).reg true n = (m.lateWrite cur.regWrite).reg true n) ∧
    (∀ n, (m.retireEp cur q f).queue n = (m.lateWrite cur.regWrite).queue n) := by
  have hq : ∀ x : LCore, x.qs = m.qs → x.ep = m.ep → (x.lateWrite cur.regWrite).qs = (m.lateWrite cur.regWrite).qs ∧
      (x.lateWrite cur.regWrite).ep.regs = (m.lateWrite cur.regWrite).ep.regs := by
    intro x hx hx2
    unfold LCore.lateWrite
    split
    · simp only [LCore.setReg]
      split
      · exact ⟨hx, by rw [hx2]⟩
      · split
        · exact ⟨hx, by simp only [LCore.setStrm, LCore.strm, if_true, hx2]⟩
        · exact ⟨by simp only [LCore.setQueue, LCore.queue, hx], by simp only [LCore.setQueue, hx2]⟩
    · exact ⟨hx, by rw [hx2]⟩
  obtain ⟨he, -, hqs⟩ := LCore.closeBundle_strm m cur.vector cur.descWrite
  obtain ⟨h1, h2⟩ := hq _ hqs he
  refine ⟨fun n hn => ?_, fun n => ?_⟩
  · refine LCore.reg_low _ _ true ?_ n hn
    exact (Strm.regs_retire _ _ _ _ _).trans h2
  · exact LCore.queue_eq _ _ h1 n

theorem LCore.lateWrite_reg (m : LCore) (x : Option (Nat × Word)) (n : Nat) (hn : n < 24) :
    (m.lateWrite x).reg true n = match x with
      | some (r, y) => if n = 0 then 0 else if n = r then y else m.reg true n
      | none => m.reg true n := by
  cases x with
  | none => rfl
  | some p => exact LCore.reg_setReg m true p.1 p.2 n hn

theorem LCore.lateWrite_queue (m : LCore) (x : Option (Nat × Word)) (n : Nat) :
    (m.lateWrite x).queue n = m.queue n ++ match x with
      | some (r, y) => if r = 24 + n then [y] else []
      | none => [] := by
  cases x with
  | none => simp [LCore.lateWrite]
  | some p => exact LCore.queue_setReg m true p.1 p.2 n

/-- What `retireEp` leaves beside the registers and queues. -/
theorem LCore.retireEp_frame (l m : LCore) (cur : Cursor) (q : Rill) (f : Flow) (qs : SMap (List Word)) (r : SMap Word)
    (hm : m = { l with qs := qs, ep := { l.ep with regs := r } }) :
    (m.retireEp cur q f).ep = { l.ep.retire false cur.pc cur.next f with
      regs := (m.retireEp cur q f).ep.regs
      handed := false } ∧
    (m.retireEp cur q f).ap = l.ap ∧
    m.retireEp cur q f = { l.closeBundle cur.vector cur.descWrite with
      ap := (m.retireEp cur q f).ap
      ep := (m.retireEp cur q f).ep
      qs := (m.retireEp cur q f).qs
      rill := ((l.rillAct posV q).rillAct posV cur.rill).rill
      dlcnt := 0
      epBusy := true
      pcs := (l.count 3 1).pcs } := by
  have hb : m.closeBundle cur.vector cur.descWrite =
      { l.closeBundle cur.vector cur.descWrite with qs := qs, ep := { l.ep with regs := r } } := by
    rw [hm]
    unfold LCore.closeBundle LCore.mergeStat
    cases cur.vector <;> cases cur.descWrite <;> simp <;> split <;> simp
  have hl : (m.closeBundle cur.vector cur.descWrite).lateWrite cur.regWrite =
      { l.closeBundle cur.vector cur.descWrite with
        qs := ((m.closeBundle cur.vector cur.descWrite).lateWrite cur.regWrite).qs
        ep := { l.ep with regs := ((m.closeBundle cur.vector cur.descWrite).lateWrite cur.regWrite).ep.regs } } := by
    rw [LCore.lateWrite_frame, hb]
    rfl
  obtain ⟨-, hap, -⟩ := LCore.closeBundle_strm l cur.vector cur.descWrite
  unfold LCore.retireEp
  generalize (m.closeBundle cur.vector cur.descWrite).lateWrite cur.regWrite = x at hl
  simp only []
  rw [hl]
  refine ⟨?_, hap, ?_⟩
  · simp only [Strm.retire_regs]
  · subst hm
    rfl

/-- `commit` of the syllable that ends its bundle. -/
theorem State.commit_close (s : State) (c k : Nat) (u : Use) (d : Nat) (v : Word) (f : Flow)
    (hs : namedTwice u.srcs = false) (ho : s.cur.left = 0) :
    Retired s (s.commit (.core true c k) u d v f) (.core true c k) u d v f := by
  have ht := LCore.taken (s.lcAt k) true u.srcs d v hs
  have hc : s.commit (.core true c k) u d v f =
      (s.setLc k ((((s.lcAt k).pops u.srcs).setReg true d v).retireEp s.cur u.q f)).verdict .done := by
    simp only [State.commit, State.pops, State.dst, State.retire, State.lcAt_setLc_same, State.setLc_setLc]
    rw [State.setLc_cur, if_pos ho]
  rw [hc]
  clear hc
  generalize ((s.lcAt k).pops u.srcs).setReg true d v = m at ht
  obtain ⟨hr, hq, hf⟩ := ht
  obtain ⟨hreg, hque⟩ := LCore.retireEp_reads m s.cur u.q f
  obtain ⟨fe, fa, fm⟩ := LCore.retireEp_frame (s.lcAt k) m s.cur u.q f _ _ hf
  refine ⟨rfl, State.onlyCore_setLc _ _ _ _, ?_, ?_, ?_, ?_⟩
  · simp [cursorAfter, ho]
  · intro n hn
    rw [State.lcAt_verdict, State.lcAt_setLc_same, hreg n hn, LCore.lateWrite_reg _ _ _ hn]
    simp only [closingWrite, ho, and_self, if_true, hr n hn]
    by_cases h0 : n = 0
    · subst h0
      cases s.cur.regWrite <;> simp
    · cases s.cur.regWrite <;> simp [h0]
  · intro n hn
    rw [State.lcAt_verdict, State.lcAt_setLc_same, hque, LCore.lateWrite_queue, hq n]
    simp only [closingWrite, ho, and_self, if_true] <;>
    (cases s.cur.regWrite <;> simp)
  · rw [State.lcAt_verdict, State.lcAt_setLc_same]
    generalize m.retireEp s.cur u.q f = x at fe fa fm
    refine ⟨?_, fa, ?_, ?_⟩
    · simp only [wentOn, ho, if_true]
      exact fe
    · rw [fm]
      simp only [rillAfter, ho, if_true]
    · simp only [ho, ne_eq, not_true_eq_false, and_false, if_false, closed, and_self, if_true, Bool.true_or]
      rw [fm]

/-- `commit` in a Sluice core. -/
theorem State.commit_sluice (s : State) (n : Nat) (u : Use) (d : Nat) (v : Word) (f : Flow) :
    Retired s (s.commit (.sluice n) u d v f) (.sluice n) u d v f := by
  have hc : s.commit (.sluice n) u d v f =
      (s.setSl n { (s.slAt n).setReg d v with pc := sluiceNext s f, stall := none }).verdict .done := by
    simp only [State.commit, State.pops, State.dst, State.retire, State.slAt_setSl_same, State.setSl_setSl]
    rfl
  rw [hc]
  have hx := Sluice.setReg_frame (s.slAt n) d v
  have hg := Sluice.reg_setReg (s.slAt n) d v
  generalize (s.slAt n).setReg d v = x at hx hg
  have hl : State.slAt ((s.setSl n { x with pc := sluiceNext s f, stall := none }).verdict .done) n =
      { x with pc := sluiceNext s f, stall := none } := State.slAt_setSl_same ..
  refine ⟨rfl, ⟨fun j hj => by simp [hj], rfl⟩, ?_, rfl, ?_⟩
  · intro r
    rw [hl, ← hg r]
    rfl
  · rw [hl, hx]

/-- `commit` in a stream of a logical core, when no queue is a source twice. -/
theorem State.commit_core (r : State) (ep : Bool) (c k : Nat) (u : Use) (hs : namedTwice u.srcs = false) (d : Nat) (v : Word)
    (f : Flow) : Retired r (r.commit (.core ep c k) u d v f) (.core ep c k) u d v f := by
  cases ep with
  | false => exact State.commit_ap r c k u d v f hs
  | true =>
    by_cases ho : r.cur.left = 0
    · exact State.commit_close r c k u d v f hs ho
    · exact State.commit_open r c k u d v f hs ho

/-- `commit`: the running word takes its sources, writes one register or queue and goes on; nothing else differs. Issue may
have been decided in an earlier state `s`. -/
theorem State.commit_retired_from {s : State} {w : Who} {u : Use} (h : s.issue w u = .go) (r : State) (d : Nat) (v : Word)
    (f : Flow) : Retired r (r.commit w u d v f) w u d v f := by
  cases w with
  | sluice n => exact State.commit_sluice r n u d v f
  | core ep c k => exact State.commit_core r ep c k u (State.issue_go_srcs h) d v f

theorem State.commit_retired (s : State) (w : Who) (u : Use) (d : Nat) (v : Word) (f : Flow) (h : s.issue w u = .go) :
    Retired s (s.commit w u d v f) w u d v f :=
  State.commit_retired_from h s d v f

theorem State.commit0_eq (s : State) (w : Who) (u : Use) (v : Word) (f : Flow) : s.commit0 w u f = s.commit w u 0 v f := by
  cases w with
  | sluice n => simp [State.commit0, State.commit, State.dst, State.retire, Sluice.setReg]
  | core ep c k =>
    have hr (l : LCore) : l.setReg ep 0 v = l := rfl
    have hz : (s.pops (.core ep c k) u.srcs).dst (.core ep c k) 0 v = s.pops (.core ep c k) u.srcs := by
      simp [State.pops, State.dst, hr]
    rw [State.commit0, State.commit, hz]

/-- `commit0`: as `commit`, with nothing written. -/
theorem State.commit0_retired_from {s : State} {w : Who} {u : Use} (h : s.issue w u = .go) (r : State) (v : Word) (f : Flow) :
    Retired r (r.commit0 w u f) w u 0 v f := by
  rw [State.commit0_eq r w u v f]
  exact State.commit_retired_from h r 0 v f

theorem State.commit0_retired (s : State) (w : Who) (u : Use) (v : Word) (f : Flow) (h : s.issue w u = .go) :
    Retired s (s.commit0 w u f) w u 0 v f :=
  State.commit0_retired_from h s v f

/-! ## Signals -/

/-- A word that issues has room for its signals, and issues without them as well. -/
theorem State.issue_go_unsignalled {s : State} {c k : Nat} {u : Use} (h : s.issue (.core true c k) u = .go) :
    s.issue (.core true c k) { u with q := { u.q with sp := false, sn := false } } = .go ∧
    (s.lcAt k).rillFull posV u.q = false := by
  have hw : ∀ p, (s.lcAt k).rillWait p { u.q with sp := false, sn := false } = (s.lcAt k).rillWait p u.q := fun _ => rfl
  have hf : ∀ p, (s.lcAt k).rillFull p { u.q with sp := false, sn := false } = false := fun _ => by simp [LCore.rillFull]
  simp only [State.issue, Bool.not_true, Bool.false_and, Bool.false_eq_true, if_false, if_true] at h ⊢
  by_cases he : u.ep = true <;> simp only [he, Bool.not_true, Bool.not_false, Bool.false_eq_true, if_false, if_true, reduceCtorEq] at h ⊢
  by_cases hb : badQueueUse true u.srcs u.dsts = true <;> simp only [hb, if_true, if_false, Bool.false_eq_true, reduceCtorEq] at h ⊢
  cases ho : (s.lcAt k).operandStall true u.srcs u.dsts <;> simp only [ho, reduceCtorEq] at h ⊢
  simp only [LCore.rillStall, posOf, if_true, hw, hf] at h ⊢
  cases hr : (s.lcAt k).rillWait posV u.q <;> simp only [hr, reduceCtorEq] at h ⊢
  cases hx : (s.lcAt k).rillFull posV u.q <;> simp [hx] at h ⊢

/-! ## Running a meaning -/

theorem State.onStream_who {s : State} {w : Who} (h : s.who = some w) (f : Who → State) : s.onStream f = .next (f w) := by
  simp only [State.onStream, h]

theorem State.issued_go {s : State} {w : Who} {u : Use} (h : s.issue w u = .go) (b : State) : s.issued w u b = b := by
  simp only [State.issued, h]

theorem State.issued_illegal {s : State} {w : Who} {u : Use} (h : s.issue w u = .illegal) (b : State) :
    s.issued w u b = s.illegal w u.unit := by
  simp only [State.issued, h]

theorem State.issued_stall {s : State} {w : Who} {u : Use} {x : StallOn} (h : s.issue w u = .stall x) (b : State) :
    s.issued w u b = s.stallOn w x := by
  simp only [State.issued, h]

end Sys2Proof.Machine
end

