-- ==== Sys2Proof/Laws/Traps.lean ====
section
/-! SUPPORT. What taking a trap does, said once. -/

namespace Sys2Proof.Machine

open Sys2Proof.Safety

theorem bytesOf_length (n v : Nat) : (bytesOf n v).length = n := by
  induction n generalizing v with
  | zero => rfl
  | succ n ih => simp [bytesOf, ih]

theorem State.recordHead_length (s : State) (c k : Nat) (x : TrapInfo) (at_ : Word) (fl : Nat) : (s.recordHead c k x at_ fl).length = 64 := rfl

theorem flatMap_length {α : Type} (f : α → List Byte) (n : Nat) (h : ∀ a, (f a).length = n) (l : List α) :
    (l.flatMap f).length = n * l.length := by
  induction l with
  | nil => rfl
  | cons a l ih => simp [h, ih, Nat.mul_add, Nat.add_comm]

theorem State.recordStatus_length (s : State) (k : Nat) (x : TrapInfo) : (s.recordStatus k x).length = 64 := by
  simp only [State.recordStatus, List.length_append, bytesOf_length]

theorem State.recordRest_length (s : State) (c k : Nat) : (s.recordRest c k).length = 128 := by
  simp only [State.recordRest, List.length_append, bytesOf_length]
  rw [flatMap_length _ 1 (fun _ => bytesOf_length ..), flatMap_length _ 4 (fun _ => by simp [bytesOf_length]),
    flatMap_length _ 1 (fun _ => bytesOf_length ..)]
  rfl

theorem State.faultRecord_length (s : State) (c k : Nat) (x : TrapInfo) (a : Word) (b d : Bool) :
    (s.faultRecord c k x a b d).length = 256 := by
  simp only [State.faultRecord, List.length_append, State.recordHead_length, State.recordStatus_length,
    State.recordRest_length]

/-- A part of the record's first 64 bytes. -/
theorem State.faultRecord_part (s : State) (c k : Nat) (x : TrapInfo) (a : Word) (b d : Bool) :
    ∃ fl, ∀ i n, i + n ≤ 64 →
      ((s.faultRecord c k x a b d).drop i).take n = ((s.recordHead c k x a fl).drop i).take n := by
  refine ⟨(if b then 1 else 0) + (if (s.lcAt k).pend = [] then 0 else 4) + (if d then 8 else 0),
    fun i n h => ?_⟩
  unfold State.faultRecord
  simp only []
  rw [List.drop_append, State.recordHead_length, List.take_append, List.length_drop, State.recordHead_length]
  simp [show n - (64 - i) = 0 by omega]

/-- The record stands in memory, and nothing else has changed. -/
theorem State.writeRecord_written (s : State) (c k : Nat) (x : TrapInfo) (a : Word) (b d : Bool) :
    RecordWritten s (s.writeRecord c k x a b d) c k x a (s.lcAt k).apResume (s.lcAt k).epResume := by
  unfold State.writeRecord
  have hl := State.faultRecord_length s c k x a b d
  obtain ⟨fl, hr⟩ := State.faultRecord_part s c k x a b d
  have hp : ∀ i n, i + n ≤ 64 → (s.setRaws (recordAt s c k) (s.faultRecord c k x a b d)).rawBytes (recordAt s c k + i) n =
      ((s.recordHead c k x a fl).drop i).take n := by
    intro i n h
    rw [State.rawBytes_setRaws_part _ _ _ _ _ (by omega), hr i n h]
  generalize hf : s.faultRecord c k x a b d = r at *
  exact ⟨fun pa h => State.rawByte_setRaws_outside _ _ _ _ (by rw [hl]; exact h),
    hp 0 2 (by omega), hp 2 1 (by omega), hp 3 1 (by omega), hp 4 1 (by omega), hp 6 2 (by omega), hp 8 8 (by omega), hp 0x10 8 (by omega),
    hp 0x18 8 (by omega), hp 0x20 8 (by omega), hp 0x28 8 (by omega), hp 0x30 8 (by omega), hp 0x38 4 (by omega)⟩

theorem State.setLc_mem_comm (s : State) (k : Nat) (l : LCore) (m : SMap Byte) :
    ({ s.setLc k l with mem := m } : State) = ({ s with mem := m } : State).setLc k l := rfl

/-- The record of a state whose logical core `k` alone differs, with the same number and context. -/
theorem RecordWritten.of_setLc {s t : State} {c k : Nat} {l : LCore} {x : TrapInfo} {at_ ap ep : Word}
    (h : RecordWritten (s.setLc k l) t c k x at_ ap ep) (hc : l.ctx = (s.lcAt k).ctx) (hi : l.lcid = (s.lcAt k).lcid) :
    RecordWritten s t c k x at_ ap ep := by
  simp only [RecordWritten, recordAt, State.lcAt_setLc_same, hc, hi] at h
  exact h

theorem tvec_align (v : Word) : toW (v.toNat / 4 * 4) = v &&& ~~~ 3 := by
  apply BitVec.eq_of_getLsbD_eq
  intro i hi
  have h : (~~~ (3 : Word)).getLsbD i = decide (2 ≤ i) := by
    have : ∀ j : Fin 64, (~~~ (3 : Word)).getLsbD j.val = decide (2 ≤ j.val) := by decide
    exact this ⟨i, hi⟩
  rw [BitVec.getLsbD_and, h]
  simp only [toW, BitVec.getLsbD_ofNat, hi, decide_true, Bool.true_and]
  rw [show (4 : Nat) = 2 ^ 2 from rfl, Nat.mul_comm, Nat.testBit_two_pow_mul]
  by_cases h2 : 2 ≤ i
  · simp only [h2, decide_true, Bool.true_and, Bool.and_true, BitVec.getLsbD]
    rw [show v.toNat / (2 ^ 2) = v.toNat / 2 ^ 2 from rfl, Nat.testBit_div_two_pow]
    congr 1
    omega
  · simp [h2]

theorem LCore.stopVector_frame (l : LCore) (b : Bool) :
    l.stopVector b = { l with vprog := (l.stopVector b).vprog, vpos := (l.stopVector b).vpos } := by
  unfold LCore.stopVector
  split <;> rfl

/-- TSTATUS at a trap, in bits. -/
theorem trapStatus (strm tm : Bool) :
    (toW ((if strm then 2 else 0) + (if tm then 1 else 0))).getLsbD 0 = tm ∧
    toW ((if strm then 2 else 0) + (if tm then 1 else 0)) ||| 1 = toW ((if strm then 2 else 0) + 1) := by
  cases strm <;> cases tm <;> decide

theorem LCore.trapped_trapMode (l : LCore) (x : TrapInfo) : (l.trapped x).trapMode = l.trapMode := by
  have h : ∀ b, ((l.stopVector b).trapRegs x).trapMode = l.trapMode := by
    intro b
    rw [LCore.stopVector_frame]
    exact (trapStatus x.strm l.trapMode).1
  unfold LCore.trapped
  split <;> exact h _

theorem LCore.trapped_same (l : LCore) (x : TrapInfo) :
    (l.trapped x).ctx = l.ctx ∧ (l.trapped x).lcid = l.lcid ∧ (l.trapped x).tvec = l.tvec := by
  unfold LCore.trapped
  rw [LCore.stopVector_frame]
  split <;> exact ⟨rfl, rfl, rfl⟩

/-- What a trap leaves of the logical core's fields. -/
theorem LCore.trapped_toHandler (l : LCore) (x : TrapInfo) :
    (l.trapped x).toHandler x =
      if l.trapMode then { trapRegisters l x true with esc := some ⟨.nested, x, false⟩ }
      else if l.tvec = 0 then { trapRegisters l x false with
        apResume := l.ap.pc
        epResume := l.ep.pc
        trapUnit := x.unit
        esc := some ⟨.noHandler, x, false⟩ }
      else { trapRegisters l x true with
        apResume := l.ap.pc
        epResume := l.ep.pc
        trapUnit := x.unit
        trapCycles := 0
        ap := { l.ap with pc := l.tvec &&& ~~~ 3, stall := none, stallCycles := 0 } } := by
  have hp : (({ l.stopVector (x.unit == 2 && x.cause != cIllegal && x.cause != cVectorOperand) with
      tcause := tcauseOf x } : LCore).count 12 1).pcs = (l.count 12 1).pcs := by
    rw [LCore.stopVector_frame]
    rfl
  have hc : tcauseOf x = BitVec.ofNat 64 (x.cause % 256 + 256 * (x.unit % 256) + 65536 * (x.syl % 16)) := by
    rw [Nat.mul_comm 256, Nat.mul_comm 65536]
    rfl
  have htm := LCore.trapped_trapMode l x
  have htv := (LCore.trapped_same l x).2.2
  unfold LCore.toHandler
  simp only [htm, htv]
  simp only [trapRegisters, LCore.trapped, ← hc, ← tvec_align]
  rw [LCore.stopVector_frame]
  generalize (l.stopVector (x.unit == 2 && x.cause != cIllegal && x.cause != cVectorOperand)).vprog = a
  generalize (l.stopVector (x.unit == 2 && x.cause != cIllegal && x.cause != cVectorOperand)).vpos = b
  have h2 := (trapStatus x.strm false).2
  simp only [LCore.trapMode, LCore.trapRegs, LCore.count, LCore.stopEngines]
  by_cases hm : wbit l.tstatus 0 = true
  case neg =>
    replace hm : wbit l.tstatus 0 = false := by simpa using hm
    simp only [hm]
    by_cases hz : l.tvec = 0
    · simp only [hz, if_true, Bool.false_eq_true, if_false]
      rfl
    · simp only [hz, Bool.false_eq_true, if_false, if_true]
      simp only [Bool.false_eq_true, if_false] at h2
      rw [h2]
      rfl
  case pos =>
    simp only [hm, if_true]
    rfl

theorem State.record_then_setLc (s r : State) (c k : Nat) (l n : LCore) (x : TrapInfo) (at_ ap ep : Word)
    (hr : r = { s.setLc k l with mem := r.mem }) (hw : RecordWritten (s.setLc k l) r c k x at_ ap ep)
    (hc : l.ctx = (s.lcAt k).ctx) (hi : l.lcid = (s.lcAt k).lcid) (t : State) (ht : t = (r.setLc k n).verdict .trapped) :
    t = { s with mem := t.mem, lcores := t.lcores, cur := { s.cur with verdict := .trapped } } ∧
    (∀ j, j ≠ k → t.lcores.at? j = s.lcores.at? j) ∧ RecordWritten s t c k x at_ ap ep ∧ t.lcAt k = n := by
  have hm : RecordWritten (s.setLc k l) t c k x at_ ap ep := by rw [ht]; exact hw
  refine ⟨?_, ?_, RecordWritten.of_setLc hm hc hi, by rw [ht]; exact State.lcAt_setLc_same r k n⟩
  · rw [ht, hr]
    rfl
  · intro j hj
    rw [ht, hr]
    simp [State.verdict, State.setLc, hj]

/-- What taking a trap writes: the record and the logical core's own fields; nothing else differs. -/
theorem State.takeTrap_frame (s : State) (c k : Nat) (x : TrapInfo) :
    s.takeTrap c k x = { s with
      mem := (s.takeTrap c k x).mem
      lcores := (s.takeTrap c k x).lcores
      cur := { s.cur with verdict := .trapped } } ∧
    (∀ j, j ≠ k → (s.takeTrap c k x).lcores.at? j = s.lcores.at? j) ∧
    RecordWritten s (s.takeTrap c k x) c k x (stampOf s k) ((s.lcAt k).trapped x).apResume ((s.lcAt k).trapped x).epResume ∧
    (s.takeTrap c k x).lcAt k = ((s.lcAt k).trapped x).toHandler x := by
  obtain ⟨hc, hi, -⟩ := LCore.trapped_same (s.lcAt k) x
  have hw := State.writeRecord_written (s.setLc k ((s.lcAt k).trapped x)) c k x (s.detectedAt k) ((s.lcAt k).trapped x).trapMode false
  rw [State.lcAt_setLc_same] at hw
  refine State.record_then_setLc s _ c k ((s.lcAt k).trapped x) _ x _ _ _ ?_ hw hc hi _ (by unfold State.takeTrap; rfl)
  exact State.setRaws_frame _ _ _

/-- 07_traps.md R143: with a handler, and outside trap mode, a trap enters it. -/
theorem State.takeTrap_enters (s : State) (c k : Nat) (x : TrapInfo) (h : HasHandler s k) :
    HandlerEntered s (s.takeTrap c k x) c k x := by
  obtain ⟨hv, ht⟩ := h
  have hv' : ¬ (s.lcAt k).tvec = 0 := fun h0 => hv (by rw [h0]; rfl)
  obtain ⟨h1, h2, h3, h4⟩ := State.takeTrap_frame s c k x
  refine ⟨h1, h2, ?_, ?_⟩
  · have hr : ((s.lcAt k).trapped x).apResume = (s.lcAt k).ap.pc ∧ ((s.lcAt k).trapped x).epResume = (s.lcAt k).ep.pc := by
      unfold LCore.trapped
      rw [LCore.stopVector_frame]
      simp only [ht]
      exact ⟨rfl, rfl⟩
    rw [hr.1, hr.2] at h3
    exact h3
  · rw [h4, LCore.trapped_toHandler]
    simp only [ht, hv', Bool.false_eq_true, if_false]

/-- 07_traps.md R147: with no handler, or in trap mode, it escalates. -/
theorem State.takeTrap_escalates (s : State) (c k : Nat) (x : TrapInfo)
    (h : (s.lcAt k).tvec = 0 ∨ (s.lcAt k).trapMode = true) :
    (s.takeTrap c k x).lcAt k =
      if (s.lcAt k).trapMode then { trapRegisters (s.lcAt k) x true with esc := some ⟨.nested, x, false⟩ }
      else { trapRegisters (s.lcAt k) x false with
        apResume := (s.lcAt k).ap.pc
        epResume := (s.lcAt k).ep.pc
        trapUnit := x.unit
        esc := some ⟨.noHandler, x, false⟩ } := by
  rw [(State.takeTrap_frame s c k x).2.2.2, LCore.trapped_toHandler]
  cases hm : (s.lcAt k).trapMode
  · simp only [Bool.false_eq_true, if_false]
    rcases h with h | h
    · simp only [h, if_true]
    · simp [hm] at h
  · rfl

/-- 15_sluice.md R282: the trap of a Sluice core that has a handler and does not run it. -/
theorem State.sluiceTrap_enters (s : State) (n cause : Nat) (epc addr : Word) (h : SluiceHasHandler s n) :
    SluiceHandlerEntered s (s.sluiceTrap n cause epc addr) n cause epc addr := by
  obtain ⟨hv, ht⟩ := h
  have hz : ¬ ((s.slAt n).trapMode = true ∨ (s.slAt n).svec.toNat / 4 = 0) := by
    rw [ht]
    simp
    omega
  unfold State.sluiceTrap
  simp only [if_neg hz]
  refine ⟨rfl, ⟨fun j hj => by simp [State.verdict, State.setSl, hj], rfl⟩, rfl, ?_⟩
  rw [← tvec_align]
  exact State.slAt_setSl_same ..

/-- A trap of the running word, where there is a handler. -/
theorem State.raise_trapped (s : State) (w : Who) (unit cause : Nat) (addr : Word) (h : MayTrap s w) :
    Trapped s (s.raise w unit cause addr) w unit cause addr := by
  cases w with
  | core ep c k => exact State.takeTrap_enters s c k _ h
  | sluice n => exact State.sluiceTrap_enters s n cause s.cur.pc addr h

/-- A stall of the running stream. -/
theorem State.stallOn_stalled (s : State) (w : Who) (why : StallOn) : Stalled s (s.stallOn w why) w why := by
  cases w with
  | core ep c k => exact ⟨rfl, rfl, State.onlyCore_setLc .., State.lcAt_setLc_same ..⟩
  | sluice n => exact ⟨rfl, rfl, ⟨fun j hj => by simp [State.stallOn, State.verdict, State.setSl, hj], rfl⟩, State.slAt_setSl_same ..⟩

end Sys2Proof.Machine
end

