-- ==== Sys2Proof/Laws/Vector.lean ====
section
/-! SUPPORT. The vector unit: how a run of steps goes on, what retiring a syllable leaves, and what writes of elements keep. -/

namespace Sys2Proof.Machine

open Sys2Proof.Safety

/-! ## Runs of steps -/

theorem State.runBeats_done (k : Nat) (v : VOp) (fuel : Nat) (s : State) (h : v.work (s.lcAt k) ≤ (s.lcAt k).vdone) :
    State.runBeats k v fuel s = (s, .done) := by
  cases fuel with
  | zero => rfl
  | succ n => simp only [State.runBeats, h, if_true]

theorem State.runBeats_step {k : Nat} {v : VOp} (fuel : Nat) {s s1 : State} {n flags mag : Nat} {nan : Bool} {pos : Option Nat}
    (h : (s.lcAt k).vdone < v.work (s.lcAt k)) (hs : s.vstep k v = .ok s1 n flags nan mag pos) :
    State.runBeats k v (fuel + 1) s = State.runBeats k v fuel (s1.vcommit k v.num n flags nan mag pos) := by
  have h' : ¬ v.work (s.lcAt k) ≤ (s.lcAt k).vdone := by omega
  simp only [State.runBeats, h', if_false, hs]

theorem State.runBeats_fault {k : Nat} {v : VOp} (fuel : Nat) {s : State} {c : Nat} {a : Word} {t : Bool}
    (h : (s.lcAt k).vdone < v.work (s.lcAt k)) (hs : s.vstep k v = .fault c a t) :
    State.runBeats k v (fuel + 1) s = (s, .fault c a t) := by
  have h' : ¬ v.work (s.lcAt k) ≤ (s.lcAt k).vdone := by omega
  simp only [State.runBeats, h', if_false, hs]

theorem State.runBeats_wait {k : Nat} {v : VOp} (fuel : Nat) {s : State} {j p : Nat}
    (h : (s.lcAt k).vdone < v.work (s.lcAt k)) (hs : s.vstep k v = .wait j p) :
    State.runBeats k v (fuel + 1) s = (s, .wait j p) := by
  have h' : ¬ v.work (s.lcAt k) ≤ (s.lcAt k).vdone := by omega
  simp only [State.runBeats, h', if_false, hs]

theorem State.runBeats_assist {k : Nat} {v : VOp} (fuel : Nat) {s : State}
    (h : (s.lcAt k).vdone < v.work (s.lcAt k)) (hs : s.vstep k v = .assist) :
    State.runBeats k v (fuel + 1) s = (s, .fault cSubnormalAssist 0 false) := by
  have h' : ¬ v.work (s.lcAt k) ≤ (s.lcAt k).vdone := by omega
  simp only [State.runBeats, h', if_false, hs]

/-! ## Retirement -/

/-- The state that a vector syllable's retirement starts from: its descriptor and its queue entry wait for the bundle. -/
def State.vresults (s : State) (k : Nat) (v : VOp) : State :=
  { s with cur := { s.cur with
    descWrite := match v.dw (s.lcAt k) with
      | some x => some x
      | none => s.cur.descWrite
    regWrite := match v.result s k, v.dsts with
      | some x, d :: _ => some (d, x)
      | _, _ => s.cur.regWrite } }

/-- What a vector syllable asks for, its signals included. -/
def VOp.full (v : VOp) : Use := { v.use with q := v.q }

theorem State.vretire_eq (s : State) (c k : Nat) (v : VOp) (hp : v.pair = none) :
    s.vretire (.core true c k) k v = (s.vresults k v).commit0 (.core true c k) v.full .next := by
  unfold State.vretire State.vresults State.commit0
  rw [hp]
  rfl

theorem State.vretire_retired {s : State} (c k : Nat) (v : VOp) (hi : s.issue (.core true c k) v.full = .go) (r : State)
    (hp : v.pair = none) : Retired (r.vresults k v) (r.vretire (.core true c k) k v) (.core true c k) v.full 0 0 .next := by
  rw [State.vretire_eq r c k v hp]
  exact State.commit0_retired_from hi _ 0 .next

/-- A vector syllable that is in order and may issue: how its steps end decides what it answers; only its retirement waits for
room for its signals. -/
theorem vexec_runs (v : VOp) (s : State) (c k : Nat) (hw : s.who = some (.core true c k)) (hl : v.illegal (s.lcAt k) = false)
    (hi : s.issue (.core true c k) v.use = .go) (hp : v.pair = none) (ho : v.operand (s.lcAt k) = false) :
    vexec v s = .next (match State.runBeats k v (v.work (s.lcAt k) + 1) s with
      | (s1, .done) =>
        if (s1.lcAt k).rillFull posV v.q then s1.stallOn (.core true c k) .rillRoom else s1.vretire (.core true c k) k v
      | (s1, .fault cause a t) => s1.raiseAcc (.core true c k) 2 cause a t
      | (s1, .wait j p) => s1.stallOn (.core true c k) (.page j p)) := by
  rw [vexec, State.onStream_who hw]
  simp only [hl, Bool.not_true, Bool.or_false, Bool.false_eq_true, if_false, State.issued_go hi, VOp.short, hp, ho] <;>
    (obtain ⟨s1, x⟩ := State.runBeats k v (v.work (s.lcAt k) + 1) s
     cases x <;> rfl)

/-- The last step of a vector syllable: it commits, and the syllable retires. -/
theorem vexec_last (v : VOp) (s s1 : State) (c k : Nat) {n flags mag : Nat} {nan : Bool} {pos : Option Nat}
    (hw : s.who = some (.core true c k)) (hl : v.illegal (s.lcAt k) = false) (hi : s.issue (.core true c k) v.use = .go)
    (hp : v.pair = none) (ho : v.operand (s.lcAt k) = false) (hd : (s.lcAt k).vdone < v.work (s.lcAt k))
    (hs : s.vstep k v = .ok s1 n flags nan mag pos)
    (he : v.work ((s1.vcommit k v.num n flags nan mag pos).lcAt k) ≤ ((s1.vcommit k v.num n flags nan mag pos).lcAt k).vdone)
    (hf : ((s1.vcommit k v.num n flags nan mag pos).lcAt k).rillFull posV v.q = false) :
    vexec v s = .next ((s1.vcommit k v.num n flags nan mag pos).vretire (.core true c k) k v) := by
  rw [vexec_runs v s c k hw hl hi hp ho, State.runBeats_step _ hd hs, State.runBeats_done _ _ _ _ he]
  simp only [hf, Bool.false_eq_true, if_false]

/-! ## Elements -/

theorem State.setLsBytes_frame (bs : List Byte) (s : State) (l : LCore) (o : Nat) :
    s.setLsBytes l o bs = { s with mem := (s.setLsBytes l o bs).mem } := by
  induction bs generalizing s o with
  | nil => rfl
  | cons b bs ih =>
    have := ih (s.setRaw (l.lsPa o) b) (o + 1)
    simpa [State.setLsBytes, State.setRaw] using this

theorem State.setLsBytes_wf (bs : List Byte) (s : State) (l : LCore) (o : Nat) (h : MemoryOk s) :
    MemoryOk (s.setLsBytes l o bs) := by
  induction bs generalizing s o with
  | nil => exact h
  | cons b bs ih => exact ih _ _ (State.setRaw_wf _ _ _ h)

theorem State.writeEl_frame (s : State) (l : LCore) (x : El) (v : Nat) :
    s.writeEl l x v = { s with mem := (s.writeEl l x v).mem } := State.setLsBytes_frame _ _ _ _

theorem State.writeEls_frame (s : State) (l : LCore) (ws : List (El × Nat)) :
    s.writeEls l ws = { s with mem := (s.writeEls l ws).mem } := by
  induction ws generalizing s with
  | nil => rfl
  | cons w ws ih =>
    show (s.writeEl l w.1 w.2).writeEls l ws = { s with mem := ((s.writeEl l w.1 w.2).writeEls l ws).mem }
    rw [ih, State.writeEl_frame]

theorem State.writeEls_wf (s : State) (l : LCore) (ws : List (El × Nat)) (h : MemoryOk s) : MemoryOk (s.writeEls l ws) := by
  induction ws generalizing s with
  | nil => exact h
  | cons w ws ih => exact ih _ (State.setLsBytes_wf _ _ _ _ h)

@[simp] theorem State.lcAt_writeEls (s : State) (l : LCore) (ws : List (El × Nat)) (k : Nat) :
    (s.writeEls l ws).lcAt k = s.lcAt k := by
  rw [State.writeEls_frame]
  rfl

/-- Elements that pass every check. -/
theorem State.checkEls_ok (s : State) (l : LCore) (els : List El)
    (h : ∀ x ∈ els, x.mis = false ∧ x.outside = false ∧ l.elUnallotted x = false ∧
      s.inRange l.ctx (winLocal + x.off) x.len = false ∧ l.elAbsent x = none) : s.checkEls l els = .ok := by
  have h1 : els.find? El.mis = none := List.find?_eq_none.2 fun x hx => by simp [(h x hx).1]
  have h2 : els.find? El.outside = none := List.find?_eq_none.2 fun x hx => by simp [(h x hx).2.1]
  have h3 : els.find? l.elUnallotted = none := List.find?_eq_none.2 fun x hx => by simp [(h x hx).2.2.1]
  have h4 : els.find? (fun x => s.inRange l.ctx (winLocal + x.off) x.len) = none :=
    List.find?_eq_none.2 fun x hx => by simp [(h x hx).2.2.2.1]
  have h5 : els.findSome? l.elAbsent = none := List.findSome?_eq_none_iff.2 fun x hx => (h x hx).2.2.2.2
  simp only [State.checkEls, h1, h2, h3, h4, h5]

end Sys2Proof.Machine
end

