-- ==== Sys2Proof/Tests/Slice0.lean ====
section
/-! SUPPORT. Tests, and witnesses: for each statement, states and operands that meet its hypotheses. The expected values come
from the spec's worked examples and tables. -/

namespace Sys2Proof.Tests

set_option Elab.async false

open Sys2Proof.Machine
open Sys2Proof.Safety
open Sys2Proof.Spec

/-! ## A small machine -/

/-- A logical core of context 1 with a handler at 0x2000, on the bank of physical core 0. -/
def l0 : LCore := { LCore.fresh with
  ctx := 1
  kern := { Kern.zero with apBase := 0x1000, apSize := 4096, epBase := 0x1000, epSize := 4096, banks := 15, units := 7, flags := 64 }
  loc := .banked 0
  ap := { Strm.fresh with pc := 0x1000 }
  ep := { Strm.fresh with pc := 0x1000 }
  launch := [(2, 1)]
  tvec := 0x2003 }

def p0 : PCore := { PCore.fresh with rot := [0], active := some 0, power := .awake }

/-- Context 1 with its page tables and 4 KiB of basin on die 0. -/
def x1 : Ctx := { Ctx.fresh with ptroot := 0x10000, grants := [(1, 4096)], sotab := 0x2800 }

def sl0 : Sluice := { Sluice.fresh with ctx := 1, bound := true, running := true, svec := 8 }

/-- The set-up machine, with pages 0x2000 and 0x3000 readable, writable and pinned, and `l` as its logical core. -/
def dev (l : LCore) : State :=
  { (((State.reset.setUp).setRaws 0x41010 (bytesOf 8 (leafRW + 0x43000))).setRaws 0x41018 (bytesOf 8 (leafRW + 0x44000))) with
    lcores := [(0, l)]
    cores := [(0, p0)]
    ctxs := [(1, x1)]
    sluices := [(0, sl0)] }

/-- The cursor of `s` on a one-word instruction of agent `a` at 0x1000. -/
def at_ (a : Agent) (s : State) : State := { s with cur := { Cursor.none with agent := some a, pc := 0x1000, next := 0x1004 } }

def apOf (l : LCore) : State := at_ (.ap 0) (dev l)
def epOf (l : LCore) : State := at_ (.ep 0) (dev l)
def slOf (x : Sluice) : State := at_ (.sluice 0) { dev l0 with sluices := [(0, x)] }

/-- `l0` with the registers `rs` in both streams. -/
def lr (rs : SMap Word) : LCore := { l0 with ap := { l0.ap with regs := rs }, ep := { l0.ep with regs := rs } }

/-- A handler runs. -/
def inTrap (l : LCore) : LCore := { l with tstatus := 1 }

abbrev apW : Who := .core false 0 0
abbrev epW : Who := .core true 0 0
abbrev slW : Who := .sluice 0
abbrev r0 : Rill := Rill.none

/-- The stream may issue the well-formed `i`. -/
abbrev Ready (s : State) (w : Who) (i : Instr) (u : Use) : Prop := s.who = some w ∧ i.wf = true ∧ s.issue w u = .go

/-- The access may proceed, and its result meets `p`. -/
def okAnd {α : Type} (x : Acc α) (p : α → Bool) : Bool :=
  match x with
  | .ok a => p a
  | _ => false

theorem okAnd_spec {α : Type} {x : Acc α} {p : α → Bool} (h : okAnd x p = true) : ∃ a, x = .ok a ∧ p a = true := by
  cases x with
  | ok a => exact ⟨a, rfl, h⟩
  | fault c a t => cases h
  | wait k q => cases h

/-- A successful access, whatever its result. -/
def isOk {α : Type} (x : Acc α) : Bool := okAnd x (fun _ => true)

theorem isOk_spec {α : Type} {x : Acc α} (h : isOk x = true) : ∃ a, x = .ok a := by
  obtain ⟨a, h, -⟩ := okAnd_spec h
  exact ⟨a, h⟩

/-! ## Witnesses: scalar instructions -/

theorem witness_IntegerResults :
    Ready (apOf l0) apW (.sub ⟨false, false, true, false⟩ false 31 0 23) (anywhere ⟨false, false, true, false⟩ false [0, 23] [23]) ∧
    Ready (epOf l0) epW (.div r0 true 30 23 0) (anywhere r0 true [23, 0] [30]) ∧
    Ready (slOf sl0) slW (.remu r0 false 31 24 31) (anywhere r0 false [24, 31] [31]) := by decide +kernel

theorem witness_ImmediateResults :
    Ready (apOf l0) apW (.addi r0 false 29 23 2047) (anywhere r0 false [23] [29]) ∧
    Ready (apOf l0) apW (.addiLiteral r0 29 23 4294967295) (apAndSluice r0 [23] [29]) ∧
    Ready (epOf l0) epW (.slli r0 true 1 1 63) (anywhere r0 true [1] [1]) ∧
    Ready (slOf sl0) slW (.li r0 false 31 65535) (anywhere r0 false [] [31]) ∧
    Ready (slOf sl0) slW (.liLiteral r0 31 0) (apAndSluice r0 [] [31]) ∧
    Ready (epOf l0) epW (.lsh r0 false 23 65535) (anywhere r0 false [23] [23]) := by decide +kernel

theorem witness_ControlTransfers :
    Ready (apOf l0) apW (.bgtz r0 false 23 1024) (anywhere r0 false [23] []) ∧
    (Ready (epOf { l0 with cq := [true] }) epW (.bcq r0 true 2047)
      { q := r0, e := true, ap := false, ep := true, sl := false, srcs := [], dsts := [], inTrap := false, unit := 1 } ∧
      ((epOf { l0 with cq := [true] }).lcAt 0).cq = true :: []) ∧
    Ready (slOf sl0) slW (.j r0 false 2097151) (anywhere r0 false [] []) ∧
    Ready (epOf l0) epW (.call r0 true 0) (anywhere r0 true [] [1]) ∧
    (Ready (apOf (lr [(1, 0x1FFC)])) apW (.jr r0 false 1 1) (anywhere r0 false [1] [1]) ∧
      ((apOf (lr [(1, 0x1FFC)])).src apW 1).toNat % 4 = 0) := by decide +kernel

/-- The EP's next word, with E set, stands at 0x1004. -/
def loopState : State := { epOf l0 with mem := (epOf l0).mem ++ [(0x42007, 8)] }

theorem witness_LoopResults :
    Ready (apOf l0) apW (.loop r0 false 2 23 1) (loopUse r0 false [23]) ∧
    Ready (apOf l0) apW (.loopiLiteral r0 0 2047 4294967295) (loopUse r0 false []) ∧
    (∃ y, loopState.fetchCore 0 (loopState.cur.next + BitVec.ofNat 64 (4 * (1 - 1))) = .ok y ∧ y.1.testBit 27 = true) ∧
    Ready loopState epW (.loopi r0 true 2 127 1) (loopUse r0 true []) :=
  ⟨by decide +kernel, by decide +kernel, okAnd_spec (by decide +kernel), by decide +kernel⟩

/-- Two active frames end at 0x1000: loop 2, which starts later, and loop 0. -/
def twoFrames : Strm := { Strm.fresh with
  loop0 := ⟨5, 0xFF0, 0x1000, true⟩
  loop2 := ⟨1, 0xFFC, 0x1000, true⟩ }

theorem witness_EndOfBody :
    (∀ i, i ∈ [2, 0] ↔ i < 3 ∧ (twoFrames.loop i).active = true ∧ (0x1000 : Word).toNat ≤ (twoFrames.loop i).last.toNat ∧
      (twoFrames.loop i).last.toNat < (0x1004 : Word).toNat) ∧
    [2, 0].Pairwise (fun i j => (twoFrames.loop j).first.toNat < (twoFrames.loop i).first.toNat ∨
      (twoFrames.loop j).first.toNat = (twoFrames.loop i).first.toNat ∧ j < i) ∧
    (twoFrames.retire false 0x1000 0x1004 (.goto 0x1004)).pc = 0xFF0 := by
  refine ⟨?_, by decide +kernel, by decide +kernel⟩
  intro i
  match i with
  | 0 => decide +kernel
  | 1 => decide +kernel
  | 2 => decide +kernel
  | n + 3 => exact ⟨fun h => by simp at h, fun h => absurd h.1 (by omega)⟩

/-! ## Witnesses: memory -/

/-- g1 = 0x2008 in a page, g2 in the basin, g3 at the last byte of local store, g4 in the multicast window, g5 misaligned, g8
in an execute-only page, g9 in a page that is not mapped, g10 between windows, g11 in the fault-record window, g12 = 2^57, g13 in
local store that is not allotted, g14 in a page of it that is not present, g15 past the basin grant, g16 in a page whose leaf
names no memory. -/
def memRegs : SMap Word :=
  [(1, 0x2008), (2, 0x01FFFF0040000000), (3, 0x01FFFF00001FFFF8), (4, 0x01FFFF0020000000), (5, 0x2001), (8, 0x1000),
    (9, 0x4000), (10, 0x01FFFF0000200000), (11, 0x01FFFF0060000000), (12, 2 ^ 57), (13, 0x01FFFF0000000000),
    (14, 0x01FFFF0000004000), (15, 0x01FFFF0040001000), (16, 0x5000)]

def lm : LCore := { lr memRegs with lsmap := [(1, 0x8000), (127, 0xC07F)] }

/-- The machine of `lm`, with the leaf of 0x5000, and with the range `r` listed. -/
def accState (r : SMap Word) : State :=
  (({ apOf lm with ctxs := [(1, { x1 with ranges := r })] }).setRaws 0x41028 (bytesOf 8 (leafRW + 2 ^ 39))).setRaws 0x42000
    (bytesOf 4 0x004217FF)

/-- Eight bytes at 0x2008, in basin and in local store are listed. -/
def listed : SMap Word := [(0, BitVec.twoPow 64 63), (1, 0x2008), (2, 8), (3, BitVec.twoPow 64 63), (4, 0x01FFFF0040000000), (5, 8)]

/-- The leaf that maps `va` for context `x`, and the physical address. -/
def leafAt (s : State) (x va : Nat) : Option (Nat × Nat × Word) :=
  match s.walk x va with
  | .leaf p e size => some (leafPa e size va, p, e)
  | _ => none

theorem leafAt_spec {s : State} {x va pa p : Nat} {e : Word} (h : leafAt s x va = some (pa, p, e)) :
    ∃ size, s.walk x va = .leaf p e size ∧ pa = leafPa e size va := by
  unfold leafAt at h
  split at h
  · next q f size hw =>
    simp only [Option.some.injEq, Prod.mk.injEq] at h
    obtain ⟨h1, h2, h3⟩ := h
    subst h1 h2 h3
    exact ⟨size, hw, rfl⟩
  · cases h

/-- What `leafAt` answers evaluates, its entry included. -/
theorem paged_of {s : State} {x va pa p : Nat} {q : Word → Bool} (h : (leafAt s x va).any (fun y => y.1 == pa && y.2.1 == p && q y.2.2) = true)
    (lo : va < 0x01FFFF0000000000) (m : mapped pa) : ∃ e, Paged s x va pa p e ∧ q e = true := by
  cases hl : leafAt s x va with
  | none => rw [hl] at h; cases h
  | some y =>
    obtain ⟨pa', p', e⟩ := y
    rw [hl] at h
    simp only [Option.any_some, Bool.and_eq_true, beq_iff_eq] at h
    obtain ⟨⟨h1, h2⟩, h3⟩ := h
    subst h1 h2
    obtain ⟨size, hw, hp⟩ := leafAt_spec hl
    exact ⟨e, ⟨lo, size, hw, hp, m⟩, h3⟩

theorem unmapped_of {s : State} {x va : Nat} (h : (leafAt s x va).any (fun y => decide (¬ mapped y.1)) = true) :
    ∃ p e size, s.walk x va = .leaf p e size ∧ ¬ mapped (leafPa e size va) := by
  cases hl : leafAt s x va with
  | none => rw [hl] at h; cases h
  | some y =>
    rw [hl] at h
    obtain ⟨size, hw, hp⟩ := leafAt_spec (pa := y.1) (p := y.2.1) (e := y.2.2) hl
    exact ⟨y.2.1, y.2.2, size, hw, hp ▸ of_decide_eq_true h⟩

/-- The walk of `va` faults. -/
def walkFault (s : State) (x va : Nat) : Option Nat :=
  match s.walk x va with
  | .fault c => some c
  | _ => none

theorem walkFault_spec {s : State} {x va c : Nat} (h : walkFault s x va = some c) : s.walk x va = .fault c := by
  unfold walkFault at h
  split at h
  · next d hw => rw [hw, Option.some.inj h]
  · cases h

theorem witness_LoadsAndStores :
    (Ready (apOf lm) apW (.ldD r0 6 1 127) (apAndSluice r0 [1] [6]) ∧
      ((apOf lm).src apW 1 + Spec.scaled 8 127).toNat % 8 = 0 ∧
      ∃ y, (apOf lm).loadAt apW ((apOf lm).src apW 1 + Spec.scaled 8 127) 8 = .ok y) ∧
    (Ready (apOf lm) apW (.ldBuLiteral r0 6 5 0) (apAndSluice r0 [5] [6]) ∧
      ∃ y, (apOf lm).loadAt apW ((apOf lm).src apW 5 + signed 32 0) 1 = .ok y) ∧
    (Ready (apOf lm) apW (.stW r0 6 2 63) (apAndSluice r0 [6, 2] []) ∧
      ((apOf lm).src apW 2 + Spec.scaled 4 63).toNat % 4 = 0 ∧
      ∃ y, (apOf lm).storeAt apW ((apOf lm).src apW 2 + Spec.scaled 4 63) (bytesOf 4 ((apOf lm).src apW 6).toNat) = .ok y) ∧
    (Ready (slOf sl0) slW (.stD r0 6 0 0) (apAndSluice r0 [6, 0] []) ∧
      ∃ y, (slOf sl0).storeAt slW ((slOf sl0).src slW 0 + Spec.scaled 8 0) (bytesOf 8 ((slOf sl0).src slW 6).toNat) = .ok y) :=
  ⟨⟨by decide +kernel, by decide +kernel, isOk_spec (by decide +kernel)⟩, ⟨by decide +kernel, isOk_spec (by decide +kernel)⟩,
    ⟨by decide +kernel, by decide +kernel, isOk_spec (by decide +kernel)⟩, ⟨by decide +kernel, isOk_spec (by decide +kernel)⟩⟩

/-- The checks of an access, each at an address that fails it. -/
theorem witness_AccessChecks :
    let s := accState []
    let va := fun n => (s.src apW n + Spec.scaled 8 0).toNat
    (Ready s apW (.ldD r0 6 10 0) (apAndSluice r0 [10] [6]) ∧ MayTrap s apW ∧ noWindow .load (va 10) ∧ noWindow .load (va 4) ∧
      noWindow .store (va 11) ∧ noWindow .load (va 12)) ∧
    s.walk 1 (va 9) = .fault 4 ∧
    (∃ p e size, s.walk 1 (va 16) = .leaf p e size ∧ ¬ mapped (leafPa e size (va 16))) ∧
    (∃ e, Paged s 1 (va 8) 0x42000 0x41008 e ∧ (!permits .store e) = true) ∧
    ((localEntry s 0 (va 13)).getLsbD 15 = false ∧ (localEntry s 0 (va 14)).getLsbD 15 = true ∧
      (localEntry s 0 (va 14)).getLsbD 14 = false ∧ s.inRange 1 (va 14) 8 = false) ∧
    ((s.ctxAt 1).grantSize ((va 15 - 0x01FFFF0040000000) / 2 ^ 27) ≤ (va 15 - 0x01FFFF0040000000) % 2 ^ 27) ∧
    ((∃ e, Paged (accState listed) 1 (va 1) 0x43008 0x41010 e ∧ permits .load e = true) ∧ (accState listed).inRange 1 (va 1) 8 = true) ∧
    (Granted (accState listed) 1 (va 2) 8 0x1000000000000 ∧ (accState listed).inRange 1 (va 2) 8 = true) ∧
    (Local s 0 (va 3) (paLocal 0 + 127 * 16384 + 16376) ∧ s.inRange 1 (va 3) 8 = false) := by
  exact ⟨by decide +kernel, walkFault_spec (by decide +kernel), unmapped_of (by decide +kernel),
    paged_of (by decide +kernel) (by decide +kernel) (by decide +kernel),
    by decide +kernel, by decide +kernel, ⟨paged_of (by decide +kernel) (by decide +kernel) (by decide +kernel), by decide +kernel⟩,
    by decide +kernel, by decide +kernel⟩

/-- Entries that a walk meets: an invalid one, one that leads on, a page, and one of neither form. -/
theorem witness_PageWalk :
    (apOf lm).ctxs.at? 1 = some x1 ∧ (apOf lm).ctxs.at? 2 = none ∧ ((apOf lm).entry 0x41020).getLsbD 0 = false ∧
    (apOf lm).entry 0x10000 &&& 0xFFF0000000000FFF = 1 ∧ (apOf lm).entry 0x41010 &&& 0xF2F0000000000E83 = 0x81 ∧
    (let e := ((apOf lm).setRaws 0x41028 (bytesOf 8 3)).entry 0x41028;
      e.getLsbD 0 = true ∧ e &&& 0xFFF0000000000FFF ≠ 1 ∧ e &&& 0xF2F0000000000E83 ≠ 0x81) ∧
    (apOf lm).formats = [] := by decide +kernel

theorem witness_MisalignedTraps :
    Ready (apOf lm) apW (.ldH r0 6 5 0) (apAndSluice r0 [5] [6]) ∧ MayTrap (apOf lm) apW ∧
    ((apOf lm).src apW 5 + Spec.scaled 2 0).toNat % 2 ≠ 0 ∧
    (Ready (apOf lm) apW (.stDLiteral r0 6 1 4294967295) (apAndSluice r0 [6, 1] []) ∧
      ((apOf lm).src apW 1 + signed 32 4294967295).toNat % 8 ≠ 0) ∧
    Ready (slOf { sl0 with regs := [(5, 0x2001)] }) slW (.stD r0 6 5 0) (apAndSluice r0 [6, 5] []) ∧
    MayTrap (slOf { sl0 with regs := [(5, 0x2001)] }) slW := by decide +kernel

theorem witness_StoreBytes :
    (∃ y, (apOf lm).storeAt apW 0x01FFFF0040000000 [1] = .ok y) ∧
    (∃ y, (apOf lm).place ((apOf lm).lcAt 0).ctx 0 .store (0x01FFFF0040000000 : Word).toNat = .ok y ∧
      (y == .phys 0x1000000000000 none) = true) ∧
    (∃ y, (apOf lm).place ((apOf lm).lcAt 0).ctx 0 .store (0x01FFFF00001FFFF8 : Word).toNat = .ok y ∧
      (y == .phys (paLocal 0 + 127 * 16384 + 16376) none) = true) ∧
    (∃ y, (apOf lm).storeAt apW 0x01FFFF00001FFFF8 (bytesOf 8 7) = .ok y) ∧
    (∃ y, (apOf lm).place ((apOf lm).lcAt 0).ctx 0 .store (0x2008 : Word).toNat = .ok y ∧
      (y == .phys 0x43008 (some 0x41010)) = true) ∧
    (∃ y, (apOf lm).storeAt apW 0x2008 (bytesOf 8 7) = .ok y) ∧
    ((apOf lm).ctxAt ((apOf lm).lcAt 0).ctx).dlArmed = false ∧
    (∃ y, (apOf lm).place ((apOf lm).lcAt 0).ctx 0 .store (0x01FFFF0020000000 : Word).toNat = .ok y ∧
      (y == .multicast 0) = true) ∧
    (∃ y, (apOf lm).storeAt apW 0x01FFFF0020000000 (bytesOf 8 7) = .ok y) ∧
    (∃ y, (slOf sl0).storeAt slW 262136 (bytesOf 8 7) = .ok y) := by
  refine ⟨isOk_spec (by decide +kernel), okAnd_spec (by decide +kernel), okAnd_spec (by decide +kernel), isOk_spec (by decide +kernel), okAnd_spec (by decide +kernel),
    isOk_spec (by decide +kernel), by decide +kernel, okAnd_spec (by decide +kernel), isOk_spec (by decide +kernel), isOk_spec (by decide +kernel)⟩

/-- The dirty log of context 1 is armed: its block at 0x2000, its ring of 4 entries at 0x3000, head 5 and tail 3, or head 7. -/
def dlState (head ovf : Nat) : State :=
  ({ apOf lm with ctxs := [(1, { x1 with dlArmed := true, dlE := true, dlPtr := 0x2000 })] }).setRaws 0x43000
    (bytesOf 8 0x3000 ++ bytesOf 4 head ++ bytesOf 4 3 ++ bytesOf 1 2 ++ bytesOf 1 ovf)

/-- Address `va` of context `x` is placed at `pa` through the leaf `l`. -/
def placedAt (s : State) (x k : Nat) (how : Access) (va pa : Nat) (l : Option Nat) : Bool :=
  okAnd (s.place x k how va) (fun y => y == .phys pa l)

theorem placedAt_spec {s : State} {x k : Nat} {how : Access} {va pa : Nat} {l : Option Nat} (h : placedAt s x k how va pa l = true) :
    s.place x k how va = .ok (.phys pa l) := by
  obtain ⟨y, h, hy⟩ := okAnd_spec h
  rw [h, eq_of_beq hy]

theorem witness_PageMarks :
    (apOf lm).ctxs.at? 1 = some x1 ∧ x1.dlArmed = false ∧
    (let s := dlState 5 0;
      let c := s.ctxAt 1;
      s.ctxs.at? 1 = some c ∧ s.formats = [] ∧ c.dlArmed = true ∧ (s.entry 0x41010).getLsbD 59 ≠ c.dlE ∧
        ¬ (c.sotab ≤ 0x3000 ∧ 0x3000 < c.sotab + 131072) ∨ (c.sotab ≤ 0x2800 ∧ 0x2800 < c.sotab + 131072)) ∧
    (∃ e, Paged (dlState 5 0) 1 0x2000 0x43000 0x41010 e ∧ true = true) ∧
    (dlState 5 0).place 1 0 .load 0x2000 = .ok (.phys 0x43000 (some 0x41010)) ∧
    (gap 5 3 ≠ 2 ^ ((dlState 5 0).rawByte 0x43010).toNat ∧ gap 7 3 = 2 ^ ((dlState 7 0).rawByte 0x43010).toNat ∧
      ((dlState 5 0).rawByte 0x43011).getLsbD 0 = false ∧ ((dlState 5 1).rawByte 0x43011).getLsbD 0 = true) ∧
    (dlState 5 0).place 1 0 .load (0x3000 + 8 * (5 % 4)) = .ok (.phys 0x44008 (some 0x41018)) :=
  ⟨by decide +kernel, by decide +kernel, by decide +kernel, paged_of (q := fun _ => true) (by decide +kernel) (by decide +kernel) (by decide +kernel),
    placedAt_spec (by decide +kernel), by decide +kernel, placedAt_spec (by decide +kernel)⟩

theorem witness_AmoResults :
    let s := apOf lm
    (Ready s apW (.amoCas r0 6 2 7 1) (apAndSluice r0 [2, 7, 6] [6]) ∧ (s.src apW 2).toNat % (tyBits (amoType 1) / 8) = 0 ∧
      ∃ t, AmoHome s apW (s.src apW 2).toNat (tyBits (amoType 1) / 8) 0x1000000000000 t) ∧
    (Ready s apW (.amoAdd r0 6 1 7 0) (apAndSluice r0 [1, 7] [6]) ∧
      ∃ t, AmoHome s apW (s.src apW 1).toNat (tyBits (amoType 0) / 8) 0x43008 t) ∧
    ∃ t, AmoHome (slOf sl0) slW 0x01FFFF0040000000 4 0x1000000000000 t := by
  refine ⟨⟨by decide +kernel, by decide +kernel, _, by decide +kernel, none, Or.inr ⟨by decide +kernel, rfl⟩, rfl⟩,
    ⟨by decide +kernel, _, by decide +kernel, some 0x41010, Or.inl ?_, rfl⟩,
    ⟨_, by decide +kernel, by decide +kernel, rfl⟩⟩
  obtain ⟨e, h, q⟩ := paged_of (s := apOf lm) (x := 1) (va := 0x2008) (pa := 0x43008) (p := 0x41010)
    (q := fun e => e.getLsbD 2 && e.getLsbD 3 && e &&& ((3 : Word) <<< 56) == 0) (by decide +kernel) (by decide +kernel) (by decide +kernel)
  simp only [Bool.and_eq_true, beq_iff_eq] at q
  exact ⟨0x41010, e, h, q.1.1, q.1.2, q.2, rfl⟩

/-- The checks of a bank-ALU operation, each at an address that fails it. -/
theorem witness_AmoChecks :
    let s := accState []
    (Ready s apW (.amoOr r0 6 5 7 0) (apAndSluice r0 [5, 7] [6]) ∧ MayTrap s apW ∧ (s.src apW 5).toNat % 4 ≠ 0) ∧
    0x01FFFF0060000000 ≤ (s.src apW 11).toNat ∧ (0x01FFFF0000000000 ≤ (s.src apW 3).toNat ∧ (s.src apW 3).toNat < 0x01FFFF0040000000) ∧
    s.walk 1 (s.src apW 9).toNat = .fault 4 ∧
    (∃ e, Paged s 1 (s.src apW 8).toNat 0x42000 0x41008 e ∧ (!e.getLsbD 3) = true) ∧
    (Granted (accState listed) 1 (s.src apW 2).toNat 8 0x1000000000000 ∧ (accState listed).inRange 1 (s.src apW 2).toNat 8 = true) ∧
    ((slOf sl0).who = some slW ∧ MayTrap (slOf sl0) slW) :=
  ⟨by decide +kernel, by decide +kernel, by decide +kernel, walkFault_spec (by decide +kernel),
    paged_of (by decide +kernel) (by decide +kernel) (by decide +kernel), by decide +kernel, by decide +kernel⟩

theorem witness_HomeBytes :
    (∀ i, i < 8 → (apOf lm).fmtAt (0x43008 + i) = none) ∧ (apOf lm).fmtAt (2 ^ 39) = none := by decide +kernel

/-! ## Witnesses: special registers and traps -/

theorem witness_SpecialRegisters :
    (Ready (apOf (inTrap l0)) apW (.mfsr r0 false 3 0x40) (anywhere r0 false [] [3]) ∧
      (apOf (inTrap l0)).selValid apW 0x40 = true) ∧
    (Ready (epOf l0) epW (.mfsr r0 true 31 0x46) (anywhere r0 true [] [31]) ∧ (epOf l0).selValid epW 0x46 = true) ∧
    (Ready (slOf sl0) slW (.mfsr r0 false 31 0x108) (anywhere r0 false [] [31]) ∧ (slOf sl0).selValid slW 0x108 = true) ∧
    (Ready (apOf (inTrap l0)) apW (.mtsr r0 false 23 0x45) (anywhere r0 false [23] []) ∧
      (apOf (inTrap l0)).selValid apW 0x45 = true) ∧
    (Ready (slOf sl0) slW (.mtsr r0 false 31 0x103) (anywhere r0 false [31] []) ∧ (slOf sl0).selValid slW 0x103 = true) := by
  decide +kernel

/-- MISALIGNED of an EP syllable. -/
def trap2 : TrapInfo := ⟨2, 1, 3, true, 0x1000, 0x2001⟩

theorem witness_TrapEntry : HasHandler (epOf l0) 0 ∧ ((epOf l0).takeTrap 0 0 trap2).lcAt 0 ≠ l0 := by decide +kernel

theorem witness_TrapEscalates :
    (((epOf { l0 with tvec := 0 }).lcAt 0).tvec = 0) ∧ ((apOf (inTrap l0)).lcAt 0).trapMode = true := by decide +kernel

theorem witness_SoftwareTraps :
    (Ready (apOf l0) apW (.trap ⟨false, false, false, true⟩ false 31) (noHandler ⟨false, false, false, true⟩ false true) ∧
      HasHandler (apOf l0) 0) ∧
    (Ready (epOf l0) epW (.brk r0 true) (noHandler r0 true true) ∧ HasHandler (epOf l0) 0 ∧ (epOf l0).cur.left = 0) ∧
    (Ready ((epOf l0).atSyl ⟨0, 0, .brk r0 false⟩ 1) epW (.trap r0 false 0) (noHandler r0 false true) ∧
      ((epOf l0).atSyl ⟨0, 0, .brk r0 false⟩ 1).cur.left ≠ 0) ∧
    (Ready (slOf sl0) slW (.brk r0 false) (noHandler r0 false true) ∧ SluiceHasHandler (slOf sl0) 0) := by decide +kernel

/-- The handler of a SUBNORMAL-ASSIST trap of the vector unit runs. -/
def lAssist : LCore := { inTrap (lr [(5, 1), (6, 2)]) with tcause := 0x206, trapUnit := 2 }

theorem witness_HandlerReturn :
    ((apOf { inTrap l0 with tcause := 0x102 }).who = some apW ∧ ((apOf { inTrap l0 with tcause := 0x102 }).lcAt 0).trapMode = true ∧
      ((apOf { inTrap l0 with tcause := 0x102 }).lcAt 0).tcause.toNat % 256 ≠ 6) ∧
    ((apOf l0).who = some apW ∧ HasHandler (apOf l0) 0) ∧
    ((apOf lAssist).who = some apW ∧ ((apOf lAssist).lcAt 0).trapMode = true ∧ ((apOf lAssist).lcAt 0).tcause.toNat % 256 = 6) ∧
    ((slOf { sl0 with sstatus := 1 }).who = some slW ∧ ((slOf { sl0 with sstatus := 1 }).slAt 0).trapMode = true) ∧
    ((slOf sl0).who = some slW ∧ SluiceHasHandler (slOf sl0) 0) := by decide +kernel

theorem witness_AssistAndEscal :
    (Ready (apOf lAssist) apW (.escal 23) (handlerOnly [23] []) ∧ ((apOf lAssist).lcAt 0).trapMode = true) ∧
    (Ready (apOf lAssist) apW (.asstDone 5) (handlerOnly [5] []) ∧ ((apOf lAssist).lcAt 0).tcause.toNat % 256 = 6 ∧
      ((apOf lAssist).src apW 5).toNat ≤ 1) ∧
    (Ready (apOf lAssist) apW (.asstDone 6) (handlerOnly [6] []) ∧ 1 < ((apOf lAssist).src apW 6).toNat) := by decide +kernel

/-- A stream with a command that has not written its token, or an engine that is not drained. -/
def lBusy : LCore := { l0 with
  ceFifo := [⟨0x03462280, 6, [], 0x1000, 0⟩]
  mxFifo := [⟨0x0E081000, false, false, 0, [], 0x1000, 0⟩] }

theorem witness_HaltEnds :
    (Ready (apOf lBusy) apW (.halt r0 false) (noHandler r0 false false) ∧ ((apOf lBusy).lcAt 0).tokensWritten = false) ∧
    (Ready (epOf lBusy) epW (.halt r0 true) (noHandler r0 true false) ∧ ((epOf lBusy).lcAt 0).drained = false) ∧
    (Ready (epOf l0) epW (.halt r0 true) (noHandler r0 true false) ∧ ((epOf l0).lcAt 0).drained = true ∧
      (epOf l0).cur.left = 0 ∧ (((epOf l0).lcAt 0).strm false).halted = false) ∧
    (Ready (apOf (halts l0 true)) apW (.halt r0 false) (noHandler r0 false false) ∧
      ((apOf (halts l0 true)).lcAt 0).tokensWritten = true ∧ (((apOf (halts l0 true)).lcAt 0).strm true).halted = true) := by
  decide +kernel

theorem witness_BankAndCycle :
    (Ready (apOf (inTrap (lr [(4, 32760)]))) apW (.bankRd 3 4) (handlerOnly [4] [3]) ∧
      ((apOf (inTrap (lr [(4, 32760)]))).src apW 4).toNat % 8 = 0 ∧
      ((apOf (inTrap (lr [(4, 32760)]))).src apW 4).toNat < 32768) ∧
    (Ready (apOf (inTrap l0)) apW (.bankWr 3 4) (handlerOnly [3, 4] []) ∧
      ((apOf (inTrap l0)).coreAt 0).held = false ∧ ((apOf (inTrap l0)).coreAt 0).busy = false ∧
      ((apOf (inTrap l0)).lcAt 0).ap.stall ≠ some .bank) ∧
    (let s := (apOf (inTrap l0)).setCore 0 { p0 with held := true };
      Ready s apW (.bankWr 3 4) (handlerOnly [3, 4] []) ∧ (s.coreAt 0).held = true) ∧
    (let l := { inTrap l0 with ap := { l0.ap with stall := some .bank } };
      Ready (apOf l) apW (.bankWr 3 4) (handlerOnly [3, 4] []) ∧ ((apOf l).lcAt 0).ap.stall = some .bank) ∧
    (Ready (apOf (inTrap (lr [(4, 32768)]))) apW (.bankRd 3 4) (handlerOnly [4] [3]) ∧
      Ready (apOf (inTrap (lr [(4, 32768)]))) apW (.bankWr 4 3) (handlerOnly [4, 3] []) ∧
      32768 ≤ ((apOf (inTrap (lr [(4, 32768)]))).src apW 4).toNat) ∧
    l0.spare.at? (0x18 + 8 * 1) = none ∧ Ready (epOf l0) epW (.cyc r0 true 2) (anywhere r0 true [] [2]) := by decide +kernel

/-! ## Witnesses: sync objects, rings, commands -/

/-- Entry 0 of the sync-object table: V set, no range, GEN 5; entry 1 is all zero; g1 = 0, g2 = 1, g3 = 1024, g4 = 5. -/
def soState (a : Agent) (l : LCore) : State := (at_ a (dev l)).setRaws 0x43800 [5, 0, 0, 0, 0, 0, 0, 0x80]

def lso : LCore := lr [(2, 1), (3, 1024), (4, 5)]

/-- Entry 0 is valid and has GEN 5. -/
theorem entry_witness : ∃ rs blk, Entry (soState (.ap 0) lso) 0 0 rs blk ∧ soInvalid blk = false ∧ generation blk = 5 := by
  obtain ⟨e, h, q⟩ := paged_of (s := soState (.ap 0) lso) (x := 1) (va := 0x2800) (pa := 0x43800) (p := 0x41010) (q := permits .load)
    (by decide +kernel) (by decide +kernel) (by decide +kernel)
  exact ⟨_, _, ⟨by decide +kernel, by decide +kernel, 0x43800, 0x41010, e, h, q, rfl, rfl⟩, by decide +kernel, by decide +kernel⟩

theorem invalid_entry_witness : ∃ rs blk, Entry (soState (.ap 0) lso) 0 1 rs blk ∧ soInvalid blk = true := by
  obtain ⟨e, h, q⟩ := paged_of (s := soState (.ap 0) lso) (x := 1) (va := 0x2880) (pa := 0x43880) (p := 0x41010) (q := permits .load)
    (by decide +kernel) (by decide +kernel) (by decide +kernel)
  exact ⟨_, _, ⟨by decide +kernel, by decide +kernel, 0x43880, 0x41010, e, h, q, rfl, rfl⟩, by decide +kernel⟩

/-- A multicast of logical core 0 is in flight. -/
def casting (s : State) : State := { s with multicasts := [⟨3, 0, false, [0], 0, [1]⟩] }

theorem witness_Synchronisation :
    Ready (soState (.ap 0) lso) apW (.acq r0 false 1) (streams r0 false [1] []) ∧
    Ready (soState (.ep 0) lso) epW (.acqGen r0 true 1 4) (streams r0 true [1, 4] []) ∧
    ((soState (.ap 0) lso).src apW 1 = 0 ∧ (soState (.ap 0) lso).src apW 2 = 1 ∧
      ((soState (.ap 0) lso).src apW 4).toNat % 2 ^ 32 = 5 ∧ ((soState (.ap 0) lso).src apW 5).toNat % 2 ^ 32 ≠ 5) ∧
    MayTrap (soState (.ap 0) lso) apW ∧
    Ready (soState (.ap 0) lso) apW (.soGen r0 false 23 1) (streams r0 false [1] [23]) ∧
    1024 ≤ ((soState (.ap 0) lso).src apW 3).toNat := by decide +kernel

theorem witness_Fences :
    (Ready (apOf l0) apW (.fence r0 false 4) (anywhere r0 false [] []) ∧ (apOf l0).fencePending apW 4 = false) ∧
    (Ready (casting (apOf l0)) apW (.fence r0 false 0) (anywhere r0 false [] []) ∧
      (casting (apOf l0)).fencePending apW 0 = true) ∧
    ((slOf sl0).who = some slW ∧ 4 < 5 ∧ MayTrap (slOf sl0) slW) := by decide +kernel

/-- A dirty-log control block at 0x2000: ring at 0x3000 of 512 entries, tail 7. -/
def logState (x : Ctx) : State :=
  ({ apOf (lr [(4, 0x2000), (5, 0x2001)]) with ctxs := [(1, x)] }.setRaws 0x43000
    (bytesOf 8 0x3000 ++ bytesOf 4 0 ++ bytesOf 4 7 ++ [9]))

theorem witness_DirtyLog :
    (Ready (logState x1) apW (.dlogArm r0 4) (apOnly r0 [4] []) ∧ (x1.dlArmed = false ∧ x1.dlSettling = false) ∧
      ∃ rs, (logState x1).access 1 0 .load 0x2000 64 = .ok rs ∧
        (logState x1).dlogBlockOk 1 0x2000 ((logState x1).runsBytes rs) = true) ∧
    (Ready (logState x1) apW (.dlogArm r0 5) (apOnly r0 [5] []) ∧ MayTrap (logState x1) apW ∧
      ∃ rs, (logState x1).access 1 0 .load 0x2001 64 = .ok rs ∧
        (!(logState x1).dlogBlockOk 1 0x2001 ((logState x1).runsBytes rs)) = true) ∧
    (Ready (logState { x1 with dlArmed := true }) apW (.dlogArm r0 4) (apOnly r0 [4] []) ∧
      ((logState { x1 with dlArmed := true }).ctxAt 1).dlArmed = true) ∧
    Ready (logState { x1 with dlSettling := true }) apW (.dlogStop r0) (apOnly r0 [] []) ∧
    (Ready (logState { x1 with dlArmed := true, dlPtr := 0x2000 }) apW (.dlogPos r0 3) (apOnly r0 [] [3]) ∧
      ∃ rs, (logState { x1 with dlArmed := true, dlPtr := 0x2000 }).access 1 0 .load 0x2000 64 = .ok rs) :=
  ⟨⟨by decide +kernel, by decide +kernel, okAnd_spec (by decide +kernel)⟩, ⟨by decide +kernel, by decide +kernel, okAnd_spec (by decide +kernel)⟩, by decide +kernel, by decide +kernel,
    by decide +kernel, isOk_spec (by decide +kernel)⟩

theorem witness_QueueAndEngine :
    (Ready (apOf { l0 with cq := List.replicate 31 true }) apW (.cqPut r0 1) (apOnly r0 [1] []) ∧
      ((apOf { l0 with cq := List.replicate 31 true }).lcAt 0).cq.length < 32) ∧
    (Ready (apOf { l0 with cq := List.replicate 32 true }) apW (.cqPut r0 1) (apOnly r0 [1] []) ∧
      32 ≤ ((apOf { l0 with cq := List.replicate 32 true }).lcAt 0).cq.length) ∧
    Ready (apOf l0) apW (.engSt r0 9 4) (apOnly r0 [] [9]) ∧ MayTrap (apOf l0) apW := by decide +kernel

/-- Ring 15 with 2^2 slots of 64 bytes at the start of local store, HEAD 2^32 − 1, TAIL 0 and CLAIM 2. -/
def ring15 : Ring := ⟨2, 0, 4294967295, true, 2, 0, 0⟩

/-- g1 = 15, g2 to g5 = 1 to 4, g6 the ring word of 2^15 slots of 64 bytes. -/
def lring : LCore := { lr [(1, 15), (2, 1), (3, 2), (4, 3), (5, 4), (6, 0x78000000)] with rings := [(15, ring15.bits)] }

theorem witness_RingResults :
    (Ready (apOf lring) apW (.ringInit r0 1 6) (apOnly r0 [1, 6] []) ∧
      64 * (0x78000000 % 2 ^ 15) + 2 ^ (0x78000000 / 2 ^ 27 % 16 + 0x78000000 / 2 ^ 23 % 16 + 6) ≤ 2097152) ∧
    RingReady (apOf lring) 0 15 1 ring15 ∧ RingReady (apOf lring) 0 15 4 ring15 ∧
    Ready (apOf lring) apW (.ringClaim r0 7 1 2) (apOnly r0 [1, 2] [7]) ∧
    (¬ 2 ^ ring15.lgn < gap (ring15.claim + 1) ring15.head ∧ 2 ^ ring15.lgn < gap (ring15.claim + 2) ring15.head) ∧
    (¬ gap ring15.tail ring15.head < 1 ∧ gap ring15.tail ring15.head < 2) ∧
    (¬ 2 ^ ring15.lgn - gap ring15.claim ring15.head < 1 ∧ 2 ^ ring15.lgn - gap ring15.claim ring15.head < 2) ∧
    (¬ gap ring15.claim ring15.tail < 2 ∧ gap ring15.claim ring15.tail < 3) ∧
    Ready (apOf lring) apW (.ringCommit r0 1 4) (apOnly r0 [1, 4] []) ∧
    Ready (apOf lring) apW (.ringRel r0 1 3) (apOnly r0 [1, 3] []) ∧ MayTrap (apOf lring) apW ∧
    -- a command that names the ring, a ring that is none, one not initialised, and counts of 0 and above the size
    (({ lring with ceFifo := [⟨0x03400000, 23, [0x3000, BitVec.ofNat 64 (1 + 2 ^ 40 + 15 * 2 ^ 41), 0x2000], 0x1000, 0⟩] } : LCore).ceFifo ++
      lring.geFifo).any (fun x => x.rcRing == some 15) = true ∧
    (16 ≤ ((apOf (lr [(1, 16)])).src apW 1).toNat ∧ (lring.ring 0).v = false ∧ (Ring.of (lring.rings.atD 15 0)).v = true ∧
      2 ^ (Ring.of (lring.rings.atD 15 0)).lgn < 5) := by
  refine ⟨by decide +kernel, ⟨by decide +kernel, by decide +kernel, by decide +kernel, by decide +kernel, by decide +kernel⟩,
    ⟨by decide +kernel, by decide +kernel, by decide +kernel, by decide +kernel, by decide +kernel⟩, by decide +kernel, by decide +kernel, by decide +kernel, by decide +kernel, by decide +kernel, by decide +kernel,
    by decide +kernel, by decide +kernel, by decide +kernel, by decide +kernel⟩

theorem witness_CommandIssue :
    (Ready (apOf l0) apW (.cp r0 6 4 10) (apOnly r0 (groups 4 2 10 1) []) ∧
      (∀ r, r ∈ 6 :: groups 4 2 10 1 → 1 ≤ r ∧ r < 24) ∧ ((apOf l0).lcAt 0).ceFifo.length < 16) ∧
    (Ready (apOf { l0 with geFifo := List.replicate 16 ⟨0x03653200, 7, [], 0x1000, 0⟩ }) apW (.geGather r0 5 22 20)
        (apOnly r0 (groups 22 2 20 2) []) ∧
      ((apOf l0).lcAt 0).kern.units.testBit 2 = true ∧
      16 ≤ ((apOf { l0 with geFifo := List.replicate 16 ⟨0x03653200, 7, [], 0x1000, 0⟩ }).lcAt 0).geFifo.length) ∧
    (Ready (apOf l0) apW (.cp2dFo r0 6 4 10) (apOnly r0 (groups 4 3 10 7) []) ∧
      ((apOf l0).lcAt 0).kern.units.testBit 0 = true) := by decide +kernel

/-! ## Witnesses: signals, flags, counters -/

/-- g1 the first signal of the grant, g2 = −3, g3 the address past its end, g4 misaligned, g5 = 7. -/
def lsig : LCore := lr [(1, 0x01FFFF0040000000), (2, -3), (3, 0x01FFFF0040001000), (4, 0x01FFFF0040000001), (5, 7)]

/-- The signal of g1 holds 7. -/
def sigState (a : Agent) : State := (at_ a (dev lsig)).setRaws 0x1000000000000 [7]

/-- Entry 0 of the range table covers the signal of g1. -/
def rangedState : State :=
  { sigState (.ap 0) with ctxs := [(1, { x1 with ranges := [(0, BitVec.twoPow 64 63), (1, 0x01FFFF0040000000), (2, 1)] })] }

theorem witness_SignalResults :
    Ready (sigState (.ap 0)) apW (.sigAdd r0 false 6 1 2) (streams r0 false [1, 2] [6]) ∧
    (SignalHome (sigState (.ap 0)) 1 0x01FFFF0040000000 0x1000000000000 ∧
      (sigState (.ap 0)).inRange ((sigState (.ap 0)).ctxOf apW) 0x01FFFF0040000000 8 = false) ∧
    Ready (sigState (.ep 0)) epW (.sigRd r0 true 6 1) (streams r0 true [1] [6]) ∧
    (Ready (sigState (.ap 0)) apW (.sigWait r0 false 6 1 5) (streams r0 false [1, 5] [6]) ∧
      (signalAt (sigState (.ap 0)) 0x1000000000000).toInt ≤ ((sigState (.ap 0)).src apW 5).toInt) ∧
    (Ready (sigState (.ap 0)) apW (.sigWait r0 false 6 1 2) (streams r0 false [1, 2] [6]) ∧
      ¬ ((signalAt (sigState (.ap 0)) 0x1000000000000).toInt ≤ ((sigState (.ap 0)).src apW 2).toInt ∨
        (signalAt (sigState (.ap 0)) 0x1000000000000).toInt < 0)) ∧
    MayTrap (sigState (.ap 0)) apW ∧ ((sigState (.ap 0)).src apW 4).toNat % 8 ≠ 0 ∧
    (((sigState (.ap 0)).src apW 3).toNat % 8 = 0 ∧
      ∀ pa, ¬ SignalHome (sigState (.ap 0)) 1 ((sigState (.ap 0)).src apW 3).toNat pa) ∧
    rangedState.inRange (rangedState.ctxOf apW) 0x01FFFF0040000000 8 = true := by
  refine ⟨by decide +kernel, ⟨⟨by decide +kernel, by decide +kernel, by decide +kernel, by decide +kernel, by decide +kernel⟩, by decide +kernel⟩, by decide +kernel, by decide +kernel, by decide +kernel,
    by decide +kernel, by decide +kernel, ⟨by decide +kernel, ?_⟩, by decide +kernel⟩
  rintro pa ⟨-, -, -, h, -⟩
  exact absurd h (by decide +kernel)

/-- A team of three, one of them on physical core 1; g1 names core 2's slot 63, g2 = −1, g3 slot 5 with value −1 and group 0,
g4 bits 2 and 0, g5 = 63, g6 = 64, g7 a core outside the team, g8 an `flag.mset` slot with bit 6 set. -/
def lteam : LCore := { lr [(1, 2 + 63 * 2 ^ 32), (2, -1), (3, 5 + 0xFFFFFFFF * 2 ^ 8), (4, 5), (5, 63), (6, 64), (7, 3), (8, 64)] with
  launch := [(2, 3)]
  flags := [(63, -2)] }

def teamState (a : Agent) : State :=
  { at_ a (dev lteam) with lcores := [(0, lteam), (1, lteam), (2, { lteam with loc := .banked 1 })] }

theorem witness_FlagsAndCounters :
    (Ready (teamState (.ap 0)) apW (.flagAdd r0 false 9 1 2) (streams r0 false [1, 2] [9]) ∧
      ((teamState (.ap 0)).src apW 1).toNat / 2 ^ 38 = 0 ∧
      ((teamState (.ap 0)).src apW 1).toNat / 2 ^ 32 % 64 < ((teamState (.ap 0)).lcAt 0).kern.flags ∧
      ((teamState (.ap 0)).src apW 1).toNat % 2 ^ 32 < team (teamState (.ap 0)) 0 ∧
      (teamState (.ap 0)).flagsMoving (member (teamState (.ap 0)) 0 2) = false) ∧
    (Ready (teamState (.ep 0)) epW (.flagMset r0 true 9 3 4) (streams r0 true [3, 4] [9]) ∧
      ((teamState (.ep 0)).src epW 3).toNat / 64 % 4 = 0 ∧
      ((teamState (.ep 0)).src epW 3).toNat % 64 < ((teamState (.ep 0)).lcAt 0).kern.flags ∧
      (msetNames ((teamState (.ep 0)).src epW 3) ((teamState (.ep 0)).src epW 4) = [0, 2]) ∧
      (∀ n ∈ [0, 2], n < team (teamState (.ep 0)) 0 ∧ (teamState (.ep 0)).flagsMoving (member (teamState (.ep 0)) 0 n) = false)) ∧
    (Ready (teamState (.ap 0)) apW (.flagWait r0 false 9 5 2) (streams r0 false [5, 2] [9]) ∧
      ((teamState (.ap 0)).lcAt 0).flags.atD 63 0 = -2 ∧ (-2 : Word).toInt < ((teamState (.ap 0)).src apW 2).toInt) ∧
    MayTrap (teamState (.ap 0)) apW ∧ team (teamState (.ap 0)) 0 ≤ ((teamState (.ap 0)).src apW 7).toNat % 2 ^ 32 ∧
    ((teamState (.ap 0)).src apW 8).toNat / 64 % 4 ≠ 0 ∧ 64 ≤ ((teamState (.ap 0)).src apW 6).toNat ∧
    Ready (teamState (.ep 0)) epW (.ctrRd r0 true 9 5) (streams r0 true [5] [9]) ∧
    (Ready (apOf (lr [(1, 7), (2, 14), (3, 8), (4, 15)])) apW (.ctrSel r0 9 1 2) (apOnly r0 [1, 2] [9]) ∧
      ((apOf (lr [(1, 7), (2, 14), (3, 8), (4, 15)])).lcAt 0).reg false 1 = 7 ∧
      ((apOf (lr [(1, 7), (2, 14), (3, 8), (4, 15)])).lcAt 0).reg false 2 = 14 ∧
      7 < (((apOf (lr [(1, 7), (2, 14), (3, 8), (4, 15)])).lcAt 0).reg false 3).toNat ∧
      14 < (((apOf (lr [(1, 7), (2, 14), (3, 8), (4, 15)])).lcAt 0).reg false 4).toNat) := by decide +kernel

/-! ## Witnesses: the distributor's instructions -/

/-- g1 to g5 = 4095, 11, 12, 13, 14; g6 = 15; g7 = 4096; g8 = 1; g9 = 256; g10 = 257; g11 = 0x2000; g12 = 4097. -/
def lseq : LCore := lr [(1, 4095), (2, 11), (3, 12), (4, 13), (5, 14), (6, 15), (7, 4096), (8, 1), (9, 256), (10, 257),
  (11, 0x2000), (12, 4097)]

/-- Entry 4095 is ACTIVE and of context 1, with one page at the list at 0x2000; entry 1 is of context 2. -/
def seqState : State := { apOf lseq with
  seqs := [(12, 2), (12 * 4095, 2 ^ 63 + 1), (12 * 4095 + 1, 0x2000), (12 * 4095 + 2, 1)]
  slots := [(0, { ModelSlot.fresh with state := 2, ctx := 1, steps := [1, 4095], freering := 0x2100, retring := 0x2200 })] }

theorem witness_SequenceResults :
    (Ready seqState apW (.seqRd r0 20 1 2) (apOnly r0 [1, 2] [20]) ∧ (seqState.lcAt 0).reg false 2 = 11 ∧
      (seqState.seqWord 4095 0).toNat % 2 ^ 16 = (seqState.lcAt 0).ctx ∧ (seqState.seqWord 1 0).toNat % 2 ^ 16 ≠ 1) ∧
    ((seqState.slotAt (seqState.lcAt 0).kern.slot).steps[1]? = some 4095 ∧ (seqState.slotAt 0).steps.length ≤ 4095) ∧
    (Ready seqState apW (.seqKv r0 20 1 0) (apOnly r0 [1, 0] [20]) ∧ 2 ≤ (seqState.seqWord 4095 0).toNat / 2 ^ 62 ∧
      (seqState.seqWord 4095 2).toNat % 2 ^ 32 = 1 ∧
      ∃ y, seqState.readVa 1 0 ((seqState.seqWord 4095 1).toNat + 8 * 0) 8 = .ok y) ∧
    (Ready seqState apW (.distHint r0 20 0 9) (apOnly r0 [0, 9] [20]) ∧ ((seqState.lcAt 0).reg false 9).toNat = 256 ∧
      256 < ((seqState.lcAt 0).reg false 10).toNat ∧ (seqState.lcAt 0).reg false 8 = 1) ∧
    (Ready seqState apW (.seqRetire r0 20 11 8) (apOnly r0 [11, 8] [20]) ∧ ((seqState.lcAt 0).reg false 8).toNat ≤ 4096 ∧
      ∃ y, seqState.seqRetire 1 0 0 0x2000 1 = .ok y) ∧
    4096 < ((seqState.lcAt 0).reg false 12).toNat :=
  ⟨by decide +kernel, by decide +kernel, ⟨by decide +kernel, by decide +kernel, by decide +kernel, isOk_spec (by decide +kernel)⟩, by decide +kernel,
    ⟨by decide +kernel, by decide +kernel, isOk_spec (by decide +kernel)⟩, by decide +kernel⟩

/-- A node of context 1 that is held. -/
def heldNode : Node := ⟨1, 0, 0, [], 0, 0, 0, 0, 0, 0, 0, true, [], none, none, 1, [], 0, 0, false, 0, 0, 0, none, false⟩

def nodeState : State := { seqState with nodes := [(4095, heldNode), (4096, { heldNode with held := false })] }

theorem witness_NodeResults :
    (Ready nodeState apW (.nodeLaunch r0 20 11 2) (apOnly r0 [11, 2] [20]) ∧ 1 < ((nodeState.lcAt 0).reg false 2).toNat) ∧
    (∃ y, nodeState.nodeLaunch 0 (nodeState.lcAt 0) 0x2000 1 = .ok y) ∧
    (Ready nodeState apW (.nodeSig r0 20 1) (apOnly r0 [1] [20]) ∧
      nodeState.nodes.at? ((nodeState.lcAt 0).reg false 1).toNat = some heldNode ∧ heldNode.held = true ∧
      heldNode.ctx = (nodeState.lcAt 0).ctx) ∧
    (∀ x, nodeState.nodes.at? ((nodeState.lcAt 0).reg false 7).toNat = some x → ¬ (x.held = true ∧ x.ctx = 1)) := by
  refine ⟨by decide +kernel, isOk_spec (by decide +kernel), by decide +kernel, ?_⟩
  intro x h
  have : nodeState.nodes.at? ((nodeState.lcAt 0).reg false 7).toNat = some { heldNode with held := false } := by decide +kernel
  rw [this] at h
  cases h
  decide +kernel

/-! ## Witnesses: tensors, ranges, collectives -/

/-- A descriptor image: one chunk of 64 bytes with its bitmap at the start of the grant, and the same as a sum of FP32 with a
window of `win` and `k` contributors. -/
def tensorWords (mode win k : Nat) : List Word :=
  [BitVec.ofNat 64 (2 ^ 63 + mode * 2 ^ 61 + (if mode = 0 then 0 else 2 ^ 56 + 2 ^ 52)), 0x2000, 0x0001000100010001,
    BitVec.ofNat 64 (64 * 2 ^ 51 + 64), 0x01FFFF0040000000, if mode = 0 then 0 else 0x01FFFF0040000100,
    BitVec.ofNat 64 (k * 2 ^ 48 + win * 2 ^ 32), 0]

/-- g1 = 0x2000, g2 = 4095, g3 = 4096, g4 an entry of one chunk of descriptor 4095, g5 the same of descriptor 1, g6 = 2^63,
g7 = 0x2001, g8 an entry without chunks, g9 = 2^63 + 1, g10 = 4094. -/
def ltns : LCore := lr [(1, 0x2000), (2, 4095), (3, 4096), (4, 4095 + 2 ^ 44), (5, 1 + 2 ^ 44), (6, 2 ^ 63), (7, 0x2001),
  (8, 4095), (9, 2 ^ 63 + 1), (10, 4094)]

/-- Descriptor 4095 is valid, of mode `mode`; an image of mode `m` lies at 0x2000. -/
def tnsState (mode m win k : Nat) : State :=
  ({ apOf ltns with
    ctxs := [(1, { x1 with tns := ((List.range 8).foldl (fun a i => a.put (8 * 4095 + i) ((tensorWords mode 1 1).getD i 0) 0) []) })] }).setRaws
      0x43000 ((tensorWords m win k).flatMap (fun (w : Word) => bytesOf 8 w.toNat))

def imgOf (bs : List Byte) : TDesc := TDesc.of (fun i => (imageOf bs).getD i 0)

theorem witness_TensorResults :
    (Ready (tnsState 0 0 0 0) apW (.tnsSet r0 20 1 2) (apOnly r0 [1, 2] [20]) ∧
      ∃ y, (tnsState 0 0 0 0).readVa 1 0 0x2000 64 = .ok y ∧
        decide (y.2.tdescOk 1 (imgOf y.1) = true ∧
          y.2.stagingUsed (imgOf y.1).rport 1 4095 + (imgOf y.1).reserve ≤ 8 * 2 ^ 20) = true) ∧
    (∃ y, (tnsState 0 1 65535 4096).readVa 1 0 0x2000 64 = .ok y ∧
        decide (y.2.tdescOk 1 (imgOf y.1) = true ∧
          ¬ y.2.stagingUsed (imgOf y.1).rport 1 4095 + (imgOf y.1).reserve ≤ 8 * 2 ^ 20) = true) ∧
    (∃ y, (tnsState 0 3 1 1).readVa 1 0 0x2000 64 = .ok y ∧
        (!y.2.tdescOk 1 (imgOf y.1)) = true) ∧
    (((tnsState 0 0 0 0).src apW 7).toNat % 64 ≠ 0 ∧ MayTrap (tnsState 0 0 0 0) apW ∧
      Ready (tnsState 0 0 0 0) apW (.tnsSet r0 20 0 3) (apOnly r0 [0, 3] [20])) ∧
    (Ready (tnsState 0 0 0 0) apW (.tnsWait r0 20 4) (apOnly r0 [4] [20]) ∧
      (((tnsState 0 0 0 0).ctxAt 1).tdesc 4095).v = true ∧ (((tnsState 0 0 0 0).ctxAt 1).tdesc 4095).n = 1 ∧
      (tnsState 0 0 0 0).basinBit 1 (((tnsState 0 0 0 0).ctxAt 1).tdesc 4095).bitmap 0 = false ∧
      ((tnsState 0 0 0 0).setRaw 0x1000000000000 1).basinBit 1 (((tnsState 0 0 0 0).ctxAt 1).tdesc 4095).bitmap 0 = true ∧
      (((tnsState 0 0 0 0).ctxAt 1).tdesc 1).v = false) ∧
    (Ready (tnsState 1 0 0 0) apW (.tnsBits r0 20 2 6) (apOnly r0 [2, 6] [20]) ∧
      (((tnsState 1 0 0 0).ctxAt 1).tdesc 4095).mode = 1 ∧ (((tnsState 0 0 0 0).ctxAt 1).tdesc 4095).mode = 0 ∧
      ((tnsState 1 0 0 0).src apW 6).toNat % 2 ^ 28 < (((tnsState 1 0 0 0).ctxAt 1).tdesc 4095).n ∧
      (((tnsState 1 0 0 0).ctxAt 1).tdesc 4095).n ≤ ((tnsState 1 0 0 0).src apW 9).toNat % 2 ^ 28) :=
  ⟨⟨by decide +kernel, okAnd_spec (by decide +kernel)⟩, okAnd_spec (by decide +kernel), okAnd_spec (by decide +kernel), by decide +kernel, by decide +kernel, by decide +kernel⟩

/-- g1 = 2^57 − 1, g2 = 2^40, g3 = 2^57, g4 = 2^40 + 1, g5 = 63, g6 = 64, g7 = 62. -/
def lrng : LCore := lr [(1, 2 ^ 57 - 1), (2, 2 ^ 40), (3, 2 ^ 57), (4, 2 ^ 40 + 1), (5, 63), (6, 64), (7, 62)]

/-- A range table whose entries below `n` are valid; entry 62 is a collective's. -/
def rangesTo (n : Nat) : Ctx :=
  { x1 with ranges := (List.range n).map (fun i => (3 * i, if i = 62 then BitVec.ofNat 64 (3 * 2 ^ 62) else BitVec.twoPow 64 63)) }

def rngState (n : Nat) : State := { apOf lrng with ctxs := [(1, rangesTo n)] }

theorem witness_RangeResults :
    Ready (rngState 63) apW (.rngSet r0 20 1 2) (apOnly r0 [1, 2] [20]) ∧
    Lowest 64 (fun r => rangeOn ((rngState 63).ctxAt 1) r = false) 63 ∧
    (∀ r, r < 64 → rangeOn ((rngState 64).ctxAt 1) r = true) ∧
    (2 ^ 40 < ((rngState 63).src apW 4).toNat ∧ 2 ^ 57 ≤ ((rngState 63).src apW 3).toNat) ∧
    (rangeOn ((rngState 64).ctxAt 1) 63 = true ∧ (((rngState 64).ctxAt 1).ranges.atD (3 * 63) 0).getLsbD 62 = false) ∧
    (rangeOn ((rngState 63).ctxAt 1) 63 = false ∧ (((rngState 64).ctxAt 1).ranges.atD (3 * 62) 0).getLsbD 62 = true) ∧
    64 ≤ ((rngState 63).src apW 6).toNat := by
  refine ⟨by decide +kernel, ⟨by decide +kernel, by decide +kernel, ?_⟩, by decide +kernel, by decide +kernel, by decide +kernel, by decide +kernel, by decide +kernel⟩
  have h : ∀ j, j < 63 → rangeOn ((rngState 63).ctxAt 1) j = true := by decide +kernel
  intro j hj
  simp [h j hj]

/-- A record of one transfer of one chunk of 64 bytes at 0x3000 to rank 1 of a team of 2; with `self` it goes to rank 0 itself
and is left out. -/
def collRecord (self : Nat) : List Byte :=
  bytesOf 1 1 ++ bytesOf 1 1 ++ bytesOf 1 0 ++ bytesOf 1 0 ++ bytesOf 1 (2 * self) ++ bytesOf 1 0 ++ bytesOf 2 0 ++ bytesOf 2 0 ++ bytesOf 2 2
    ++ bytesOf 2 0 ++ bytesOf 2 0 ++ bytesOf 4 0 ++ bytesOf 2 64 ++ bytesOf 2 1 ++ bytesOf 8 64 ++ bytesOf 8 0x3000 ++ bytesOf 8 0
    ++ bytesOf 4 0 ++ bytesOf 2 0 ++ bytesOf 2 (1 - self) ++ bytesOf 8 0 ++ bytesOf 2 1 ++ List.replicate 62 0

def colls (n : Nat) : SMap Coll := (List.range n).map (fun i => (i, ⟨collRecord 0, if i = 0 then 1 else 2, 1, 1, 0, 0, false, none, 0, 0, 0⟩))

/-- g1 = 0x2000, g2 = 255, g3 = 256, g4 = 1. -/
def collState (x : Ctx) (self n : Nat) (b : Byte) : State :=
  ({ apOf (lr [(1, 0x2000), (2, 255), (3, 256), (4, 1)]) with ctxs := [(1, { x with colls := colls n })] }).setRaws 0x43000
    (b :: (collRecord self).drop 1)

theorem witness_CollectiveResults :
    Ready (collState x1 0 0 1) apW (.collStart r0 20 1) (apOnly r0 [1] [20]) ∧
    (∃ y, (collState x1 0 255 1).readVa 1 0 0x2000 128 = .ok y ∧
      decide (y.2.collOk 1 y.1 = true ∧ cSpan y.1 = some (0x3000, 64) ∧ (y.2.slAt (cPort y.1 / 3)).pending.at? 259 = none ∧
        (y.2.ctxAt 1).colls.at? 255 = none) = true) ∧
    (∃ y, (collState x1 1 0 1).readVa 1 0 0x2000 128 = .ok y ∧
      decide (y.2.collOk 1 y.1 = true ∧ cSpan y.1 = none) = true) ∧
    (∃ y, ({ collState x1 1 0 1 with sluices := [(0, { sl0 with pending := [(259, [0])] })] } : State).readVa 1 0 0x2000 128 = .ok y ∧
      decide (y.2.collOk 1 y.1 = true ∧ cSpan y.1 = none ∧ (y.2.slAt (cPort y.1 / 3)).pending.at? 259 ≠ none) = true) ∧
    (∃ y, (collState x1 0 0 2).readVa 1 0 0x2000 128 = .ok y ∧ (!y.2.collOk 1 y.1) = true) ∧
    (∀ h, h < 256 → ((collState x1 0 256 1).ctxAt 1).colls.at? h ≠ none) ∧
    (∀ e, e < 64 → rangeOn ((collState (rangesTo 64) 0 0 1).ctxAt 1) e = true) ∧
    (Ready (collState x1 0 2 1) apW (.collStat r0 20 4) (apOnly r0 [4] [20]) ∧
      ((collState x1 0 2 1).ctxAt 1).colls.at? 1 = some ⟨collRecord 0, 2, 1, 1, 0, 0, false, none, 0, 0, 0⟩ ∧
      ((collState x1 0 2 1).ctxAt 1).colls.at? 0 = some ⟨collRecord 0, 1, 1, 1, 0, 0, false, none, 0, 0, 0⟩ ∧
      ((collState x1 0 2 1).ctxAt 1).colls.at? 255 = none ∧ 256 ≤ ((collState x1 0 2 1).src apW 3).toNat) :=
  ⟨by decide +kernel, okAnd_spec (by decide +kernel), okAnd_spec (by decide +kernel), okAnd_spec (by decide +kernel), okAnd_spec (by decide +kernel),
    by decide +kernel, by decide +kernel, by decide +kernel⟩

/-! ## Witnesses: the Sluice instructions -/

/-- g1 = 262112, g2 = 262144, g3 = 1; an event of type 1 heads the queue. -/
def slEv : Sluice := { sl0 with regs := [(1, 262112), (2, 262144), (3, 1)], evq := [[1, 2, 3, 4]] }

theorem witness_EventResults :
    Ready (slOf slEv) slW (.evPop 4 1) (sluiceOnly [1, 0] [4]) ∧ Ready (slOf slEv) slW (.evPeek 4 1) (sluiceOnly [1, 0] [4]) ∧
    (((slOf slEv).slAt 0).reg 1).toNat % 32 = 0 ∧ (((slOf slEv).slAt 0).reg 1).toNat + 32 ≤ 262144 ∧
    ((slOf slEv).slAt 0).evq = [1, 2, 3, 4] :: [] ∧ ((slOf { slEv with evq := [] }).slAt 0).evq = [] ∧
    SluiceHasHandler (slOf slEv) 0 ∧ (((slOf slEv).slAt 0).reg 3).toNat % 32 ≠ 0 ∧
    ((((slOf slEv).slAt 0).reg 2).toNat % 32 = 0 ∧ 262144 < (((slOf slEv).slAt 0).reg 2).toNat + 32) := by decide +kernel

/-- A descriptor of one chunk of 64 bytes at SRAM 0. -/
def sendBytes : SMap Byte := [(8, 64), (0x1E, 64), (0x24, 1)]

def tr : Transfer := ⟨[], 511, 1, [], none, none, 0, 0⟩

/-- Flow 511 is valid; g1 = 64·4095 − 64·4095 = 0, g2 = 511, g3 = 512, g4 = 510, g5 = 2^32, g6 = 4095. -/
def slSend (ts : SMap Transfer) : Sluice := { sl0 with
  regs := [(2, 511), (3, 512), (4, 510), (5, 2 ^ 32), (6, 4095)]
  sram := sendBytes
  flows := [(8 * 511, BitVec.twoPow 64 63)]
  transfers := ts }

theorem at?_of_mem {α : Type} (l : SMap α) (h : Nat) (x : α) (m : (h, x) ∈ l) : l.at? h ≠ none := by
  induction l with
  | nil => cases m
  | cons p r ih =>
    obtain ⟨k, v⟩ := p
    unfold SMap.at?
    split
    · exact Option.some_ne_none v
    · rename_i hk
      refine ih ((List.mem_cons.mp m).resolve_left ?_)
      intro e
      exact hk (Prod.mk.inj e).1.symm

theorem every_listed {α : Type} (x : α) (n h : Nat) (hh : h < n) : SMap.at? ((List.range n).map (fun i => (i, x))) h ≠ none :=
  at?_of_mem _ h x (List.mem_map.mpr ⟨h, List.mem_range.mpr hh, rfl⟩)

theorem transfers_slSend (ts : SMap Transfer) : ((slOf (slSend ts)).slAt 0).transfers = ts := rfl

theorem witness_TransferResults :
    Ready (slOf (slSend [])) slW (.pktSend 7 0 2) (sluiceOnly [0, 2] [7]) ∧
    ((slOf (slSend [])).sendOk 1 (((slOf (slSend [])).slAt 0).sramBytes 0 64) = true ∧
      flowOn ((slOf (slSend [])).slAt 0) 511 = true ∧ flowOn ((slOf (slSend [])).slAt 0) 510 = false ∧
      (((slOf (slSend [])).slAt 0).reg 3).toNat = 512) ∧
    NextHandle ((slOf (slSend [])).slAt 0) 0 ∧
    (∀ h, h < 4096 → ((slOf (slSend ((List.range 4096).map (fun n => (n, tr))))).slAt 0).transfers.at? h ≠ none) ∧
    (Ready (slOf (slSend [(4095, tr)])) slW (.pktResend 7 6 2) (sluiceOnly [6, 2] [7]) ∧
      ((slOf (slSend [(4095, tr)])).slAt 0).transfers.at? 4095 = some (tr) ∧
      ((slOf (slSend [(4095, tr)])).slAt 0).transfers.at? 511 = none ∧
      2 ^ 32 ≤ (((slOf (slSend [])).slAt 0).reg 5).toNat) :=
  ⟨by decide +kernel, by decide +kernel, ⟨0, by decide +kernel, by decide +kernel, by decide +kernel, fun i h => absurd h (Nat.not_lt_zero i)⟩,
    fun h hh => by rw [transfers_slSend]; exact every_listed tr 4096 h hh, by decide +kernel⟩

/-- A record of type 4 of port 2 and connection 4095 at SRAM 0; g1 = 65535, g2 = 65536, g3 = 2, g4 = 3, g5 = 255. -/
def slPort : Sluice := { sl0 with
  regs := [(1, 65535), (2, 65536), (3, 2), (4, 3), (5, 255)]
  sram := [(0, 4), (1, 2), (16, 0xFF), (17, 0x0F)] }

def conn0 : Conn := ⟨0, 0, 1, 0, 0⟩

def portState : State := { slOf slPort with
  ports := [(2, { Port.fresh with conns := [(4095, conn0)], next := 2, holders := [⟨conn0, false⟩, ⟨conn0, false⟩] })]
  ctxs := [(1, { x1 with colls := [(255, ⟨collRecord 0, 1, 1, 1, 0, 0, false, none, 0, 0, 0⟩)] })] }

theorem witness_PortInstructions :
    (Ready portState slW (.chkReq 7 0 1) (sluiceOnly [0, 1] [7]) ∧
      (Spec.at_ ((portState.slAt 0).sramBytes 0 32) 0 1 = 4 ∧ Spec.at_ ((portState.slAt 0).sramBytes 0 32) 1 1 / 3 = 0) ∧
      (portState.portAt 2).conns.at? (Spec.at_ ((portState.slAt 0).sramBytes 0 32) 16 2 % 2 ^ 12) = some conn0 ∧
      ((portState.slAt 0).reg 1).toNat < 2 ^ 16 ∧ ((portState.slAt 0).reg 2).toNat = 2 ^ 16) ∧
    (Ready portState slW (.collStep 7 5 1) (sluiceOnly [5, 1] [7]) ∧
      (portState.ctxAt 1).colls.at? 255 = some ⟨collRecord 0, 1, 1, 1, 0, 0, false, none, 0, 0, 0⟩ ∧
      cPort (collRecord 0) / 3 = 0 ∧ (portState.slAt 0).bound = true ∧ (portState.ctxAt 1).colls.at? 2 = none) ∧
    Ready portState slW (.portSt 7 3 4) (sluiceOnly [3, 4] [7]) ∧ ((portState.slAt 0).reg 4).toNat = 3 := by decide +kernel

/-- g1 = the last byte of the grant, g2 = 7, g3 = 8, g4 = 2^32, g5 a span from 6 to 9, g6 an empty span, g7 a span of 6 to 8,
g8 = 262143; bits 6 and 7 of g1's byte are set. -/
def slBit : Sluice := { sl0 with
  regs := [(1, 0x01FFFF0040000FFF), (2, 7), (3, 8), (4, 2 ^ 32), (5, 9 * 2 ^ 32 + 6), (6, 6 * 2 ^ 32 + 6), (7, 8 * 2 ^ 32 + 6),
    (8, 262143)]
  sram := [(262143, 0x7F)] }

def bitState : State := (slOf slBit).setRaw (0x1000000000000 + 4095) 0xC0

theorem witness_BitmapResults :
    (Ready bitState slW (.bmpSet 9 1 2) (sluiceOnly [1, 2] [9]) ∧
      (bitByte bitState 0 (bitVa ((bitState.slAt 0).reg 1) 7)).isSome = true ∧
      (bitByte bitState 0 (bitVa ((bitState.slAt 0).reg 8) 7)).isSome = true ∧
      (bitByte bitState 0 (bitVa ((bitState.slAt 0).reg 1) 8)).isNone = true ∧ 2 ^ 32 ≤ ((bitState.slAt 0).reg 4).toNat ∧
      SluiceHasHandler bitState 0) ∧
    (Ready bitState slW (.bmpScan 9 1 5) (sluiceOnly [1, 5] [9]) ∧
      (bitOf bitState 0 ((bitState.slAt 0).reg 1) 6 = some true ∧ bitOf bitState 0 ((bitState.slAt 0).reg 1) 7 = some true ∧
        bitOf bitState 0 ((bitState.slAt 0).reg 1) 8 = none) ∧
      bitOf bitState 0 ((bitState.slAt 0).reg 8) 7 = some false ∧
      ((bitState.slAt 0).reg 6).toNat / 2 ^ 32 ≤ ((bitState.slAt 0).reg 6).toNat % 2 ^ 32) := by decide +kernel

/-- Flow 511 is valid; g1 = 255, g2 = 256, g3 = 2^40 − 1, g4 = 511, g5 = 8000, g6 = 1, g7 = 2^40, g8 = 2^32 − 1, g9 = 512,
g10 = 8001, g11 = 2, g12 = 2^32, g13 = 3. -/
def slFlow : Sluice := { slSend [] with
  regs := [(1, 255), (2, 256), (3, 2 ^ 40 - 1), (4, 511), (5, 8000), (6, 1), (7, 2 ^ 40), (8, 2 ^ 32 - 1), (9, 512), (10, 8001),
    (11, 2), (12, 2 ^ 32), (13, 3)]
  timers := [(255, 1, 0)] }

def flowState : State := { slOf slFlow with ports := portState.ports }

theorem witness_FlowInstructions :
    (Ready flowState slW (.tmrSet 14 1 3) (sluiceOnly [1, 3] [14]) ∧ ((flowState.slAt 0).reg 1).toNat < 256 ∧
      ((flowState.slAt 0).reg 3).toNat % 2 ^ 40 ≠ 0 ∧ 256 ≤ ((flowState.slAt 0).reg 2).toNat ∧
      ((flowState.slAt 0).reg 7).toNat % 2 ^ 40 = 0) ∧
    Ready flowState slW (.tmrClr 14 1) (sluiceOnly [1, 0] [14]) ∧
    (Ready flowState slW (.rateSet 14 4 5) (sluiceOnly [4, 5] [14]) ∧ ((flowState.slAt 0).reg 4).toNat < 512 ∧
      ((flowState.slAt 0).reg 5).toNat ≤ 8000 ∧ ¬ ((flowState.slAt 0).reg 10).toNat ≤ 8000 ∧
      flowOn (flowState.slAt 0) 511 = true ∧ 512 ≤ ((flowState.slAt 0).reg 9).toNat ∧ flowOn (flowState.slAt 0) 255 = false) ∧
    Ready flowState slW (.pathSet 14 4 3) (sluiceOnly [4, 3] [14]) ∧
    (Ready flowState slW (.rtoSet 14 4 3) (sluiceOnly [4, 3] [14]) ∧ ((flowState.slAt 0).reg 3).toNat < 2 ^ 40) ∧
    (Ready flowState slW (.pauseSnd 14 4 6) (sluiceOnly [4, 6] [14]) ∧ ((flowState.slAt 0).reg 6).toNat ≤ 1) ∧
    (Ready flowState slW (.weirTake 14 4 7) (sluiceOnly [4, 7] [14]) ∧ ((flowState.slAt 0).reg 7).toNat ≤ 2 ^ 40) ∧
    (Ready flowState slW (.weirDone 14 4 8) (sluiceOnly [4, 8] [14]) ∧ ((flowState.slAt 0).reg 8).toNat < 2 ^ 32) ∧
    (Ready flowState slW (.weirCall 14 11 6) (sluiceOnly [11, 6] [14]) ∧ ((flowState.slAt 0).reg 11).toNat < 3 ∧
      0 < min (gap 1 (flowState.portAt 2).called + 1) (gap (flowState.portAt 2).next (flowState.portAt 2).called) ∧
      2 ^ 32 ≤ ((flowState.slAt 0).reg 12).toNat ∧ 3 ≤ ((flowState.slAt 0).reg 13).toNat) := by decide +kernel

/-! ## Witnesses: vector syllables -/

/-- `Reachable`, as a question that evaluates. -/
abbrev Near (s : State) (l : LCore) (x : El) : Prop :=
  x.mis = false ∧ 0 ≤ x.pos ∧ x.pos + x.b ≤ 2 ^ 24 ∧
  (∀ v ∈ [x.off / 16384, (x.off + x.len - 1) / 16384], l.lsAllotted v = true ∧ l.lsPresent v = true) ∧
  s.inRange l.ctx (0x01FFFF0000000000 + x.off) x.len = false

theorem reachable_of (s : State) (l : LCore) (els : List El) (h : ∀ x ∈ els, Near s l x) : ∀ x ∈ els, Reachable s l x :=
  fun x hx => ⟨(h x hx).1, (h x hx).2.1, (h x hx).2.2.1, fun v hv => (h x hx).2.2.2.1 v (by simpa using hv), (h x hx).2.2.2.2⟩

/-- A region: base, type, counts; its elements lie one after another. -/
def rd (base ty c0 c1 : Nat) : BitVec 128 :=
  BitVec.ofNat 128 (base + ty * 2 ^ 21 + c0 * 2 ^ 26 + 2 ^ 42 + c1 * 2 ^ 58 + c0 * 2 ^ 74)

/-- A logical core with the regions `ds`, page 0 of its local store present, and g1 = −1, g2 = 0x01FFFF0040000000. -/
def lv (ds : SMap (BitVec 128)) : LCore :=
  { lr [(1, -1), (2, 0x01FFFF0040000000)] with descs := ds, lsmap := [(0, 0xC000)] }

/-- The EP's bundle holds a vector syllable of that logical core; the first FP32 elements of offsets 0 and 64 are 1.0. -/
def vs (ds : SMap (BitVec 128)) : State :=
  let s := ((epOf (lv ds)).setRaws (paLocal 0) [0, 0, 0x80, 0x3F]).setRaws (paLocal 0 + 64) [0, 0, 0x80, 0x3F]
  { s with cur := { s.cur with vector := true } }

/-- The elements of region `d`. -/
def els (ds : SMap (BitVec 128)) (d : Nat) : List El := (List.range (cnt (lv ds) d)).map (rg (lv ds) d).el

/-- FP32 regions d1 and d3 of 128 elements, d2 of 2. -/
def f32s : SMap (BitVec 128) := [(1, rd 0 1 128 1), (2, rd 1024 1 2 1), (3, rd 2048 1 128 1)]

theorem witness_VectorElements :
    (Ready (vs f32s) epW (.vadd r0 true 3 3 1 2 1) (vectorUse r0 true [] []) ∧ modeOk 3 1 ∧ typed (lv f32s) 1 [3, 1, 2] ∧
      isBeat (lv f32s) [3, 1, 2] 0 128 (cnt (lv f32s) 3) ∧ (lv f32s).assist = none ∧ (lv f32s).vdone < cnt (lv f32s) 3 ∧
      (∀ n ∈ upTo 0 128, (addE 1 (RMode.ofCode 3) (tiny (lv f32s)) ((vs f32s).readEl (lv f32s) ((rg (lv f32s) 1).el n)) 0).assist = false) ∧
      (∀ x ∈ els f32s 1 ++ els f32s 2 ++ els f32s 3, Reachable (vs f32s) (lv f32s) x)) ∧
    (Ready (vs f32s) epW (.vmacs r0 true 3 1 23 1) (vectorUse r0 true [23] []) ∧ typed (lv f32s) 1 [3, 1]) ∧
    (Ready (vs [(1, rd 0 8 64 1), (2, rd 0 8 64 1), (3, rd 1024 15 64 1)]) epW (.vcmpLe r0 true 3 1 2 8) (vectorUse r0 true [] []) ∧
      typed (lv [(1, rd 0 8 64 1), (2, rd 0 8 64 1), (3, rd 1024 15 64 1)]) 15 [3] ∧
      isBeat (lv [(1, rd 0 8 64 1), (2, rd 0 8 64 1), (3, rd 1024 15 64 1)]) [3, 1, 2] 0 64 64) ∧
    (Ready (vs [(1, rd 0 1 1 1), (3, rd 64 4 1 1)]) epW (.vcvt r0 true 3 1 0 4 1 1) (vectorUse r0 true [] []) ∧
      (convertE 1 4 .rne .assist true 0x3F800000).assist = false) ∧
    (Ready (vs [(3, rd 0 15 4096 1)]) epW (.vseti r0 true 3 65535) (vectorUse r0 true [] []) ∧
      isBeat (lv [(3, rd 0 15 4096 1)]) [3] 0 4096 (cnt (lv [(3, rd 0 15 4096 1)]) 3)) ∧
    (Ready (vs [(3, rd 0 4 2 1)]) epW (.vsetf r0 true 3 0x3F80) (vectorUse r0 true [] []) ∧
      (rg (lv [(3, rd 0 4 2 1)]) 3).ty < 15 ∧ (rg (lv [(3, rd 0 4 2 1)]) 3).ty ≠ 7) ∧
    Ready (vs f32s) epW (.vfill r0 true 3 0 1) (vectorUse r0 true [0] []) ∧
    (Ready (vs [(1, rd 0 9 1 1), (2, rd 64 9 1 1), (3, rd 128 15 1 1)]) epW (.vstop r0 true 3 1 2) (vectorUse r0 true [] []) ∧
      typed (lv [(1, rd 0 9 1 1), (2, rd 64 9 1 1), (3, rd 128 15 1 1)]) 9 [1, 2]) :=
  ⟨⟨by decide +kernel, by decide +kernel, by decide +kernel, by decide +kernel, by decide +kernel, by decide +kernel,
      by decide +kernel, reachable_of _ _ _ (by decide +kernel)⟩,
    by decide +kernel, by decide +kernel, by decide +kernel, by decide +kernel, by decide +kernel, by decide +kernel, by decide +kernel⟩

theorem witness_ElementAccess :
    ((rg (lv f32s) 3).at2 127 0).mis = false ∧ 0 ≤ ((rg (lv f32s) 3).at2 127 0).pos ∧ (rg (lv f32s) 3).ty < 16 ∧
    tyBits (rg (lv [(1, rd 1 6 3 1)]) 1).ty < 8 := by decide +kernel

theorem witness_ElementFunctions :
    ((2 ^ 64 - 1) < 2 ^ tyBits 8 ∧ 2 ^ 7 < 2 ^ tyBits 11) ∧
    ∃ f, tyFmt 1 = some f ∧ (f.value 0x7FC00000).isNan = true := ⟨by decide +kernel, _, rfl, by decide +kernel⟩

/-- A row of two FP32 elements and its destination. -/
def rows : SMap (BitVec 128) := [(1, rd 0 1 2 1), (3, rd 128 1 1 1), (4, rd 256 1 2 1)]

theorem witness_RowsAndScans :
    (Ready (vs rows) epW (.vsum r0 true 0 3 1 1) (vectorUse r0 true [] []) ∧ modeOk 0 1 ∧ typed (lv rows) 1 [1, 3] ∧
      cnt (lv rows) 3 = (rg (lv rows) 1).count1 ∧ (sumRow 1 1 .rne .assist [0x3F800000, 0]).assist = false ∧
      (∀ x ∈ els rows 1 ++ els rows 3, Reachable (vs rows) (lv rows) x)) ∧
    (Ready (vs rows) epW (.vscanAdd r0 true 4 1 1) (vectorUse r0 true [] []) ∧ (rg (lv rows) 4).count0 = (rg (lv rows) 1).count0 ∧
      (rg (lv rows) 4).count1 = (rg (lv rows) 1).count1) :=
  ⟨⟨by decide +kernel, by decide +kernel, by decide +kernel, by decide +kernel, by decide +kernel,
    reachable_of _ _ _ (by decide +kernel)⟩, by decide +kernel⟩

/-- Data d1, indices d2, destination d15 with its validity region d0, a bit region d4; all of two elements. -/
def lanes : SMap (BitVec 128) :=
  [(0, rd 512 15 2 1), (1, rd 0 9 2 1), (2, rd 128 9 2 1), (4, rd 640 15 2 1), (15, rd 256 9 2 1)]

theorem witness_VectorMoves :
    (Ready (vs lanes) epW (.vperm r0 true 15 1 2 9) (vectorUse r0 true [] []) ∧ typed (lv lanes) 9 [15, 1] ∧
      hasValidity (lv lanes) 15 ∧ isBeat (lv lanes) [15, 1, 2, validity 15] 0 2 (cnt (lv lanes) 15) ∧
      (∀ x ∈ els lanes 0 ++ els lanes 1 ++ els lanes 2 ++ els lanes 15, Reachable (vs lanes) (lv lanes) x)) ∧
    (Ready (vs lanes) epW (.vshift r0 true 15 1 1 9) (vectorUse r0 true [1] []) ∧
      (rg (lv lanes) 15).count0 = (rg (lv lanes) 1).count0) ∧
    Ready (vs lanes) epW (.vbcast r0 true 15 1 0 9) (vectorUse r0 true [0] []) ∧
    (Ready (vs lanes) epW (.vcompact r0 true 15 1 4 9) (vectorUse r0 true [] [30]) ∧ typed (lv lanes) 15 [4] ∧
      cnt (lv lanes) 1 ≤ cnt (lv lanes) 4 ∧ (lv lanes).vpos = none ∧ oneBeat (lv lanes) [15, 1, 4] (cnt (lv lanes) 1)) ∧
    Ready (vs lanes) epW (.vexpand r0 true 15 1 4 9) (vectorUse r0 true [] [30]) ∧
    (Ready (epOf { l0 with qs := [(5, [1, 2])] }) epW (.vmovDescriptor r0 true 7 5) (vectorUse r0 true [29] []) ∧
      ((epOf { l0 with qs := [(5, [1, 2])] }).lcAt 0).queue 5 = 1 :: 2 :: []) :=
  ⟨⟨by decide +kernel, by decide +kernel, by decide +kernel, by decide +kernel, reachable_of _ _ _ (by decide +kernel)⟩,
    by decide +kernel, by decide +kernel, by decide +kernel, by decide +kernel, by decide +kernel⟩

/-- Two rows of one FP32 column, one place for the best row and its score; and keys, slots and results of a probe. -/
def search : SMap (BitVec 128) :=
  [(1, rd 0 1 1 2), (2, rd 128 1 1 1), (3, rd 256 9 1 1), (4, rd 512 12 1 1), (5, rd 1024 8 2 1), (6, rd 1280 1 2 1), (7, rd 1408 1 2 1)]

theorem witness_VectorSearches :
    (Ready (vs search) epW (.vcolsel r0 true 3 1 2 1) (vectorUse r0 true [] []) ∧ typed (lv search) 1 [1, 2] ∧
      cnt (lv search) 3 ≤ cnt (lv search) 2 ∧ 0 < cnt (lv search) 3 ∧ [0, 1].Perm (List.range (rg (lv search) 1).count1) ∧
      [0, 1].Pairwise (Ranks 1 (fun r => if r = 0 then 0x3F800000 else 0)) ∧
      (∀ x ∈ els search 1 ++ els search 2 ++ els search 3, Reachable (vs search) (lv search) x)) ∧
    (Ready (vs search) epW (.vprobe r0 true 3 4 5) (vectorUse r0 true [] []) ∧ typed (lv search) 12 [4] ∧
      typed (lv search) 9 [3] ∧ typed (lv search) 8 [5] ∧ cnt (lv search) 5 = 2 ^ 1) ∧
    (Ready (vs search) epW (.vamoAdd r0 true 7 6 2 1) (vectorUse r0 true [2] []) ∧
      ((lv search).reg true 2 + BitVec.ofNat 64 (4 * 0)).toNat % 4 = 0 ∧
      ∃ y, (vs search).bankAlu epW 0x01FFFF0040000000 4 (fun x => (addE 1 .rne .gradual x 0).bits) = .ok y) ∧
    (Ready (vs search) epW (.vamoComb r0 true 7 6 2) (vectorUse r0 true [2] []) ∧ (rg (lv search) 6).count0 = 2 ∧
      ∃ y, (vs search).bankAlu epW 0x01FFFF0040000000 8 (fun x => recordOf (combine (recordWords 2 x) [0, 0])) = .ok y) :=
  ⟨⟨by decide +kernel, by decide +kernel, by decide +kernel, by decide +kernel, by decide +kernel,
      List.pairwise_pair.mpr (Or.inr (Or.inl (by decide +kernel))),
      reachable_of _ _ _ (by decide +kernel)⟩, by decide +kernel,
    ⟨by decide +kernel, by decide +kernel, isOk_spec (by decide +kernel)⟩,
    ⟨by decide +kernel, by decide +kernel, isOk_spec (by decide +kernel)⟩⟩

/-- `vadd.f32 d3, d1, d2`, and regions of one element of which d1's base is odd. -/
def oddRegs : SMap (BitVec 128) := [(1, rd 1 1 1 1), (2, rd 64 1 1 1), (3, rd 128 1 1 1)]

theorem witness_VectorRuns :
    (∃ v, (Instr.vadd r0 true 0 3 1 2 6).vop = some v ∧ v.illegal (lv f32s) = true) ∧
    (∃ v, (Instr.vadd r0 true 0 3 1 2 1).vop = some v ∧ v.illegal (lv f32s) = false ∧ v.pair = none ∧
      (vs rows).issue epW v.use = .go ∧ v.operand (lv f32s) = false ∧ (lv f32s).vdone < v.work (lv f32s) ∧
      ((vs oddRegs).runBeats 0 v (v.work (lv oddRegs) + 1)).2 = .fault 2 0x01FFFF0000000001 false) ∧
    (∃ v, (Instr.vmov r0 true 4 1 1).vop = some v ∧ ((vs rows).runBeats 0 v (v.work (lv rows) + 1)).2 = .done ∧
      (((vs rows).setLc 0 { lv rows with lsmap := [(0, 0x8000)] }).runBeats 0 v 3).2 = .wait 0 0) ∧
    (∃ v, (Instr.vsum r0 true 0 4 1 1).vop = some v ∧ v.operand (lv rows) = true) ∧
    MayTrap (vs rows) epW ∧ ((⟨8, 32, true⟩ : El).mis = true) ∧ ((⟨-8, 32, false⟩ : El).outside = true) ∧
    (lv rows).elUnallotted ⟨8 * 16384, 32, false⟩ = true :=
  ⟨⟨_, rfl, by decide +kernel⟩,
    ⟨_, rfl, by decide +kernel, by decide +kernel, by decide +kernel, by decide +kernel, by decide +kernel, by decide +kernel⟩,
    ⟨_, rfl, by decide +kernel, by decide +kernel⟩, ⟨_, rfl, by decide +kernel⟩, by decide +kernel, by decide +kernel,
    by decide +kernel, by decide +kernel⟩

/-! ## Witnesses: the matrix array and the rotator -/

/-- q0 and q1 hold two entries each, q2 one. -/
def lq : LCore := { l0 with qs := [(0, [1, 2]), (1, [3, 4]), (2, [5])] }

def mxCmd : MxCmd := ⟨0x0E081000, false, false, 0, [], 0x1000, 0⟩
def rtCmd : RtCmd := ⟨0x0E800000, false, 0, 0, 0x1000, 0⟩

theorem witness_EngineHandOver :
    (Ready (epOf lq) epW (.mxMacz r0 true 2 0 0 1) (engineUse true 3 [24, 25]) ∧ bankOk lq 2 0 ∧ lq.kern.units.testBit 0 = true ∧
      (∀ p ∈ [(0, 2), (1, 2)], p.2 ≤ (lq.queue p.1).length) ∧ lq.mxFifo.length < 16) ∧
    (Ready (epOf { lq with mxFifo := List.replicate 16 mxCmd }) epW (.mxMask r0 true 2) (engineUse true 3 [26]) ∧
      16 ≤ ({ lq with mxFifo := List.replicate 16 mxCmd } : LCore).mxFifo.length) ∧
    (Ready (epOf lq) epW (.mxLd r0 true 3 2) (engineUse true 3 [26]) ∧
      [(2, 2)].find? (fun p => decide ((lq.queue p.1).length < p.2)) = some (2, 2)) ∧
    (({ lq with kern := { lq.kern with units := 6 } } : LCore).kern.units.testBit 0 = false ∧ MayTrap (epOf lq) epW) ∧
    (Ready (epOf lq) epW (.mxSync ⟨true, false, false, false⟩ true) (engineUse true 3 []) ∧ lq.mxFifo = [] ∧
      Rill.any ⟨true, false, false, false⟩ = true) ∧
    (Ready (epOf { lq with mxFifo := [mxCmd] }) epW (.mxSync r0 true) (engineUse true 3 []) ∧
      ({ lq with mxFifo := [mxCmd] } : LCore).mxFifo ≠ []) ∧
    (Ready (epOf (lv f32s)) epW (.rtQr r0 true 2 1 2 4) (engineUse true 4 []) ∧ (lv f32s).kern.units.testBit 1 = true ∧
      (∀ p ∈ [(1, 1), (2, 1)], ((lv f32s).region p.1).ty = p.2) ∧ (lv f32s).rtFifo.length < 8) ∧
    (Ready (epOf { lv f32s with rtFifo := List.replicate 8 rtCmd }) epW (.rtClr r0 true) (engineUse true 4 []) ∧
      8 ≤ ({ lv f32s with rtFifo := List.replicate 8 rtCmd } : LCore).rtFifo.length) ∧
    (¬ ((lv lanes).region 1).ty = 1 ∧ MayTrap (epOf (lv lanes)) epW) := by decide +kernel

/-! ## Witnesses: host registers and packets -/

/-- A packet of type `kind`: one entry, and the fields `fs` (offset, bytes, value). -/
def pkt (kind : Nat) (fs : List (Nat × Nat × Nat)) : List Byte :=
  fs.foldl (fun b f => b.take f.1 ++ bytesOf f.2.1 f.2.2 ++ b.drop (f.1 + f.2.1))
    (bytesOf 2 kind ++ bytesOf 2 1 ++ bytesOf 60 0)

/-- Queue 0 of context 1 is enabled and resident with the entries `es` from entry 0 on, and queue 1 is its handler queue. -/
def hq (l : LCore) (es : List (List Byte)) : State :=
  { ((dev l).setRaws 0x50000 es.flatten) with
    queues := [
      (0, { HostQ.fresh with w0 := 0x8010000000050004, w2 := 0x0001000000000000, latch := es.length, res := true }),
      (1, { HostQ.fresh with w0 := 0xC000000000060004, w2 := 0x0001000000000000 })] }

/-- As `hq`, with packet 0 started, `n` bytes of it copied. -/
def hqOn (b : List Byte) (n : Nat) : State :=
  let s := hq l0 [b]
  queueSet s 0 { s.queueAt 0 with started := [⟨0, 1, b, false, n, false, 0⟩], next := 1 }

/-- Signal 8 of context 1. -/
def sigA : Nat := 0x01FFFF0040000040

theorem witness_HostRegisterEvents :
    -- doorbells at both ends of the window, and outside it
    (HostWrites (hq l0 [pkt 3 []]) 0 ∧ ((hq l0 [pkt 3 []]).queueAt 0).enabled = true ∧ ((hq l0 [pkt 3 []]).queueAt 0).isHandler = false ∧
      sub32 1 0 ≤ sub32 (0x100000010 % 2 ^ 32) 0 ∧ sub32 (0x100000010 % 2 ^ 32) 0 ≤ ((hq l0 [pkt 3 []]).queueAt 0).size ∧
      ((hq l0 [pkt 3 []]).queueAt 0).size < sub32 17 0) ∧
    (HostWrites (hq l0 []) 1 ∧ ((hq l0 []).queueAt 1).enabled = true ∧ ((hq l0 []).queueAt 1).isHandler = true ∧
      ((hq l0 []).queueAt 1).owed = [] ∧ sub32 0 0 ≤ sub32 0 0 ∧ sub32 0 0 < sub32 1 0) ∧
    (HostWrites (dev l0) 255 ∧ ((dev l0).queueAt 255).enabled = false ∧ ((dev l0).queueAt 255).isHandler = false) ∧
    -- enabling
    (HostWrites (hq l0 []) 2 ∧ ((hq l0 []).queueAt 2).enabled = false ∧
      (BitVec.ofNat 64 0x8010000000070004 : Word).getLsbD 63 = true ∧
      MayEnable (hq l0 []) 0 { (hq l0 []).queueAt 0 with w0 := 0x8010000000070004 } ∧
      ¬ MayEnable (hq l0 []) 2 { (hq l0 []).queueAt 2 with w0 := 0x8010000000070004 }) ∧
    -- disabling, RESUME, residence
    (((hq l0 []).queueAt 0).state = 0 ∧ (hq l0 []).hpend 0 = false ∧ ((hq l0 []).queueAt 0).started = [] ∧
      ((hq l0 [pkt 3 []]).queueAt 0).state ≠ 0) ∧
    ((((hq l0 []).setQ 0 { (hq l0 []).queueAt 0 with stopped := true }).queueAt 0).stopped = true) ∧
    (((hq l0 []).queueAt 1).res = false ∧ ((hq l0 []).queues.filter (fun p => p.2.res)).length < 64 ∧
      ((hq l0 []).queueAt 0).res = true) ∧
    -- mailboxes
    (ofBytes ((List.range 4).map (fun i => ({ dev l0 with control := [(0, 7)] } : State).control.atD (4 + i) 0)) ≠ 1 ∧
      (({ dev l0 with control := [(0, 7)] } : State).control.atD 0 0).toNat = 7) ∧
    (ofBytes ((List.range 4).map (fun i => ({ dev l0 with slotbox := [(1, 2)] } : State).slotbox.atD (0x20 + i) 0)) ≠ 1 ∧
      (({ dev l0 with slotbox := [(1, 2)] } : State).slotbox.atD 1 0).toNat = 2) ∧
    -- the aperture and the ports
    ((dev l0).hstate < 2 ∧ (dev l0).formats = [] ∧ 2 ^ 36 - 1 + [(7 : Byte)].length ≤ 2 ^ 36) ∧
    (((dev l0).setPort 47 { Port.fresh with up := false }).portAt 47).up = false :=
  ⟨by decide +kernel, by decide +kernel, by decide +kernel, by decide +kernel, by decide +kernel, by decide +kernel, by decide +kernel, by decide +kernel, by decide +kernel, by decide +kernel, by decide +kernel⟩

/-- The value 7 or −1 stands in the last signal of the BARRIER `bar3`. -/
def bar3 : List Byte := pkt 2 [(0x10, 1, 3), (0x18, 8, sigA), (0x20, 8, sigA + 8), (0x28, 8, sigA + 16)]
def sig (v : BitVec 64) (es : List (List Byte)) : State := (hq l0 es).setRaws 0x1000000000050 (bytesOf 8 v.toNat)

/-- COPY of 2^40 bytes from 0x2000 to 0x3000. -/
def cpy : List Byte := pkt 4 [(0x18, 8, 0x3000), (0x20, 8, 0x2000), (0x28, 8, 2 ^ 40)]

abbrev readable (s : State) (ctx va n : Nat) : Prop :=
  (match s.distRead ctx va n with
    | .ok _ => true
    | .error _ => false) = true
abbrev writable (s : State) (ctx va n : Nat) : Prop :=
  (match s.distWrite ctx va (List.replicate n 1) with
    | .ok _ => true
    | .error _ => false) = true

/-- An image whose table of levels, tiles and storage is empty. -/
def img : Image := ⟨0, List.replicate 160 0, [], 0x1000, 0x1000, 0⟩

/-- Slot 63 holds a kernel without levels, tiles or storage. -/
def slots (s : State) : State := s.setSlot 63 { ModelSlot.fresh with ctx := 1, state := 2, images := [img] }

def adm : List Byte := pkt 5 [(0x10, 2, 4095), (0x12, 1, 63)]
def lau0 : List Byte := pkt 1 [(2, 1, 4), (0x10, 1, 63)]
def lau : List (List Byte) := lau0 :: List.replicate 3 (List.replicate 64 0)

/-- Queue 0's ring stands in host memory. -/
def hostRing : State := (hq l0 [pkt 3 []]).setQ 0 { (hq l0 [pkt 3 []]).queueAt 0 with w0 := 0x8014000000000004 }

theorem witness_PacketEvents :
    -- SIGNAL
    (Spec.Turn (hq l0 [pkt 3 [(0x18, 8, sigA)]]) 0 0 (pkt 3 [(0x18, 8, sigA)]) 3 ∧
      GoodHead (hq l0 [pkt 3 [(0x18, 8, sigA)]]) 0 (pkt 3 [(0x18, 8, sigA)]) ∧
      ZeroIn (pkt 3 [(0x18, 8, sigA)]) 0x11 0x18 ∧ ZeroIn (pkt 3 [(0x18, 8, sigA)]) 0x28 0x40 ∧
      IsSignal (hq l0 [pkt 3 [(0x18, 8, sigA)]]) 1 sigA) ∧
    (Spec.Turn (hq l0 [pkt 3 [(1, 1, 4)]]) 0 0 (pkt 3 [(1, 1, 4)]) 3 ∧ Spec.at_ (pkt 3 [(1, 1, 4)]) 1 1 = 4) ∧
    -- BARRIER: no signals; one that is not zero; one that is negative
    (Spec.Turn (hq l0 [pkt 2 []]) 0 0 (pkt 2 []) 2 ∧ GoodHead (hq l0 [pkt 2 []]) 0 (pkt 2 []) ∧
      GoodBarrier (hq l0 [pkt 2 []]) 0 (pkt 2 []) ∧
      ((((hq l0 [pkt 2 []]).beginPacket 0 0 (pkt 2 [])).queueAt 0).running 0).map Started.bytes = some (pkt 2 [])) ∧
    (GoodBarrier (hq l0 [bar3]) 0 bar3 ∧ barrierValue (hq l0 [bar3]) 0 bar3 2 = 0 ∧ (sig 7 [bar3]).startable 0 = some (0, bar3) ∧
      barrierValue (sig 7 [bar3]) 0 bar3 2 = 7 ∧ Lowest 3 (fun i => (barrierValue (sig (-1) [bar3]) 0 bar3 i).msb = true) 2) ∧
    ((hqOn bar3 0).queueAt 0).started = [⟨0, 1, bar3, false, 0, false, 0⟩] ∧
    HostWrites (hqOn bar3 0) 0 ∧
    -- COPY
    (Spec.Turn (hq l0 [cpy]) 0 0 cpy 4 ∧ GoodHead (hq l0 [cpy]) 0 cpy ∧ ZeroIn cpy 0x10 0x18 ∧ ZeroIn cpy 0x30 0x40 ∧ Spec.at_ cpy 0x28 8 = 2 ^ 40) ∧
    (((hqOn cpy 0).queueAt 0).running 0 = some ⟨0, 1, cpy, false, 0, false, 0⟩ ∧ Spec.at_ cpy 0 1 = 4 ∧ ((hqOn cpy 0).ctxAt 1).stopped = false ∧
      readable (hqOn cpy 0) 1 (Spec.at_ cpy 0x20 8) 4096 ∧ writable (hqOn cpy 0) 1 (Spec.at_ cpy 0x18 8) 4096 ∧
      ¬ readable (hqOn cpy 4096) 1 (Spec.at_ cpy 0x20 8 + 8192) 4096) ∧
    -- ADMIT and FENCE
    (Spec.Turn (slots (hq l0 [adm])) 0 0 adm 5 ∧ GoodHead (slots (hq l0 [adm])) 0 adm ∧ Spec.at_ adm 0x10 2 = 4095 ∧
      ((slots (hq l0 [adm])).seqWord 4095 0).toNat / 2 ^ 62 = 0 ∧ Spec.at_ adm 0x12 1 = 63 ∧ ((slots (hq l0 [adm])).slotAt 63).state = 2 ∧
      ((slots (hq l0 [adm])).slotAt 63).ctx = 1 ∧ ZeroIn adm 0x13 0x18 ∧ Spec.at_ adm 0x18 8 % 8 = 0 ∧ ZeroIn adm 0x24 0x40) ∧
    (Spec.Turn (hq l0 [pkt 8 [(0x10, 1, 3)]]) 0 0 (pkt 8 [(0x10, 1, 3)]) 8 ∧ ZeroIn (pkt 8 [(0x10, 1, 3)]) 0x11 0x40 ∧
      ((hq l0 [pkt 8 [(0x10, 1, 3)]]).queueAt 0).started = []) ∧
    (Spec.Turn (hq l0 [pkt 9 []]) 0 0 (pkt 9 []) 9 ∧ Spec.Turn (hq l0 [pkt 9 [(1, 1, 128)]]) 0 0 (pkt 9 [(1, 1, 128)]) 9) ∧
    -- LAUNCH: one that is in order, and one of a slot that is not loaded
    (Spec.Turn (slots (hq l0 lau)) 0 0 lau0 1 ∧ (slots (hq l0 lau)).launchChecks 1 true ((slots (hq l0 lau)).launchBytes 0 0) = none ∧
      (slots (hq l0 lau)).freeNode = some 0 ∧ ZeroIn lau0 0x16 0x18 ∧ ZeroIn lau0 0x28 0x40 ∧ Spec.at_ lau0 0x10 1 = 63 ∧
      Spec.at_ lau0 0x20 8 % 64 = 0 ∧ 4 ≤ sub32 ((slots (hq l0 lau)).queueAt 0).latch 0) ∧
    ((hq l0 lau).launchChecks 1 true ((hq l0 lau).launchBytes 0 0)).isSome = true ∧
    -- a ring in host memory
    (((hostRing.startable 0).map Prod.fst) = some 0 ∧ (hostRing.queueAt 0).entryPa 0 = 0x4000000000000) :=
  ⟨by decide +kernel, by decide +kernel, by decide +kernel, by decide +kernel, by decide +kernel, by decide +kernel, by decide +kernel, by decide +kernel, by decide +kernel, by decide +kernel, by decide +kernel, by decide +kernel, by decide +kernel, by decide +kernel⟩

/-- `hqOn` with the flags `fl` in the packet, a fault of it found when `x` says so, and the handler queue filled up to `prog`. -/
def hqFull (b : List Byte) (n prog : Nat) (x : Bool) : State :=
  let s := hqOn b n
  queueSet (queueSet s 0 { s.queueAt 0 with started := [⟨0, 1, b, false, n, x, 0⟩] }) 1 { s.queueAt 1 with prog := prog }

/-- Packet 0 of two has started. -/
def twoPkts : State :=
  let s := hq l0 [pkt 3 [], pkt 3 []]
  queueSet s 0 { s.queueAt 0 with started := [⟨0, 1, pkt 3 [(1, 1, 1)], false, 0, false, 0⟩], next := 1 }

theorem witness_PacketProgress :
    -- a start in its turn, ahead of its turn, and before one that has started ahead
    ((∀ y ∈ ((hqOn (pkt 3 []) 0).queueAt 0).started, y.entry ≠ 1 ∧ y.entry ≠ (1 + 1) % 2 ^ 32) ∧ ((hqOn (pkt 3 []) 0).queueAt 0).next = 1) ∧
    (∀ y ∈ ((hqOn (pkt 3 []) 0).queueAt 0).started, y.entry ≠ ((hqOn (pkt 3 []) 0).queueAt 0).next) ∧
    (let s := queueSet (hq l0 [pkt 3 [], pkt 6 [], pkt 3 []]) 0 { (hq l0 [pkt 3 [], pkt 6 [], pkt 3 []]).queueAt 0 with
        started := [⟨1, 1, pkt 6 [], false, 0, false, 0⟩] }
      ∀ y ∈ (s.queueAt 0).started, y.entry = (0 + 1) % 2 ^ 32 ∧ y.entry ≠ (s.queueAt 0).latch ∧ 0 = (s.queueAt 0).next ∧
        y.entry ≠ 0 ∧ y.entry ≠ (y.entry + y.len) % 2 ^ 32) ∧
    -- a completion, without and with a csig
    (((hqOn (pkt 3 []) 0).queueAt 0).running 0 = some ⟨0, 1, pkt 3 [], false, 0, false, 0⟩ ∧ Spec.at_ (pkt 3 []) 8 8 = 0) ∧
    (((hqOn (pkt 3 [(8, 8, sigA)]) 0).queueAt 0).running 0 = some ⟨0, 1, pkt 3 [(8, 8, sigA)], false, 0, false, 0⟩ ∧
      SignalHome (hqOn (pkt 3 [(8, 8, sigA)]) 0) 1 (Spec.at_ (pkt 3 [(8, 8, sigA)]) 8 8) 0x1000000000040 ∧
      Follows 0 [⟨0, 1, pkt 3 [], true, 0, false, 0⟩] 1) ∧
    -- a HANDLER that is appended, and one that waits
    (let s := hqOn (pkt 3 []) 0;
      (s.queueAt 0).isHandler = false ∧ (s.queueAt 0).sib = 1 ∧ (s.queueAt 1).enabled = true ∧ (s.queueAt 1).isHandler = true ∧
      (s.queueAt 1).owed = [] ∧ (s.queueAt 1).ctx = (s.queueAt 0).ctx ∧
      sub32 (s.queueAt 1).prog (s.queueAt 1).latch < (s.queueAt 1).size) ∧
    (((hqFull cpy 0 16 false).queueAt 1).size ≤ sub32 ((hqFull cpy 0 16 false).queueAt 1).prog ((hqFull cpy 0 16 false).queueAt 1).latch ∧
      ((hqFull cpy 0 16 false).queueAt 0).sib ≠ 0) ∧
    -- an abort behind which one packet stands
    (((twoPkts.queueAt 0).running 0).map (fun p => Spec.at_ p.bytes 1 1 % 2) = some 1 ∧
      ∃ t, AbortsRest 0 1 (twoPkts.completePacket 0 0 true) t) ∧
    -- a queue that another one precedes
    ((hq l0 [pkt 3 []]).outranked 0 = false ∧
      ({ queueSet (hq l0 [pkt 3 []]) 6 ((hq l0 [pkt 3 []]).queueAt 0) with wakeTurn := [(0, 0)] } : State).outranked 0 = true) :=
  ⟨by decide +kernel, by decide +kernel, by decide +kernel, by decide +kernel, ⟨by decide +kernel, by decide +kernel, rfl, rfl, rfl⟩, by decide +kernel, by decide +kernel,
    ⟨by decide +kernel, _, _, ⟨by decide +kernel, by decide +kernel, rfl⟩, rfl, by decide +kernel⟩, by decide +kernel⟩

/-- A node of kernel 0 of slot 63 of context 1, in the pool, with the LAUNCH image `b`. -/
def pooled (b : List Byte) : Node := { heldNode with held := false, slot := 63, image := b }

theorem witness_NodeEntry :
    (((slots (dev l0)).slotAt (Spec.at_ lau0 0x10 1)).images[Spec.at_ lau0 0x11 1]? = some img) ∧
    -- a node that waits for nothing, with no predicate, a readable one, and one that cannot be read
    (Waits (pooled lau0) ∧ Spec.at_ (pooled lau0).image 0x18 8 = 0) ∧
    (readable (dev l0) 1 0x2000 4 ∧ Spec.at_ (pooled (pkt 1 [(0x18, 8, 0x2000)])).image 0x18 8 = 0x2000) ∧
    (¬ readable (dev l0) 1 0x9000 4 ∧ Spec.at_ (pooled (pkt 1 [(0x18, 8, 0x9000)])).image 0x18 8 = 0x9000) ∧
    -- launch checks 1 and 2
    (((slots (dev l0)).slotAt 62).state ≠ 2 ∧ ((slots (dev l0)).slotAt 63).state = 2 ∧ ((slots (dev l0)).slotAt 63).ctx = 1 ∧
      ((slots (dev l0)).slotAt 63).images[1]? = none) ∧
    -- checks 3 to 5: C and D products and sizes beyond the limits
    (let m (o n v : Nat) : Image := { img with head := img.head.take o ++ bytesOf n v ++ img.head.drop (o + n) };
      4 < (m 0x60 8 (3 + 2 ^ 32 * 5)).product lau0 3 ∧ 512 < (m 0x60 8 (2 + 2 ^ 32 * 513)).product lau0 2 ∧
      2 ^ 21 < (m 0x40 4 (2 ^ 22)).lstoreOf lau0 ∧ 4096 < (m 0x44 4 8192).basin ∧
      ((List.range 4).map ((dev l0).ctxAt 1).grantSize).sum = 4096) ∧
    -- a range that is resident, and one that is not
    ((dev l0).rangeResident 1 ⟨0, 2, true, 0x2000, 8192⟩ = none ∧ ((dev l0).rangeResident 1 ⟨0, 1, false, 0x8000, 4096⟩).isSome = true) :=
  ⟨by decide +kernel, ⟨⟨rfl, rfl, rfl, rfl⟩, by decide +kernel⟩, by decide +kernel, by decide +kernel, by decide +kernel, by decide +kernel, by decide +kernel⟩

/-- A gang of two LAUNCH packets; the first member of it is in the pool. -/
def gang0 : List Byte := pkt 1 [(2, 1, 4), (0x10, 1, 63), (0x12, 2, 2)]
def gangs : List (List Byte) := gang0 :: List.replicate 3 (List.replicate 64 0) ++ gang0 :: List.replicate 3 (List.replicate 64 0)
def oneIn : State :=
  let s := slots (hq l0 gangs)
  { queueSet s 0 { s.queueAt 0 with next := 4, gang := some (0, 1, 0) } with
    nodes := [(0, { pooled (gang0 ++ List.replicate 192 0) with gang := some 0, gangSize := 2 })] }

def hostPage : Nat := 0x4000000000000
/-- A THAW of an image in host memory, and a COPY from a page that lies there. -/
def thwHost : List Byte := pkt 7 [(0x18, 8, hostPage), (0x20, 2, 256)]
def cpyHost : State := (hqOn cpy 0).setRaws 0x41010 (bytesOf 8 (leafRW + hostPage))

theorem witness_CopyAndLaunch :
    -- a COPY whose read fails, with room for its HANDLER and without, and one whose HANDLER has been appended
    (((hqOn cpy 4096).queueAt 0).running 0 = some ⟨0, 1, cpy, false, 4096, false, 0⟩ ∧ ((hqOn cpy 4096).ctxAt 1).stopped = false ∧
      readable (hqOn cpy 4096) 1 (Spec.at_ cpy 0x20 8 + 4096) 4096 ∧ ¬ writable (hqOn cpy 4096) 1 (Spec.at_ cpy 0x18 8 + 4096) 4096) ∧
    (((hqOn cpy 4096).handler 0 4 0 0 3 0 4096).hpend 0 = false ∧ ((hqFull cpy 4096 16 false).handler 0 4 0 0 3 0 4096).hpend 0 = true) ∧
    (((hqFull cpy 4096 0 true).queueAt 0).running 0 = some ⟨0, 1, cpy, false, 4096, true, 0⟩ ∧ (hqFull cpy 4096 0 true).hpend 0 = false) ∧
    -- the first member of a gang with the second behind it, and without; a later member
    (Spec.Turn (slots (hq l0 gangs)) 0 0 gang0 1 ∧ GoodLaunch gang0 ∧ Spec.at_ gang0 0x12 2 = 2 ∧
      ((slots (hq l0 gangs)).queueAt 0).gang = none ∧ ((slots (hq l0 gangs)).gangAhead 0 2 2 0).length = 2 ∧
      (((slots (hq l0 gangs)).gangAhead 0 2 2 0).map (slots (hq l0 gangs)).teamOf).sum = 2 ∧
      (slots (hq l0 gangs)).launchChecks 1 true ((slots (hq l0 gangs)).launchBytes 0 0) = none) ∧
    (((slots (hq l0 (gangs.take 4))).gangAhead 0 2 2 0).length = 1) ∧
    (Spec.Turn oneIn 0 4 gang0 1 ∧ (oneIn.queueAt 0).gang = some (0, 1, 0) ∧
      (oneIn.nodes.filter (fun p => p.2.gang == some 0 && p.2.queue == 0)).length + 1 = 2 ∧
      oneIn.launchChecks 1 true (oneIn.launchBytes 0 4) = none ∧ oneIn.freeNode = some 1) ∧
    -- failing host accesses: of an entry, of a COPY's payload, of a THAW's image
    ((hostRing.queueAt 0).entryPa 0 ≤ hostPage + 63 ∧ hostPage + 63 < (hostRing.queueAt 0).entryPa 0 + 64) ∧
    (((cpyHost.queueAt 0).started.find? (cpyHost.copyTouches 1 (hostPage + 4095))).isSome = true) ∧
    (Spec.Turn (hq l0 [thwHost]) 0 0 thwHost 7 ∧ GoodHead (hq l0 [thwHost]) 0 thwHost ∧ GoodThaw thwHost ∧
      ((hq l0 [thwHost]).queueAt 0).started = [] ∧ Spec.at_ thwHost 0x18 8 = hostPage) :=
  ⟨by decide +kernel, by decide +kernel, by decide +kernel, by decide +kernel, by decide +kernel, by decide +kernel, by decide +kernel,
    by decide +kernel, by decide +kernel⟩

/-! ## Witnesses: FREEZE and THAW -/

def thw : List Byte := pkt 7 [(0x18, 8, 0x80000), (0x20, 2, 256)]
def frz : List Byte := pkt 6 [(0x18, 8, 0x80000), (0x20, 8, 2 ^ 40)]

/-- Context 1 holds no program. -/
def bare (b : List Byte) : State := { hq l0 [b] with lcores := [], cores := [], sluices := [] }

/-- And the header of an image of it stands at 0x80000. -/
def imaged : State :=
  let s := { bare thw with queues := [] }
  (bare thw).setRaws 0x80000 ((s.imageHeader 1 (s.sections 1)).take 352)

/-- A FREEZE of `bare` at stage `z`. -/
def freezing (b : List Byte) (z : Freeze) : State :=
  let s := bare b
  { queueSet s 0 { s.queueAt 0 with started := [⟨0, 1, b, false, 0, false, 0⟩], next := 1 } with
    ctxs := [(1, { x1 with freeze := some z })] }

theorem witness_FreezeAndThaw :
    (((hq l0 [frz]).ctxAt 1).freeze = none ∧ ((hq l0 [frz]).ctxAt 1).frozen = false ∧ Spec.Turn (hq l0 [frz]) 0 0 frz 6 ∧
      GoodHead (hq l0 [frz]) 0 frz ∧ ZeroIn frz 0x10 0x18 ∧ Spec.at_ frz 0x18 8 % 65536 = 0 ∧
      (hq l0 [frz]).imageSizeOf 1 ≤ Spec.at_ frz 0x20 8 ∧ ZeroIn frz 0x28 0x40) ∧
    (((freezing frz ⟨0, 0, false, 0, false⟩).ctxAt 1).freeze = some ⟨0, 0, false, 0, false⟩ ∧
      (freezing frz ⟨0, 0, false, 0, false⟩).canSwapOut 1 = true) ∧
    ((0 : Nat) ≤ (freezing frz ⟨0, 0, true, 0, false⟩).slTicks ∧ ((freezing frz ⟨0, 0, true, 0, false⟩).ctxAt 1).freeze = some ⟨0, 0, true, 0, false⟩) ∧
    (((freezing frz ⟨0, 0, true, 0, true⟩).ctxAt 1).freeze = some ⟨0, 0, true, 0, true⟩ ∧
      ((freezing frz ⟨0, 0, true, 0, true⟩).ctxAt 1).claims = [] ∧ ((freezing frz ⟨0, 0, true, 0, true⟩).ctxAt 1).waiting = [] ∧
      (freezing frz ⟨0, 0, true, 0, true⟩).multicasts = [] ∧
      ((freezing frz ⟨0, 0, true, 0, true⟩).queueAt 0).running 0 = some ⟨0, 1, frz, false, 0, false, 0⟩) ∧
    (Spec.Turn imaged 0 0 thw 7 ∧ GoodHead imaged 0 thw ∧ ZeroIn thw 0x10 0x18 ∧ Spec.at_ thw 0x18 8 % 65536 = 0 ∧
      Spec.at_ thw 0x20 2 = 256 ∧ ZeroIn thw 0x22 0x40) ∧
    (imaged.beginPacket 0 0 thw).thawCheck 0 0x80000 256 = none ∧
    ((bare thw).beginPacket 0 0 thw).thawCheck 0 0x80000 256 = some ⟨9, 0, 0⟩ ∧
    (dev l0).formats = [] :=
  ⟨by decide +kernel, by decide +kernel, by decide +kernel, by decide +kernel, by decide +kernel, by decide +kernel, by decide +kernel, by decide +kernel⟩

/-- The directory entry of a section, and an image at 0x80000 with one team, its logical core and the sync objects, and the
sections `more`. -/
def dirBytes (kind count off size entsize : Nat) : List Byte :=
  bytesOf 2 kind ++ bytesOf 2 1 ++ bytesOf 4 count ++ bytesOf 8 off ++ bytesOf 8 size ++ bytesOf 4 entsize ++ bytesOf 4 0
def teamImage (s : State) (more : List (List Byte)) : State :=
  (s.setRaws 0x80000 (bytesOf 4 0x43564844 ++ bytesOf 2 0x0100 ++ bytesOf 2 0 ++ bytesOf 8 0x40000 ++ bytesOf 2 1 ++ bytesOf 2 (3 + more.length))).setRaws
    0x80100 ((dirBytes 1 1 0x1000 32768 32768 ++ dirBytes 2 1 0x9000 64 64 ++ dirBytes 5 1 0xA000 131072 131072) ++ more.flatten)
  |>.setRaws 0x89000 (bytesOf 2 4095 ++ bytesOf 1 63 ++ bytesOf 5 0 ++ bytesOf 4 1)

/-- A queue of context 1 restores it; its slot 63 is loaded. -/
def thawing (more : List (List Byte)) : State := teamImage (slots (bare thw)) more
/-- An entry of section SEQ, SLUICE, BASIN, QUEUE or SLOT at 0x30000 of the image, with the bytes `b`. -/
def with1 (kind entsize : Nat) (b : List Byte) : State :=
  (thawing [dirBytes kind 1 0x30000 (if entsize = 0 then 32 else entsize) entsize]).setRaws 0xB0000 b

theorem witness_ThawChecks :
    -- check 1: a wrong version
    (((bare thw).setRaws 0x80000 (bytesOf 4 0x43564844)).im 0x80000 0 4 = 0x43564844 ∧
      ((bare thw).setRaws 0x80000 (bytesOf 4 0x43564844)).im 0x80000 4 2 ≠ 0x0100) ∧
    -- an image that passes check 1
    (thawing []).badImage 0x80000 = none ∧
    -- checks 2 and 3: a slot entry and a team that do not fit, and no core
    ((with1 15 8256 (bytesOf 1 62)).thawCheck 0 0x80000 256 = some ⟨1, 62, 0⟩) ∧
    ((thawing []).groupsIn ((thawing []).teamsIn ((thawing []).imgAt 0x80000)) = [⟨0, 0, 1⟩] ∧
      (({ thawing [] with fencedCores := List.range 256 } : State).thawPlaces 0 [⟨0, 0, 1⟩]).isSome = false) ∧
    -- later checks: a sequence entry in use, a basin section, and a queue of another context
    (let s := (with1 14 128 (bytesOf 2 4095)).setSeqWord 4095 0 (2 ^ 62);
      (s.entriesOf (s.imgAt 0x80000) 14).map (fun b => Spec.at_ b 0 2) = [4095] ∧ (s.seqWord 4095 0).toNat / 2 ^ 62 ≠ 0 ∧
      (s.ctxAt 1).frozen = false) ∧
    (let s := with1 10 0 (bytesOf 8 24 ++ bytesOf 8 0 ++ bytesOf 8 4097);
      (s.varOf (s.imgAt 0x80000) 10 8).map (fun b => (Spec.at_ b 8 1, Spec.at_ b 16 8)) = [(0, 4097)] ∧ (s.ctxAt 1).grantSize 0 = 4096) ∧
    (let s := with1 13 64 (bytesOf 1 255);
      (s.entriesOf (s.imgAt 0x80000) 13).map (fun b => Spec.at_ b 0 1) = [255] ∧ (s.queueAt 255).enabled = false) :=
  ⟨by decide +kernel, by decide +kernel, by decide +kernel, by decide +kernel, by decide +kernel, by decide +kernel, by decide +kernel⟩

theorem witness_RestoredContext :
    -- a stopped context with a logical core on a core, whose page is present, and a bound Sluice core
    ((dev { l0 with lsmap := [(127, 0xC003)] }).lcores.at? 0 = some { l0 with lsmap := [(127, 0xC003)] } ∧ l0.ctx = 1 ∧ l0.core < 256 ∧
      ({ l0 with lsmap := [(127, 0xC003)] } : LCore).lsPresent 127 = true ∧ ((dev l0).slAt 0).bound = true ∧ ((dev l0).slAt 0).ctx = 1) ∧
    -- the port map, and a team that is restored
    ((∀ x ∈ [(0, 15)], x.1 ≠ 47 / 3) ∧ 2 / 3 = 0) ∧
    (((thawing []).ctxAt 1).frozen = false ∧ (thawing []).lcoresOf 1 = [] ∧ (thawing []).sluicesOf 1 = [] ∧
      ((thawing []).imgAt 0x80000).count 3 = 0 ∧ ((thawing []).imgAt 0x80000).count 11 = 0 ∧ ((thawing []).imgAt 0x80000).count 12 = 0 ∧
      ((thawing []).teamsIn ((thawing []).imgAt 0x80000)).map (fun t => (t.node, t.lcount)) = [(4095, 1)] ∧
      (thawing []).nodes = [] ∧
      (thawing []).thawPlaces (min 256 (thawing []).freeCores.length) ((thawing []).groupsIn ((thawing []).teamsIn ((thawing []).imgAt 0x80000)))
        = some [0]) ∧
    -- and whose record holds no held status
    ((List.range 4).all (fun i => (thawing []).coreWord ((thawing []).imgAt 0x80000) 0 (167 + i) == 0)) = true :=
  ⟨by decide +kernel, by decide +kernel, by decide +kernel, by decide +kernel⟩

/-! ## Witnesses: firmware -/

/-- The control mailbox of `s` holds request `op` for context `ctx`, with the fields `fs`; GO has been written. -/
def asking (s : State) (op ctx : Nat) (fs : List (Nat × Nat × Nat)) : State :=
  { s with control := fs.foldl (fun m f => setBox m f.1 (bytesOf f.2.1 f.2.2)) [(0, BitVec.ofNat 8 op), (2, BitVec.ofNat 8 ctx), (4, 1)] }

/-- The slot mailbox holds request `op` for slot `n` of context `ctx`, with the fields `fs`. -/
def slotAsk (s : State) (op n ctx : Nat) (fs : List (Nat × Nat × Nat)) : State :=
  let b : SMap Byte := [(0, BitVec.ofNat 8 n), (1, BitVec.ofNat 8 op), (2, BitVec.ofNat 8 ctx), (0x20, 1)]
  { s with slotbox := fs.foldl (fun m f => setBox m f.1 (bytesOf f.2.1 f.2.2)) b }

/-- A small image of 260 bytes at 0x2100 with one AP and one EP instruction, and a directory of it at 0x2000. -/
def imgBytes : List Byte :=
  bytesOf 4 0x4C504F4C ++ bytesOf 2 0x0100 ++ bytesOf 2 0 ++ bytesOf 4 260 ++ bytesOf 4 192 ++ bytesOf 4 4 ++ bytesOf 4 256 ++ bytesOf 4 4
  ++ bytesOf 164 0 ++ bytesOf 4 0x0A000004 ++ bytesOf 60 0 ++ bytesOf 4 0x0A000004
def loadable (s : State) : State := (s.setRaws 0x43000 (bytesOf 8 0x2100 ++ bytesOf 8 260)).setRaws 0x43100 imgBytes

/-- A slot whose kernel has Sluice code of no bytes. -/
def slSlot (s : State) : State :=
  s.setSlot 63 { ModelSlot.fresh with ctx := 1, state := 2, images := [{ img with head := bytesOf 6 0 ++ bytesOf 2 1 ++ bytesOf 152 0 }] }

abbrev isDone {ε α : Type} (x : Except ε α) : Prop :=
  (match x with
    | .ok _ => true
    | .error _ => false) = true

theorem isDone_spec {ε α : Type} {x : Except ε α} (h : isDone x) : ∃ a, x = .ok a := by
  cases x with
  | ok a => exact ⟨a, rfl⟩
  | error e => cases h

/-- `dev` with a basin carve-out of 16 MiB on die 0. -/
def carved : State := { dev l0 with carveouts := [(0, 2 ^ 24)] }

/-- CREATE of context `ctx` with root 0x20000 and the highest sync-object table. -/
def create (ctx n : Nat) : State :=
  asking carved 1 ctx [(0x18, 8, 0x20000), (0x20, 8, 0x01FFFDFFFFFE0000), (0x48, 8, n)]

/-- A channel with error counts. -/
def corrected (n : Nat) : State := { dev l0 with softErrors := List.replicate n (HwUnit.control, 0) }

theorem witness_FirmwareEvents :
    -- CREATE and DESTROY
    (Asked (create 2 128) 1 ∧ Formed (create 2 128) 2 true 0 ∧ opA (create 2 128) 0 % 65536 = 0 ∧ opA (create 2 128) 0 < 2 ^ 39 ∧
      opA (create 2 128) 1 % 131072 = 0 ∧ opA (create 2 128) 1 < 0x01FFFE0000000000 ∧ GrantsFit (create 2 128) ∧
      (create 2 128).ctxs.at? (opCtx (create 2 128)) = none ∧ ¬ GrantsFit (create 2 129) ∧ GrantsFit (create 1 0) ∧
      ((create 1 0).ctxs.at? (opCtx (create 1 0))).isSome = true) ∧
    (Asked (asking (bare []) 2 1 []) 2 ∧ Formed (asking (bare []) 2 1 []) 0 false 0 ∧
      (({ asking (bare []) 2 1 [] with queues := [] }).ctxInUse 1 = false) ∧ (asking (dev l0) 2 1 []).ctxInUse 1 = true ∧
      (asking (dev l0) 2 3 []).ctxs.at? 3 = none) ∧
    -- MAP and GRANT
    (Asked (asking (dev l0) 3 1 [(0x18, 8, 0x2000)]) 3 ∧ Formed (asking (dev l0) 3 1 [(0x18, 8, 0x2000)]) 3 false 0 ∧
      ((asking (dev l0) 3 1 [(0x18, 8, 0x2000)]).entryAt 1 0x2000 0) = some 0x41010 ∧
      ((asking (dev l0) 3 1 [(0x20, 8, 3)]).entryAt 1 0x2000 3) = some 0x10000) ∧
    (Asked (asking (bare []) 4 1 []) 4 ∧ Formed (asking (bare []) 4 1 []) 0 true 0 ∧ GrantsFit (asking (bare []) 4 1 []) ∧
      (asking (bare []) 4 1 []).grantBusy 1 = false ∧ (asking (dev l0) 4 1 []).grantBusy 1 = true ∧
      (asking (bare []) 4 0 []).ctxs.at? 0 = none) ∧
    -- BIND, UNBIND and SA
    (Asked (asking (slSlot (dev l0)) 5 1 [(0x18, 8, 15), (0x20, 8, 63)]) 5 ∧
      Formed (asking (slSlot (dev l0)) 5 1 [(0x18, 8, 15), (0x20, 8, 63)]) 4 false 0 ∧
      ∃ t, (asking (slSlot (dev l0)) 5 1 [(0x18, 8, 15), (0x20, 8, 63)]).bindSluice 1 15 63 0 0 0 = .ok t) ∧
    (Asked (asking (dev l0) 6 0 []) 6 ∧ Formed (asking (dev l0) 6 0 []) 1 false 0 ∧ ((asking (dev l0) 6 0 []).slAt 0).bound = true ∧
      (asking (dev l0) 6 0 []).sluiceBusy 0 = false ∧ ((asking (dev l0) 6 0 []).slAt 15).bound = false ∧
      ({ dev l0 with sluices := [(0, { sl0 with transfers := [(0, ⟨[], 0, 1, [], none, none, 0, 0⟩)] })] } : State).sluiceBusy 0 = true) ∧
    (Asked (asking (dev l0) 7 1 [(0x20, 8, 4095), (0x80, 1, 5)]) 7 ∧
      Formed (asking (dev l0) 7 1 [(0x20, 8, 4095), (0x80, 1, 5)]) 3 false 32 ∧
      ((asking (dev l0) 7 1 [(0x20, 8, 4095), (0x80, 1, 5)]).slAt 0).ctx = 1 ∧
      ((asking (dev l0) 7 1 [(0x20, 8, 4095), (0x80, 1, 5)]).slAt 0).listed = []) ∧
    -- slots
    (SlotAsked (slotAsk (loadable (dev l0)) 1 63 1 [(4, 1, 1), (8, 8, 0x2000)]) 1 63 1 ∧
      ((slotAsk (loadable (dev l0)) 1 63 1 [(4, 1, 1), (8, 8, 0x2000)]).slotAt 63).state = 0 ∧
      (slotAsk (loadable (dev l0)) 1 63 1 [(4, 1, 1), (8, 8, 0x2000)]).slotRequestBad = none ∧
      ∃ is, (slotAsk (loadable (dev l0)) 1 63 1 [(4, 1, 1), (8, 8, 0x2000)]).readImages 1
          (boxField (slotAsk (loadable (dev l0)) 1 63 1 [(4, 1, 1), (8, 8, 0x2000)]).slotbox 8 8)
          (boxField (slotAsk (loadable (dev l0)) 1 63 1 [(4, 1, 1), (8, 8, 0x2000)]).slotbox 4 1) = .ok is) ∧
    (layImages 0x01FFFF7C00000000 [(0x2100, 260, imgBytes)]).2 ≤ 0x01FFFF7C00000000 + 2 ^ 34 ∧
    (SlotAsked (slotAsk (slSlot (dev l0)) 2 63 1 []) 2 63 1 ∧ (slotAsk (slSlot (dev l0)) 2 63 1 []).slotInUse 63 = false ∧
      ((slotAsk (slSlot (dev l0)) 1 63 1 []).slotAt 63).state ≠ 0 ∧
      ((slotAsk (slSlot (dev l0)) 2 63 1 []).setSeqWord 4095 0 0x7F00000000000001).slotInUse 63 = true) ∧
    -- settling, carve-outs, soft errors
    (({ dev l0 with ctxs := [(1, { x1 with dlSettling := true })] } : State).ctxs.at? 1 = some { x1 with dlSettling := true }) ∧
    (∀ p ∈ (dev l0).ctxs, p.2.grantSize 3 = 0) ∧
    (((corrected 1022).softErrors.filter (fun p => decide ((dev l0).ticks < p.2 + 2 ^ 32)) ++ [(HwUnit.control, (dev l0).ticks)]).length = 1023 ∧
      ((corrected 1023).softErrors.filter (fun p => decide ((dev l0).ticks < p.2 + 2 ^ 32)) ++ [(HwUnit.control, (dev l0).ticks)]).length = 1024) ∧
    ((7, 5) ∉ (dev l0).fencedChannels ∧ (dev l0).hstate = 0) :=
  ⟨by decide +kernel, by decide +kernel, by decide +kernel, by decide +kernel,
    ⟨by decide +kernel, by decide +kernel, isDone_spec (by decide +kernel)⟩, by decide +kernel, by decide +kernel,
    ⟨by decide +kernel, by decide +kernel, by decide +kernel, isDone_spec (by decide +kernel)⟩, by decide +kernel, by decide +kernel,
    by decide +kernel, by decide +kernel, by decide +kernel, by decide +kernel⟩

theorem witness_HealthEvents :
    -- too many corrected errors of core 255, and of the control complex
    (let s : State := { dev l0 with softErrors := List.replicate 1023 (HwUnit.core 255, 0) };
      ((s.softErrors ++ [(HwUnit.core 255, s.ticks)]).filter (fun p => p.1 == HwUnit.core 255)).length = 1024 ∧
      ((dev l0).coreAt 255).rot = [] ∧ 255 ∉ (dev l0).fencedCores ∧ (dev l0).fencedCores.length < 255) ∧
    -- core 0 is fenced and its logical core finds a place; a port without flows; a channel and a control complex without contexts
    ((List.range 256).find? (fun e => e / 8 == 0 / 8 && ({ dev l0 with fencedCores := [0] } : State).hasPlace [] e) = some 1) ∧
    (∀ f, f < 512 → ¬ (((dev l0).slAt (47 / 3)).flowV f = true ∧ ((dev l0).slAt (47 / 3)).flowPort f = 47 % 3)) ∧
    ((7, 31) ∉ State.reset.fencedChannels ∧ (∀ p ∈ State.reset.cores, p.2.active = none) ∧ State.reset.ctxs = [] ∧
      State.reset.hstate < 2 ∧ State.reset.formats = []) :=
  ⟨by decide +kernel, by decide +kernel, by decide +kernel, by decide +kernel⟩

/-! ## Witnesses: the distributor and the cores -/

/-- A node of one logical core, ready since cycle 0. -/
def nd : Node where
  ctx := 1
  slot := 63
  kernel := 0
  image := bytesOf 256 0
  queue := 0
  entry := 0
  id := 0
  origin := 0
  prio := 1
  age := 0
  order := 0
  held := false
  preds := []
  pred := none
  gang := none
  gangSize := 1
  lvl := [0, 0, 0, 0, 0, 0, 0, 0]
  lcount := 1
  lstore := 0
  dispatched := false
  dstamp := 0
  cores := 0
  step := 0
  readyAt := some 0
  starved := false

/-- One core is left, which is awake; node 4095 is `x`. -/
def pool (x : Node) : State :=
  { slots (dev l0) with nodes := [(4095, x)], fencedCores := (List.range 256).filter (· ≠ 0) }

/-- Core 0 is `p`, with two logical cores. -/
def duo (p : PCore) : State := { dev l0 with lcores := [(0, l0), (1, l0)], cores := [(0, { p with rot := [0, 1], active := some 0 })] }

/-- The active logical core of core 0 is of node 0, and one of node 1 is beside it. -/
def outranking : State := { duo p0 with lcores := [(0, l0), (65536, { l0 with node := 1 })] }

theorem witness_DistributorEvents :
    ((pool nd).selectNode = some 4095 ∧ (pool nd).placeNodes (pool nd).hosts ((pool nd).gangOf 4095) [] = some [(4095, [0])]) ∧
    (pool { nd with held := true }).selectNode = none ∧
    ((pool nd).nodes.at? 4095 = some nd ∧ nd.gang = none ∧
      (pool { nd with gang := some 3 }).nodes.at? 4095 = some { nd with gang := some 3 } ∧ nd.dispatched = false) ∧
    ((∀ g cs, (pool nd).hostsAwake.wake g cs = true) ∧ ((pool nd).placeGroup (pool nd).hostsAwake 7 0 1 []).map Prod.fst = some [0]) ∧
    (((dev l0).coreAt 255).active = none ∧ ((dev l0).coreAt 255).swapReq = none ∧ ((dev l0).coreAt 255).swapping = none ∧
      ((dev l0).coreAt 0).active ≠ none) ∧
    (let s := { outranking with nodes := [(0, nd), (1, { nd with prio := 2 })] };
      (s.coreAt 0).active = some 0 ∧ (s.coreAt 0).swapReq = none ∧ (s.coreAt 0).swapping = none ∧ s.prioOf 0 < s.prioOf 65536 ∧
        s.prioOf 0 ≤ s.prioOf 0) ∧
    (let s := { pool nd with cycle := 2 ^ 26 };
      s.nodes.at? 4095 = some nd ∧ 2 ^ 26 ≤ (s.cycle - BitVec.ofNat 64 0).toNat) ∧
    (let s := pool { nd with dispatched := true };
      s.nodes.at? 4095 = some { nd with dispatched := true } ∧ (∀ p ∈ s.lcores, p.2.node = 4095 → p.2.ended = true) ∧
      (s.ctxAt 1).frozen = false ∧ (s.ctxAt 1).failed = false ∧ (s.ctxAt 1).freeze = none) ∧
    (let s := { dev l0 with cycle := 330000 };
      (s.coreAt 255).power = .clockGated ∧ (s.coreAt 255).rot = [] ∧ 330000 ≤ (s.cycle - BitVec.ofNat 64 (s.coreAt 255).emptied).toNat ∧
      (∀ x ∈ s.ctxs, x.2.floor < ((List.range 256).filter (fun d => (s.coreAt d).power != .powerGated)).length) ∧
      0 < ((List.range 256).filter (fun d => (s.coreAt d).power != .powerGated)).length) ∧
    (((dev l0).setCore 255 { PCore.fresh with power := .waking, wake := 0 }).coreAt 255).power = .waking ∧
    -- the record of a completion: without an address, written, and where it cannot be
    (isDone ((dev l0).distWrite 1 0x2000 (recordIs (dev l0) 4095 nd 1 0)) ∧
      ¬ isDone ((dev l0).distWrite 1 0x4000 (recordIs (dev l0) 4095 nd 1 0))) ∧
    ((dev l0).lcores.at? 0 = some l0 ∧ l0.node = 0 ∧ (dev l0).lcores.sorted = true) ∧
    (dev l0).ctxs.at? 1 = some x1 ∧ x1.failed = false :=
  ⟨by decide +kernel, by decide +kernel, by decide +kernel, ⟨fun _ _ => rfl, by decide +kernel⟩, by decide +kernel, by decide +kernel, by decide +kernel, by decide +kernel, by decide +kernel, by decide +kernel, by decide +kernel, by decide +kernel, by decide +kernel, by decide +kernel⟩

/-- An escalated TRAP `c`, and one of `escal`. -/
def held (c : Nat) (r : EscReason) : LCore := { l0 with esc := some ⟨r, ⟨c, 0, 0, false, 0x1000, 0⟩, true⟩ }

theorem witness_CoreEvents :
    -- traps
    (let s := dev { l0 with trapReq := some ⟨9, 5, 0, false, 0x1000, 0⟩ };
      (s.coreAt 0).active = some 0 ∧ (s.lcAt 0).trapReq = some ⟨9, 5, 0, false, 0x1000, 0⟩ ∧ HasHandler s 0) ∧
    (let s := dev { l0 with esc := some ⟨.noHandler, ⟨16, 0, 0, false, 0x1000, 0⟩, false⟩ };
      (s.coreAt 0).active = some 0 ∧ (s.lcAt 0).esc = some ⟨.noHandler, ⟨16, 0, 0, false, 0x1000, 0⟩, false⟩) ∧
    (let s := dev { l0 with tstatus := 1, trapCycles := 165000 };
      (s.lcAt 0).trapMode = true ∧ (s.lcAt 0).esc = none ∧ 165000 ≤ (s.lcAt 0).trapCycles) ∧
    ((dev (held 46 .noHandler)).lcores.at? 0 = some (held 46 .noHandler) ∧ (dev (held 47 .noHandler)).lcores.at? 0 = some (held 47 .noHandler) ∧
      (dev (held 16 (.escal 9))).lcores.at? 0 = some (held 16 (.escal 9)) ∧ ((dev l0).ctxAt 1).frozen = false ∧
      ((dev l0).ctxAt 1).failed = false ∧ ((dev l0).ctxAt 1).freeze = none ∧
      (lr [(2, 0x1FFC)]).kern.apBase ≤ ((lr [(2, 0x1FFC)]).reg false 2).toNat ∧
      ((lr [(2, 0x1FFC)]).reg false 2).toNat < (lr [(2, 0x1FFC)]).kern.apBase + (lr [(2, 0x1FFC)]).kern.apSize ∧
      (lr [(2, 0x2000)]).kern.apBase + (lr [(2, 0x2000)]).kern.apSize ≤ ((lr [(2, 0x2000)]).reg false 2).toNat) ∧
    -- swaps
    (let p := { p0 with swapReq := some .rotate, shadow := some 1 };
      (duo p).nextIn 0 = some 1 ∧ ((duo p).coreAt 0).shadow = some 1 ∧ ((duo p).coreAt 0).power = .awake ∧ (duo p).trapping 0 = false ∧
      ((duo p).coreAt 0).held = false ∧ ((duo p).coreAt 0).busy = false) ∧
    (let s := (duo p0).setCore 0 { p0 with rot := [1], active := none, shadow := some 1, swapReq := some .rotate };
      s.nextIn 0 = some 1 ∧ (s.coreAt 0).active = none) ∧
    (let p := { p0 with swapping := some 0, shadow := some 1 };
      ((duo p).coreAt 0).swapping = some 0 ∧ ((((duo p).refillPages 0 1).lcAt 1).ceHeld = none) ∧
        ((((duo p).refillPages 0 1).lcAt 1).geHeld = none)) ∧
    (({ l0 with ceHeld := some (23, 7) } : LCore).ceHeld = some (23, 7) ∧ ({ l0 with ceHeld := some (23, 7) } : LCore).geHeld = none) ∧
    -- rotation
    (let p := { p0 with quantum := 165000 };
      ((duo p).coreAt 0).active = some 0 ∧ 1 < ((duo p).coreAt 0).rot.length ∧ NoSwap ((duo p).coreAt 0) ∧
      165000 ≤ ((duo p).coreAt 0).quantum) ∧
    (let s := (duo p0).setLc 0 { l0 with twWait := 4097 };
      (s.coreAt 0).active = some 0 ∧ 4096 < (s.lcAt 0).twWait ∧ NoSwap (s.coreAt 0)) ∧
    -- the spill engine
    (let p := { p0 with busy := true, shadow := some 1, offset := recSize - 1 };
      (duo p).spills 0 = true ∧ ((duo p).coreAt 0).offset < recSize) ∧
    (((duo { p0 with held := true }).coreAt 0).held = true) ∧
    (let p := { p0 with busy := true, shadow := some 1, offset := recSize };
      ((duo p).coreAt 0).busy = true ∧ ((duo p).coreAt 0).held = false ∧ ((duo p).coreAt 0).offset = recSize) ∧
    (((duo p0).coreAt 0).shadow = none ∧ (duo p0).nextIn 0 = some 1) ∧
    -- pages, multicast and the clock
    (let l := { l0 with lsmap := [(127, 0x8000)], lsused := [(127, true)] };
      (dev l).lcores.at? 0 = some l ∧ l.loc = .banked 0 ∧ l.lsAllotted 127 = true ∧ l.lsPresent 127 = false ∧
      (dev l).freePage 0 = some 0 ∧ l.lsused.atD 127 false = true) ∧
    (let s := { dev l0 with multicasts := [⟨0, 0, false, [], 0, []⟩] };
      ∃ m ∈ s.multicasts, m.at_ ≤ s.ticks) ∧
    ((∀ m ∈ (dev l0).multicasts, (dev l0).ticks < m.at_) ∧ ∀ x ∈ (dev l0).ctxs, x.2.claims = []) := by
  refine ⟨?_, ?_, ?_, ?_, ?_, ?_, ?_, ?_, ?_, ?_, ?_, ?_, ?_, ?_, ?_, ?_, ?_⟩ <;> decide +kernel

/-- Logical core 1 of core 0 holds all pages of the bank; logical core 0 has page 127 allotted. -/
def fullBank : State := { duo p0 with lcores :=
  [(0, { l0 with lsmap := [(127, 0x8000)] }), (1, { l0 with lsmap := (List.range 128).map (fun i => (i, BitVec.ofNat 16 (0xC000 + i))) })] }

theorem witness_SwapEvents :
    (fullBank.freePage 0 = none ∧ fullBank.victim 0 0 = some (1, 127) ∧ (fullBank.lcAt 0).lsAllotted 127 = true ∧
      (fullBank.lcAt 0).lsPresent 127 = false ∧ (fullBank.coreAt 0).active = some 0) ∧
    (let s := (duo { p0 with swapReq := some .rotate, shadow := some 1 }).setLc 0 { l0 with trapReq := some ⟨16, 0, 0, false, 0x1000, 0⟩ };
      s.trapping 0 = true ∧ s.nextIn 0 = some 1) ∧
    (let l := { l0 with esc := some ⟨.noHandler, ⟨4, 0, 0, false, 0x1000, 0x01FFFF00001FFFFF⟩, true⟩ };
      (l.lsmap.atD (0x1FFFFF / 16384) 0).getLsbD 15 = false) ∧
    ({ l0 with ceHeld := some (23, 7), geFifo := [] } : LCore).geFifo = [] ∧
    (recSize - 8) % 8 = 0 := by decide +kernel

/-- A trap detected 64 core cycles ago, and a logical core whose streams block one another. -/
theorem witness_CoreCycle :
    (∀ p ∈ (dev l0).cores, ¬ Pressing (dev l0) p.1) ∧
    Pressing { dev { l0 with trapReq := some ⟨16, 0, 0, false, 0x1000, 0⟩ } with cycle := 64 } 0 ∧
    ((∃ p ∈ (dev l0).cores, Awake p.2 ∧ p.2.active = some 0) ∧ (dev l0).lcores.at? 0 = some l0) ∧
    ((dev l0).ticks + 1) * 2 / 3 = (dev l0).ticks * 2 / 3 ∧
    (({ dev l0 with ticks := 1 }).ticks + 1) * 2 / 3 ≠ ({ dev l0 with ticks := 1 }).ticks * 2 / 3 := by
  refine ⟨?_, ⟨0, by decide +kernel, .inl ⟨⟨16, 0, 0, false, 0x1000, 0⟩, by decide +kernel, by decide +kernel⟩⟩, by decide +kernel, by decide +kernel, by decide +kernel⟩
  have hc : (dev l0).cores = [(0, p0)] := rfl
  intro p hp
  rw [hc, List.mem_singleton] at hp
  subst hp
  rintro ⟨k, hk, h⟩
  have hk' : some (0 : Nat) = some k := hk
  cases hk'
  rcases h with ⟨x, hx, -⟩ | ⟨-, hd⟩
  · cases hx
  · exact absurd hd (by decide +kernel)

/-- Page 4 is mapped at page 4 of the bank, page 5 is allotted and holds a saved copy, page 7 is not allotted; the team is of
`n`, and its member 7 is on core 1. -/
def lmc (n : Nat) : LCore := { l0 with lsmap := [(4, 0xC004), (5, 0x8000), (6, 0x8000)], lsused := [(5, true)], launch := [(2, n)] }
def mcState (n : Nat) : State := { dev l0 with lcores := [(0, lmc n), (7, { lmc n with loc := .banked 1 })] }

/-- The mask word of members 0 and 7, at offset `off`. -/
def mcWord (off : Nat) : Nat := 0x81 * 2 ^ 21 + off
abbrev namedBy (l : LCore) (w i : Nat) : Prop := i / 8 = l.lcid / 8 ∧ (w / 2 ^ 21).testBit (i % 8) = true
def allotsAt (s : State) (l : LCore) (i o : Nat) : Bool :=
  match s.lcores.at? (lcKey l.node i) with
  | some x => x.lsAllotted (o / 16384)
  | none => false

theorem namedBy_lt {l : LCore} {w i : Nat} (h0 : l.lcid / 8 = 0) (h : namedBy l w i) : i < 8 := by
  have h1 := h.1
  omega

theorem witness_MulticastStores :
    -- the last bytes of a page, which both targets hold, and which neither does
    ((4 * 16384 + 16376) % 16384 + 8 ≤ 16384 ∧ (mcState 8).lcores.at? 7 = some { lmc 8 with loc := .banked 1 } ∧
      (lmc 8).lsPresent 4 = true ∧ (lmc 8).lsPresent 5 = false ∧ (lmc 8).lsused.atD 5 false = true ∧
      (outside (lsAddr (lmc 8) 65536) 8 (lsAddr { lmc 8 with loc := .banked 1 } 65536)) ∧
      (mcState 8).multicasts = [] ∧ (mcState 8).mcWeak = [] ∧ (1 : Nat) / 8 = (lmc 8).core / 8) ∧
    -- the checks of the targets: beyond the team, in a page not allotted, across into one, and passing
    (namedBy (lmc 7) (mcWord 0) 7 ∧ ((lmc 7).launch.atD 2 0).toNat ≤ 7) ∧
    ((∀ i, namedBy (lmc 8) (mcWord 0) i → i < ((lmc 8).launch.atD 2 0).toNat) ∧
      namedBy (lmc 8) (mcWord 0) 7 ∧ allotsAt (mcState 8) (lmc 8) 7 (7 * 16384) = false) ∧
    ((∀ i, namedBy (lmc 8) (mcWord 0) i → i < ((lmc 8).launch.atD 2 0).toNat ∧ allotsAt (mcState 8) (lmc 8) i (7 * 16384 - 1) = true) ∧
      allotsAt (mcState 8) (lmc 8) 0 (7 * 16384 - 1 + 2 - 1) = false) ∧
    (∀ i, namedBy (lmc 8) (mcWord 0) i → i < ((lmc 8).launch.atD 2 0).toNat ∧ allotsAt (mcState 8) (lmc 8) i 65536 = true) ∧
    -- a store through the window
    (0x01FFFF0020000000 + mcWord 65536 + 8 ≤ 0x01FFFF0040000000 ∧ (0x01FFFF0020000000 + mcWord 65536) % 4096 + 8 ≤ 4096 ∧
      (mcState 8).inRange 1 (0x01FFFF0020000000 + mcWord 65536) 8 = false ∧
      isDone ((mcState 8).mcTargets 0 (mcWord 65536) (mcWord 65536 % 2 ^ 21) 8) ∧
      ¬ isDone ((mcState 8).mcTargets 0 (mcWord 0) (mcWord 0 % 2 ^ 21) 8)) ∧
    (InLandingOrder [⟨5, 9, false, [], 0, []⟩, ⟨6, 3, true, [], 0, []⟩, ⟨6, 4, false, [], 0, []⟩]) := by
  have hl : ∀ i, namedBy (lmc 8) (mcWord 0) i → i = 0 ∨ i = 7 := by
    have h8 : ∀ i, i < 8 → namedBy (lmc 8) (mcWord 0) i → i = 0 ∨ i = 7 := by decide +kernel
    exact fun i h => h8 i (namedBy_lt (by decide +kernel) h) h
  refine ⟨⟨by decide +kernel, by decide +kernel, by decide +kernel, by decide +kernel, by decide +kernel, .inr (by decide +kernel), rfl, rfl, rfl⟩,
    by decide +kernel, ⟨?_, by decide +kernel, by decide +kernel⟩, ⟨?_, by decide +kernel⟩, ?_, by decide +kernel, ?_⟩
  · intro i h
    rcases hl i h with rfl | rfl <;> decide +kernel
  · intro i h
    rcases hl i h with rfl | rfl <;> decide +kernel
  · intro i h
    rcases hl i h with rfl | rfl <;> decide +kernel
  · simp [InLandingOrder]

/-! ## Witnesses: engine events -/

def cgWord (major func : Nat) : Nat := major * 2 ^ 21 + func * 2
def mWord (func c ty : Nat) : Nat := 0x30 * 2 ^ 21 + func * 2 ^ 17 + c * 2 ^ 15 + ty * 2 ^ 11

/-- A copy of 4097 bytes from 0x2000 to 0x3000, a gather of two words, and the same with a length of 0. -/
def cpC (n : Nat) : CgCmd := ⟨cgWord 0x1A 0, 23, [0x3000, BitVec.ofNat 64 n, 0x2000], 0x1000, 0⟩
def geC : CgCmd := ⟨cgWord 0x1B 0, 1, [0x3000, 2 + 2 * 2 ^ 36, 0x2000, 0x2800], 0x1000, 0⟩

/-- An engine's head command is started and has made `n` steps. -/
def going (n : Nat) : Progress := ⟨n, true, false, true⟩

/-- An M command with row 31 and column 31 enabled. -/
def mC (func c ty : Nat) (ops : List Word) : MxCmd := ⟨mWord func c ty, false, false, 0x8000000080000000, ops, 0x1000, 0⟩
def lm1 (func c ty : Nat) (ops : List Word) (n : Nat) : LCore := { l0 with mxFifo := [mC func c ty ops], mxProg := going n }

/-- An R command on region `da`. -/
def rC (func : Nat) (da db : BitVec 128) : RtCmd := ⟨0x34 * 2 ^ 21 + func * 2 ^ 17, false, da, db, 0x1000, 0⟩
def lr1 (m : RtCmd) (n : Nat) : LCore := { lv [] with rtFifo := [m], rtProg := going n }

def chkOk (x : Chk) : Bool :=
  match x with
  | .ok => true
  | _ => false

theorem chkOk_spec {x : Chk} (h : chkOk x = true) : x = .ok := by
  cases x <;> first | rfl | cases h

/-- A bundle of one vector syllable at 0x1000. -/
def beatWord : Nat := (encodeWords (.vadd r0 true 0 3 1 2 1)).headD 0
def beatState : State :=
  let s := (vs f32s).setRaws 0x42000 (bytesOf 4 beatWord)
  { s with cur := { s.cur with verdict := .done } }

/-- Word `w` decodes to `i`. -/
def decodes (w : Nat) (i : Instr) : Bool :=
  match decodeWord w with
  | .ok j => decide (j = i)
  | .error _ => false

theorem decodes_spec {w : Nat} {i : Instr} (h : decodes w i = true) : decodeWord w = .ok i := by
  unfold decodes at h
  split at h
  · next j hj => exact hj.trans (congrArg _ (of_decide_eq_true h))
  · cases h

def stepOk (x : VStep) : Bool :=
  match x with
  | .ok _ _ _ _ _ _ => true
  | _ => false

theorem stepOk_spec {x : VStep} (h : stepOk x = true) : ∃ s n f a m p, x = .ok s n f a m p := by
  cases x with
  | ok s n f a m p => exact ⟨s, n, f, a, m, p, rfl⟩
  | fault c a t => cases h
  | wait k p => cases h
  | assist => cases h

/-- An M command of one product: A at 0x2000, B at 0x2010. -/
def macOps : List Word := [0x2000, 2 ^ 32, 0x2010, 0]

/-- Every place of an access is memory. -/
def allPhys (rs : List Run) : Bool := rs.all (fun r => match r.place with | .phys _ _ => true | _ => false)

theorem allPhys_spec {rs : List Run} (h : allPhys rs = true) : ∀ y ∈ rs, ∃ pa e, y.place = .phys pa e := by
  intro y hy
  have h := List.all_eq_true.mp h y hy
  split at h
  · next pa e hp => exact ⟨pa, e, hp⟩
  · cases h

/-- An access within a block reaches its bytes. -/
def reachesOne (s : State) (x k : Nat) (how : Access) (va n : Nat) : Bool :=
  decide (0 < n ∧ va % 4096 + n ≤ 4096) && !s.inRange x va n && okAnd (s.runs x k how 2 va n) allPhys

theorem reaches_one {s : State} {x k : Nat} {how : Access} {va n : Nat} (h : reachesOne s x k how va n = true) :
    ∃ rs, Reaches s x k how va n rs := by
  unfold reachesOne at h
  simp only [Bool.and_eq_true, decide_eq_true_eq, Bool.not_eq_true'] at h
  obtain ⟨⟨⟨h0, h1⟩, h2⟩, h3⟩ := h
  obtain ⟨rs, h4, h5⟩ := okAnd_spec h3
  have hm : min n (4096 - va % 4096) = n := by omega
  refine ⟨rs ++ [], Reaches.block va n rs [] h0 (hm.symm ▸ h2) (hm.symm ▸ h4) (allPhys_spec h5) ?_⟩
  rw [hm, Nat.sub_self]
  exact Reaches.none _

/-- The bytes that it reads. -/
def readsAt (s : State) (x k va n : Nat) (p : List Byte → State → Bool) : Bool :=
  reachesOne s x k .load va n && okAnd (s.runs x k .load 2 va n) (fun rs => p (s.runsBytes rs) (s.readMarks x rs))

theorem readsTo_of {s : State} {x k va n : Nat} {p : List Byte → State → Bool} (h : readsAt s x k va n p = true) :
    ∃ bs t, ReadsTo s x k va n bs t ∧ p bs t = true := by
  unfold readsAt reachesOne at h
  simp only [Bool.and_eq_true, decide_eq_true_eq, Bool.not_eq_true'] at h
  obtain ⟨⟨⟨⟨h0, h1⟩, h2⟩, h3⟩, h4⟩ := h
  obtain ⟨rs, h5, h6⟩ := okAnd_spec h3
  obtain ⟨qs, h7, h8⟩ := okAnd_spec h4
  rw [h5] at h7
  cases h7
  have hm : min n (4096 - va % 4096) = n := by omega
  refine ⟨_, _, ⟨rs ++ [], Reaches.block va n rs [] h0 (hm.symm ▸ h2) (hm.symm ▸ h5) (allPhys_spec h6) ?_, rfl, rfl⟩, ?_⟩
  · rw [hm, Nat.sub_self]
    exact Reaches.none _
  · simpa using h8

theorem writesTo_of {s : State} {x k va : Nat} {bs : List Byte} (h : reachesOne s x k .store va bs.length = true) :
    ∃ t, WritesTo s x k va bs t := by
  obtain ⟨rs, h⟩ := reaches_one h
  exact ⟨_, rs, h, rfl⟩

theorem movesTo_of {s : State} {x k src dst n : Nat}
    (h : readsAt s x k src n (fun bs t => reachesOne t x k .store dst bs.length) = true) : ∃ t, MovesTo s x k src dst n t := by
  obtain ⟨bs, s1, hr, hw⟩ := readsTo_of h
  obtain ⟨t, hw⟩ := writesTo_of hw
  exact ⟨t, bs, s1, hr, hw⟩

/-- The cause and the address of an access that fails. -/
def faultOf {α : Type} (x : Acc α) : Option (Nat × Word × Bool) :=
  match x with
  | .fault c a t => some (c, a, t)
  | _ => none

theorem faultOf_spec {α : Type} {x : Acc α} {c : Nat} {a : Word} {t : Bool} (h : faultOf x = some (c, a, t)) : x = .fault c a t := by
  unfold faultOf at h
  split at h
  · next d b u =>
    simp only [Option.some.injEq, Prod.mk.injEq] at h
    obtain ⟨h1, h2, h3⟩ := h
    subst h1 h2 h3
    rfl
  · cases h

/-- The access fails at its first byte. -/
theorem failsAt_of {s : State} {x k va n c : Nat} {how : Access} {a : Word} (h0 : 0 < n) (ha : va = a.toNat)
    (h : faultOf (s.runs x k how 2 va (min n (4096 - va % 4096))) = some (c, a, false)) : FailsAt s x k how va n c a :=
  ⟨0, [], h0, .inl rfl, Reaches.none _, .inl ⟨faultOf_spec h, .inl ha⟩⟩

theorem underWay_of {s : State} {c k : Nat} {g : Bool} {x : CgCmd}
    (h : EngineRuns s c k ∧ Head (s.lcAt k) g x ∧ (progress (s.lcAt k) g).started = true ∧ (progress (s.lcAt k) g).done = false)
    (hh : heldStatus (s.lcAt k) g = none) : UnderWay s c k g x :=
  ⟨h.1, h.2.1, h.2.2.1, h.2.2.2, fun v w => by have h1 := w.1; rw [hh] at h1; cases h1⟩

/-- Copies of 4095 bytes from an unmapped page, to one, and a fill; a multicast copy of one byte to members 0 and 7. -/
def cpFrom : CgCmd := ⟨cgWord 0x1A 0, 23, [0x3000, 4095, 0x4000], 0x1000, 0⟩
def cpTo : CgCmd := ⟨cgWord 0x1A 0, 23, [0x4000, 4095, 0x2000], 0x1000, 0⟩
def cpF : CgCmd := ⟨cgWord 0x1A 3, 23, [0x3000, 4095, 5], 0x1000, 0⟩
def cpM (off : Nat) : CgCmd := ⟨cgWord 0x1A 2, 23, [BitVec.ofNat 64 (0x01FFFF0020000000 + mcWord off), 16, 0x2000], 0x1000, 0⟩

/-- A logical core whose CE, or GE, is at its head command `c` at COUNT `n`. -/
def lce (c : CgCmd) (n : Nat) : LCore := { lmc 8 with ceFifo := [c], ceProg := going n }
def lge (c : CgCmd) (n : Nat) : LCore := { l0 with geFifo := [c], geProg := going n }
def ceState (c : CgCmd) (n : Nat) : State := { mcState 8 with lcores := [(0, lce c n), (7, { lmc 8 with loc := .banked 1 })] }

theorem witness_CopyAndGather :
    -- starts
    (EngineRuns (dev { l0 with ceFifo := [cpC 4097] }) 0 0 ∧ Head { l0 with ceFifo := [cpC 4097] } false (cpC 4097) ∧
      ({ l0 with ceFifo := [cpC 4097] } : LCore).rillWait posC (cpC 4097).rill = none ∧ (cpC 4097).ctl.toNat = 4097 ∧
      (cpC 0).ctl.toNat % 2 ^ 20 = 0 ∧ (cpC 4097).form = .cp ∧ (cpM 0).form = .cpMc ∧ cpF.form = .cpFill ∧ geC.form = .gather) ∧
    -- chunks: the last byte of a copy, one that moves, and each of its faults
    (UnderWay (ceState (cpC 4097) 4096) 0 0 false (cpC 4097) ∧ 4096 < (cpC 4097).total ∧ 4096 % (cpC 4097).len = 4096) ∧
    (UnderWay (ceState (cpC 4095) 0) 0 0 false (cpC 4095) ∧ ∃ t, MovesTo (ceState (cpC 4095) 0) 1 0 0x2000 0x3000 4095 t) ∧
    (UnderWay (ceState cpFrom 0) 0 0 false cpFrom ∧ FailsAt (ceState cpFrom 0) 1 0 .load 0x4000 4095 4 0x4000) ∧
    (∃ bs t, ReadsTo (ceState cpTo 0) 1 0 0x2000 4095 bs t ∧
      (faultOf (t.runs 1 0 .store 2 0x4000 (min 4095 (4096 - 0x4000 % 4096))) == some (4, 0x4000, false)) = true) ∧
    (UnderWay (ceState cpF 0) 0 0 false cpF ∧
      ∃ t, WritesTo (ceState cpF 0) 1 0 0x3000 ((List.range 4095).map (fun i => (bytesOf 8 5).getD i 0)) t) ∧
    -- a multicast chunk that passes, one that starts at the end of its range, one that crosses it, and one with no page
    (UnderWay (ceState (cpM 65536) 0) 0 0 false (cpM 65536) ∧
      ∃ bs t, ReadsTo (ceState (cpM 65536) 0) 1 0 0x2000 16 bs t ∧
        (decide (isDone (t.mcTargets 0 (mcWord 65536) 65536 16)) && !t.inRange 1 (0x01FFFF0020000000 + mcWord 65536) 16 &&
          decide (¬ isDone (t.mcTargets 0 (mcWord 0) 0 16))) = true) ∧
    ((2 ^ 21 - 8 : Nat) < 2 ^ 21 ∧ 2 ^ 21 < (2 ^ 21 - 8) + 16) ∧
    -- steps of a gather: the last index
    (UnderWay (dev (lge geC 1)) 0 0 true geC ∧ 1 < geC.total ∧ (geC.gb 1).toNat % 4 = 0 ∧
      ∃ bs t, ReadsTo (dev (lge geC 1)) 1 0 (geC.gb 1 + 4).toNat 4 bs t ∧
        (readsAt t 1 0 (geC.gb 0).toNat 1 (fun cs u => reachesOne u 1 0 .store (geC.ga 0 + 1).toNat cs.length) && decide (ofBytes bs = 0)) = true) := by
  refine ⟨by decide +kernel, ⟨underWay_of (by decide +kernel) (by decide +kernel), by decide +kernel, by decide +kernel⟩,
    ⟨underWay_of (by decide +kernel) (by decide +kernel), movesTo_of (by decide +kernel)⟩,
    ⟨underWay_of (by decide +kernel) (by decide +kernel), failsAt_of (by decide) (by decide) (by decide +kernel)⟩,
    readsTo_of (by decide +kernel), ⟨underWay_of (by decide +kernel) (by decide +kernel), writesTo_of (by decide +kernel)⟩,
    ⟨underWay_of (by decide +kernel) (by decide +kernel), readsTo_of (by decide +kernel)⟩, by decide +kernel,
    ⟨underWay_of (by decide +kernel) (by decide +kernel), by decide +kernel, by decide +kernel, readsTo_of (by decide +kernel)⟩⟩

/-- A copy of one byte with its follow-on `w`, and one with RC on ring 15. -/
def cpFo (w : Nat) : CgCmd := ⟨cgWord 0x1A 0 + 1, 23, [0x3000, 1, 0x2000, BitVec.ofNat 64 w], 0x1000, 0⟩
def cpRc : CgCmd := ⟨cgWord 0x1A 0, 23, [0x3000, BitVec.ofNat 64 (1 + 2 ^ 40 + 15 * 2 ^ 41), 0x2000], 0x1000, 0⟩

theorem witness_CommandEnds :
    -- before its last byte, after it, and with a follow-on that is entered, waits, or is malformed
    (UnderWay (ceState (cpC 4097) 4096) 0 0 false (cpC 4097) ∧ Landed (ceState (cpC 4097) 4096) 0 false ∧ 4096 < (cpC 4097).total) ∧
    (UnderWay (ceState (cpC 1) 1) 0 0 false (cpC 1) ∧ (cpC 1).total = 1 ∧ (cpC 1).fo = false ∧ OwesNone (lce (cpC 1) 1) false (cpC 1) ∧
      (lce (cpC 1) 1).followOn = none ∧ (lce (cpC 1) 1).rillFull posC (cpC 1).rill = false) ∧
    (∃ u, Committed (lce (cpC 1) 1) (cpC 1) u false) ∧
    (UnderWay (dev (lge geC 2)) 0 0 true geC ∧ Landed (dev (lge geC 2)) 0 true ∧ geC.total = 2) ∧
    (UnderWay (ceState (cpFo (mWord 2 3 0)) 1) 0 0 false (cpFo (mWord 2 3 0)) ∧ (cpFo (mWord 2 3 0)).fo = true ∧
      ¬ BadFollowOn (lce (cpFo (mWord 2 3 0)) 1) ((cpFo (mWord 2 3 0)).foWord 0) ∧ RoomFor (lce (cpFo (mWord 2 3 0)) 1) (mWord 2 3 0) ∧
      ¬ RoomFor { lce (cpFo (mWord 2 3 0)) 1 with mxFifo := List.replicate 16 mxCmd } (mWord 2 3 0)) ∧
    BadFollowOn (lce (cpFo (2 ^ 32)) 1) ((cpFo (2 ^ 32)).foWord 0) ∧
    -- the commit of a slot that is claimed, and of none
    (gap (lring.ring 15).claim (lring.ring 15).tail = 2 ∧ cpRc.ctl.getLsbD 40 = true ∧
      cpRc.ctl.toNat / 2 ^ 41 % 16 = 15 ∧ gap (l0.ring 15).claim (l0.ring 15).tail = 0) ∧
    -- a status held back, signals that wait, a multicast store in flight, and a held follow-on
    (let l := { lce (cpC 1) 1 with ceHeld := some (23, statusWord 0 false 1), geFifo := [{ geC with token := 23 }] };
      Head l false (cpC 1) ∧ Withheld l false (cpC 1) (statusWord 0 false 1)) ∧
    (earlier 5 6 = true ∧ ¬ OwesNone { lce { cpC 1 with seq := 6 } 1 with geFifo := [{ geC with token := 23, seq := 5 }] } false
      { cpC 1 with seq := 6 }) ∧
    (let l := { lce (cpC 1) 1 with ceProg := ⟨1, true, true, true⟩ };
      EngineRuns (dev l) 0 0 ∧ Head l false (cpC 1) ∧ (progress l false).done = true) ∧
    ¬ Landed { ceState (cpC 1) 1 with multicasts := [⟨12, 0, true, [0], 0, []⟩] } 0 false ∧
    (let l := { l0 with followOn := some ⟨mWord 2 3 0, 0x1000, []⟩, mxFifo := List.replicate 15 mxCmd };
      EngineRuns (dev l) 0 0 ∧ RoomFor l (mWord 2 3 0)) := by
  refine ⟨⟨underWay_of (by decide +kernel) (by decide +kernel), by decide +kernel, by decide +kernel⟩,
    ⟨underWay_of (by decide +kernel) (by decide +kernel), by decide +kernel, by decide +kernel, by decide +kernel, by decide +kernel, by decide +kernel⟩,
    ⟨lce (cpC 1) 1, ?_⟩, ⟨underWay_of (by decide +kernel) (by decide +kernel), by decide +kernel, by decide +kernel⟩,
    ⟨underWay_of (by decide +kernel) (by decide +kernel), by decide +kernel, ?_, by decide +kernel, by decide +kernel⟩, ?_, by decide +kernel,
    ⟨by decide +kernel, ?_⟩, by decide +kernel, by decide +kernel, by decide +kernel, by decide +kernel⟩
  · have h : (cpC 1).ctl.getLsbD 40 = false := by decide +kernel
    unfold Committed
    dsimp only
    rw [if_pos (Or.inl h)]
    exact ⟨rfl, h.symm⟩
  · unfold BadFollowOn
    decide +kernel
  · unfold BadFollowOn
    decide +kernel
  · unfold Withheld
    decide +kernel

/-- The accesses at the one address `va` pass, or fail. -/
theorem allPass_one {s : State} {x k n va : Nat} {how : Access} (h : okAnd (s.access x k how va n) allPhys = true) :
    AllPass s x k how n [va] := by
  intro v hv
  rw [List.mem_singleton.mp hv]
  obtain ⟨rs, h1, h2⟩ := okAnd_spec h
  exact ⟨rs, h1, allPhys_spec h2⟩

theorem oneFails_one {s : State} {x k n va c : Nat} {how : Access} {a : Word} (hv : va < 2 ^ 64)
    (h : faultOf (s.access x k how va n) = some (c, a, false)) : OneFails s x k how n [va] c a := by
  refine ⟨⟨va, List.mem_singleton.mpr rfl, .inl (faultOf_spec h)⟩, ?_, ?_⟩
  · intro v hm
    rw [List.mem_singleton.mp hm]
    exact hv
  · intro v hm d e b hf
    rw [List.mem_singleton.mp hm] at hf
    rcases hf with hf | ⟨-, -, -, rs, hr, -⟩
    · rw [faultOf_spec h] at hf
      cases hf
      exact .inl ⟨rfl, rfl, rfl⟩
    · rw [faultOf_spec h] at hr
      cases hr

theorem reading_one {s : State} {x k n va : Nat} (h : isOk (s.readVa x k va n) = true) : ∃ vs t, Reading x k n s [va] vs t := by
  obtain ⟨⟨bs, s1⟩, h⟩ := isOk_spec h
  exact ⟨_, s1, .one s s1 s1 va [] bs [] h (.none s1)⟩

/-- An `mx.ld` of the element at 0x2000 + 124, and one of 0x4000 + 124. -/
def ldM (a : Word) : LCore := lm1 3 0 1 [a, 0] 31

theorem witness_MatrixCommands :
    -- starts: in order, with bad operands, and misaligned
    (let l := { l0 with mxFifo := [mC 3 0 1 [0x2000, 0]] };
      EngineRuns (dev l) 0 0 ∧ l.mxProg = Progress.zero ∧ l.rillWait posM (mC 3 0 1 [0x2000, 0]).fields.q = none ∧
      (∀ a ∈ (accessed (mC 3 0 1 [0x2000, 0])).1 ++ (accessed (mC 3 0 1 [0x2000, 0])).2.1, a % (accessed (mC 3 0 1 [0x2000, 0])).2.2 = 0)) ∧
    ¬ BadMatrixOperands (dev l0) l0 (mC 3 0 1 [0x2000, 0]) ∧
    BadMatrixOperands (dev l0) l0 (mC 3 0 1 [0x2000, 0x100000000]) ∧
    BadMatrixOperands (dev l0) l0 (mC 0 0 2 [0x2000, BitVec.ofNat 64 (2049 * 2 ^ 52), 0x2000, 0]) ∧
    LowestOdd 4 (accessed (mC 3 0 1 [0x2001, 0])).1 0x207D ∧
    -- completion, and `mx.tw`
    (let l := { l0 with mxFifo := [mC 2 0 1 []], mxProg := ⟨0, true, true, true⟩ };
      EngineRuns (dev l) 0 0 ∧ l.mxProg.started = true ∧ l.mxProg.done = true ∧ l.rillFull posM (mC 2 0 1 []).fields.q = false) ∧
    (let l := lm1 7 0 0 [4095 + 2 ^ 44] 0;
      let s := ({ tnsState 0 0 0 0 with lcores := [(0, l)] }).setRaw 0x1000000000000 1;
      EngineRuns s 0 0 ∧ ((s.ctxAt 1).tdesc 4095).v = true ∧ 0 + 1 ≤ ((s.ctxAt 1).tdesc 4095).n ∧
        (∀ i, i < 1 → s.basinBit 1 ((s.ctxAt 1).tdesc 4095).bitmap (0 + i) = true)) := by
  refine ⟨by decide +kernel, ?_, ?_, ?_, ?_, by decide +kernel, by decide +kernel⟩
  · unfold BadMatrixOperands
    decide +kernel
  · unfold BadMatrixOperands
    decide +kernel
  · unfold BadMatrixOperands
    decide +kernel
  · unfold LowestOdd
    decide +kernel

theorem witness_MatrixSteps :
    MxUnderWay (dev (lm1 2 3 1 [] 0)) 0 0 (mC 2 3 1 []) 2 ∧
    (MxUnderWay (dev (lm1 8 0 1 [] 0)) 0 0 (mC 8 0 1 []) 8 ∧ enabled (mC 8 0 1 []).mask 31 31 = true) ∧
    -- the last row of a load: moved, or refused
    (MxUnderWay (dev (ldM 0x2000)) 0 0 (mC 3 0 1 [0x2000, 0]) 3 ∧ (ldM 0x2000).mxProg.count = 31 ∧
      (maskCols (mC 3 0 1 [0x2000, 0]).mask).filter (fun j => enabled (mC 3 0 1 [0x2000, 0]).mask 31 j) = [31] ∧
      addrOfC (mC 3 0 1 [0x2000, 0]) 4 31 31 = 0x207C ∧
      AllPass (dev (ldM 0x2000)) 1 0 .load 4 [0x207C] ∧ ∃ vs t, Reading 1 0 4 (dev (ldM 0x2000)) [0x207C] vs t) ∧
    OneFails (dev (ldM 0x4000)) 1 0 .load 4 [0x407C] 4 0x407C ∧
    -- stores, as they are and converted
    (MxUnderWay (dev (lm1 4 0 1 [0x2000, 0] 31)) 0 0 (mC 4 0 1 [0x2000, 0]) 4 ∧
      AllPass (dev (lm1 4 0 1 [0x2000, 0] 31)) 1 0 .store 4 [0x207C]) ∧
    (MxUnderWay (dev (lm1 5 0 2 [0x2000, 0] 31)) 0 0 (mC 5 0 2 [0x2000, 0]) 5 ∧
      addrOfC (mC 5 0 2 [0x2000, 0]) (tyBits 2 / 8) 31 31 = 0x203E ∧
      AllPass (dev (lm1 5 0 2 [0x2000, 0] 31)) 1 0 .store 2 [0x203E]) ∧
    -- a product of one k-step of FP32, and its operands
    (let m := mC 1 0 1 macOps;
      let s := dev (lm1 1 0 1 macOps 0);
      MxUnderWay s 0 0 m 1 ∧ depthOf m = 1 ∧ maskRows m.mask = [31] ∧ maskCols m.mask = [31] ∧
        AllPass s 1 0 .load (mxSize 1) [addrOfA m 1 31 0] ∧ AllPass s 1 0 .load (mxSize 1) [addrOfB m 1 0 31] ∧
        (∃ vs t, Reading 1 0 (mxSize 1) s [addrOfA m 1 31 0] vs t) ∧ (mxElement 1 (tinyOf m.ftz) 0 [0] [0]).assist = false) ∧
    (∃ f, tyFmt 5 = some f ∧ Partial (kDepth 5) [] [] (.fin false 0 0) (.fin false 0 0)) :=
  ⟨by decide +kernel, by decide +kernel, ⟨by decide +kernel, by decide +kernel, by decide +kernel, by decide +kernel, allPass_one (by decide +kernel),
      reading_one (by decide +kernel)⟩, oneFails_one (by decide) (by decide +kernel), ⟨by decide +kernel, allPass_one (by decide +kernel)⟩,
    ⟨by decide +kernel, by decide +kernel, allPass_one (by decide +kernel)⟩,
    ⟨by decide +kernel, by decide +kernel, by decide +kernel, by decide +kernel, allPass_one (by decide +kernel), allPass_one (by decide +kernel),
      reading_one (by decide +kernel), by decide +kernel⟩, ⟨_, rfl, .none _ _⟩⟩

/-- A command on local store whose descriptors are `da` and `db`. -/
def rG (func mode sub : Nat) (da db : BitVec 128) : RtCmd :=
  ⟨0x34 * 2 ^ 21 + func * 2 ^ 17 + mode * 2 ^ 15 + sub * 2 ^ 4, false, da, db, 0x1000, 0⟩

/-- The checks of a row pass. -/
def rtPassesB (s : State) (l : LCore) (m : RtCmd) (r : Nat) : Bool :=
  chkOk (s.checkEls l (elements m r)) &&
    (wordsIn m r).all (fun x => decide ¬ (s.readEl l x / 2 ^ 27 % 32 ≠ 0 ∨ ((s.readEl l x).testBit 26 = true ∧ s.readEl l x % 2 ^ 26 ≠ 0)))

theorem rtPasses_of {s : State} {l : LCore} {m : RtCmd} {r : Nat} (h : rtPassesB s l m r = true) : RtPasses s l m r := by
  unfold rtPassesB at h
  rw [Bool.and_eq_true] at h
  exact ⟨chkOk_spec h.1, fun x hx hm => of_decide_eq_true (List.all_eq_true.mp h.2 x hx) hm⟩

/-- Sixteen columns of one row, all +0. -/
def qr0 : RtCmd := rG 3 0 0 (rd 0 1 16 1) 0
def app0 : RtCmd := rG 8 0 0 (rd 0 1 16 1) (rd 1024 9 120 1)

theorem witness_RotatorCommands :
    -- starts, and the faults of operands and of a check
    (let l := { lv [] with rtFifo := [qr0] };
      EngineRuns (dev l) 0 0 ∧ l.rtProg = Progress.zero ∧ l.rillWait posR qr0.fields.q = none ∧ Streams qr0) ∧
    ¬ BadRotatorOperands qr0 ∧ BadRotatorOperands (rG 3 0 0 (rd 0 1 17 1) 0) ∧ BadRotatorOperands (rG 7 0 1 (rd 0 1 1 1) (rd 1024 15 0 1)) ∧
    RtFails (dev (lv [])) (lv []) (rG 1 0 0 (rd 16384 1 1 1) 0) 0 4 0x01FFFF0000004000 ∧
    -- a row of +0: every word is Z, and nothing moves
    (RtUnderWay (dev (lr1 qr0 0)) 0 0 qr0 ∧ 0 < rowCount qr0 ∧
      (∀ j, j < 16 → valueAt (dev (lr1 qr0 0)) (lr1 qr0 0) (own2 (dA qr0) j 0) = 0) ∧
      (∀ i, i < 16 → (vecCell .assist ((lr1 qr0 0).triAt (atU i i)) 0 false).val = (0, 0x04000000) ∧
        (vecCell .assist ((lr1 qr0 0).triAt (atU i i)) 0 false).assist = false) ∧
      (∀ i, i < 16 → ∀ j, j < 16 → (rotCell .assist 0x04000000 ((lr1 qr0 0).triAt (atU i j)) 0 false false).val = (0, 0) ∧
        (rotCell .assist 0x04000000 ((lr1 qr0 0).triAt (atU i j)) 0 false false).assist = false)) ∧
    RtPasses (dev (lr1 qr0 0)) (lr1 qr0 0) qr0 0 ∧
    -- `rt.vec`, `rt.rot`, `rt.ang` and `rt.app`
    (RtUnderWay (dev (lr1 (rG 4 1 0 (rd 0 1 2 1) (rd 64 9 1 1)) 0)) 0 0 (rG 4 1 0 (rd 0 1 2 1) (rd 64 9 1 1)) ∧
      0 < rowCount (rG 4 1 0 (rd 0 1 2 1) (rd 64 9 1 1)) ∧ (vecCell .assist 0 0 true).assist = false ∧
      (rotCell .assist 0 0 0 true true).assist = false) ∧
    RtPasses (dev (lr1 (rG 4 1 0 (rd 0 1 2 1) (rd 64 9 1 1)) 0)) (lr1 (rG 4 1 0 (rd 0 1 2 1) (rd 64 9 1 1)) 0)
      (rG 4 1 0 (rd 0 1 2 1) (rd 64 9 1 1)) 0 ∧
    RtPasses (dev (lr1 (rG 5 1 0 (rd 0 1 2 1) (rd 64 9 1 1)) 0)) (lr1 (rG 5 1 0 (rd 0 1 2 1) (rd 64 9 1 1)) 0)
      (rG 5 1 0 (rd 0 1 2 1) (rd 64 9 1 1)) 0 ∧
    RtPasses (dev (lr1 (rG 6 0 1 (rd 0 9 1 1) (rd 64 9 1 1)) 0)) (lr1 (rG 6 0 1 (rd 0 9 1 1) (rd 64 9 1 1)) 0)
      (rG 6 0 1 (rd 0 9 1 1) (rd 64 9 1 1)) 0 ∧
    (0 < rowCount (rG 6 0 1 (rd 0 9 1 1) (rd 64 9 1 1)) ∧ 0 < rowCount app0 ∧ (rotCell .assist 0 0 0 false false).val = (0, 0)) ∧
    RtPasses (dev (lr1 app0 0)) (lr1 app0 0) app0 0 ∧
    -- the ends
    (RtUnderWay (dev (lr1 qr0 1)) 0 0 qr0 ∧ (lr1 qr0 1).rillFull posR qr0.fields.q = false ∧ rowCount qr0 ≤ 1) ∧
    (RtUnderWay (dev (lr1 (rG 0 0 0 0 0) 0)) 0 0 (rG 0 0 0 0 0) ∧ gFunc (rG 0 0 0 0 0) = 0 ∧ ¬ Streams (rG 0 0 0 0 0)) ∧
    RtPasses (dev (lr1 (rG 0 0 0 0 0) 0)) (lr1 (rG 0 0 0 0 0) 0) (rG 0 0 0 0 0) 0 ∧
    RtPasses (dev (lr1 (rG 2 2 0 (rd 0 1 200 1) 0) 0)) (lr1 (rG 2 2 0 (rd 0 1 200 1) 0) 0) (rG 2 2 0 (rd 0 1 200 1) 0) 0 ∧
    (∀ i, i < 16 → ∀ j, j < 16 → i ≤ j → (deferred (lr1 (rG 9 0 0 0 0) 0) .assist i (atU i j)).assist = false) ∧
    (¬ BadRotatorOperands (rG 7 0 1 (rd 0 1 1 1) (rd 1024 15 1 1)) ∧ gFunc (rG 7 0 1 (rd 0 1 1 1) (rd 1024 15 1 1)) = 7 ∧
      RtPasses (dev (lr1 (rG 7 0 1 (rd 0 1 1 1) (rd 1024 15 1 1)) 0)) (lr1 (rG 7 0 1 (rd 0 1 1 1) (rd 1024 15 1 1)) 0)
        (rG 7 0 1 (rd 0 1 1 1) (rd 1024 15 1 1)) 0 ∧ (div32 .assist 0 0).assist = false) := by
  refine ⟨by decide +kernel, ?_, ?_, ?_, ?_, by decide +kernel, rtPasses_of (by decide +kernel), by decide +kernel, rtPasses_of (by decide +kernel),
    rtPasses_of (by decide +kernel), rtPasses_of (by decide +kernel), by decide +kernel, rtPasses_of (by decide +kernel), by decide +kernel,
    by decide +kernel, rtPasses_of (by decide +kernel), rtPasses_of (by decide +kernel), by decide +kernel,
    ?_, by decide +kernel, rtPasses_of (by decide +kernel), by decide +kernel⟩
  · unfold BadRotatorOperands
    decide +kernel
  · unfold BadRotatorOperands
    decide +kernel
  · unfold BadRotatorOperands
    decide +kernel
  · exact .inr ⟨fun x hx => (by cases hx), by decide +kernel⟩
  · unfold BadRotatorOperands
    decide +kernel

/-- The functions of a vec and a rot of numbers, of their angles, and of the compensation: 3.0 and 4.0, NaN, and zeros. -/
theorem witness_RotatorCells :
    (oddPair (fp32.value 0x7FC00000) (fp32.value 0) = true ∧ oddPair (fp32.value 0x40400000) (fp32.value 0x40800000) = false ∧
      (fp32.value 0x80000000).isZero = true ∧ 0 ≤ fixed (fp32.value 0x40400000) 2 ∧ topExp (fp32.value 0x40400000) (fp32.value 0x40800000) = 2) ∧
    ((2 ^ 26 : Nat).testBit 26 = true ∧ (2 ^ 26 - 1 : Nat).testBit 26 = false ∧ (2 ^ 32 - 1 : Nat) < 2 ^ 32) ∧
    (∃ neg m e, fp32.value 0x40400000 = .fin neg m e ∧ 0 < m) ∧ ((fp32.value 0xFF800000).isInf = true ∧ (fp32.value 0xFF800000).isNan = false) :=
  ⟨by decide +kernel, by decide +kernel, ⟨_, _, _, rfl, by decide +kernel⟩, by decide +kernel⟩

theorem witness_EngineEvents :
    (let l := { l0 with
        dlcnt := 2 ^ 20
        ap := { l0.ap with stall := some (.queueEmpty 6 1) }
        ep := { l0.ep with stall := some (.queueEmpty 0 1) } };
      EngineRuns (dev l) 0 0 ∧ 2 ^ 20 ≤ l.dlcnt ∧ l.mutual = true) ∧
    (EngineRuns (dev { l0 with dlcnt := 2 ^ 20 }) 0 0 ∧ ({ l0 with dlcnt := 2 ^ 20 } : LCore).mutual = false) ∧
    (beatState.who = some epW ∧ beatState.cur.verdict = .done ∧
      (∃ y, beatState.fetchCore 0 beatState.wordPc = .ok y ∧ (y.1 == beatWord) = true) ∧
      decodeWord beatWord = .ok (.vadd r0 true 0 3 1 2 1) ∧
      ∃ v, (Instr.vadd r0 true 0 3 1 2 1).vop = some v ∧ v.pair = none ∧ v.illegal (beatState.lcAt 0) = false ∧
        beatState.issue epW (vectorUse v.q v.e v.srcs v.dsts) = .go ∧ v.operand (beatState.lcAt 0) = false ∧
        (beatState.lcAt 0).vdone < v.work (beatState.lcAt 0) ∧
        ∃ s n f a m p, beatState.vstep 0 v = .ok s n f a m p) :=
  ⟨by decide +kernel, by decide +kernel, by decide +kernel, by decide +kernel, okAnd_spec (by decide +kernel), decodes_spec (by decide +kernel), _, rfl,
    by decide +kernel, by decide +kernel, by decide +kernel, by decide +kernel, by decide +kernel, stepOk_spec (by decide +kernel)⟩

/-! ## Witnesses: the ports -/

def cells (n : Nat) (fs : List (Nat × Nat × Nat)) : List Byte :=
  fs.foldl (fun b f => b.take f.1 ++ bytesOf f.2.1 f.2.2 ++ b.drop (f.1 + f.2.1)) (bytesOf n 0)

/-- A packet of kind `op` for context 1 under association 4095, with the header fields `fs`. -/
def packet (op : Nat) (fs : List (Nat × Nat × Nat)) (bs : List Byte) : Packet where
  header := cells 32 ([(0, 1, 1), (1, 1, op), (2, 2, 1)] ++ fs)
  payload := bs
  supported := true
  sa := 4095
  authentic := true
  counter := 7
  trimmed := false
  conn := 4095
  addr := 0
  udp := 0
  ctx := 1
  va := 0
  delay := 0
  size := 100

def assoc0 : Assoc := ⟨1, [], 0, []⟩

/-- Port 2 works; its core's flow 511 goes there, and its transfer 4095 has sent its one chunk. -/
def slRun : Sluice := { slSend [] with
  sas := [(4095, assoc0), (0, assoc0)]
  flows := [(8 * 511, 0xA000000000000000), (8 * 511 + 1, 1), (8 * 511 + 2, 5), (8 * 511 + 3, 8000)]
  flowSt := [(511, { FlowSt.fresh with bucket := 2 ^ 20, queue := [.control []] })]
  transfers := [(4095, ⟨cells 48 [(8, 8, 64), (0x1E, 2, 64), (0x24, 4, 1)], 511, 1, [(0, ⟨some 0, 5, false, false⟩)], none, none, 0, 0⟩)] }

def arr (x : Sluice) : State := { tnsState 0 0 0 0 with
  sluices := [(0, x)]
  ports := [(2, { Port.fresh with conns := [(4095, conn0)], base := 5, next := 6, holders := [⟨conn0, false⟩] })] }

/-- A data packet for the one chunk of descriptor 4095. -/
def dataPk (len : Nat) : Packet := packet 0 [(4, 2, 4095), (0x12, 2, len)] (List.replicate len 1)

/-- A transfer of flow 511 that waits at the gate of chunk 0 of descriptor 4095. -/
def gated : Transfer := ⟨cells 48 [(8, 8, 64), (0x1E, 2, 64), (0x24, 4, 1)], 511, 1, [(0, ⟨none, 0, false, true⟩)], none, some (4095, 0), 0, 0⟩

/-- A sum for the one chunk of descriptor 4095 of mode 1, from contributor 0. -/
def sumPk : Packet := packet 1 [(4, 2, 4095), (6, 1, 1), (0x12, 2, 64)] (List.replicate 64 0)

/-- As `arr`, with descriptor 4095 a sum, whose chunk home and records lie in the grant; and the context's fields set by `f`. -/
def arrSum (f : Ctx → Ctx) : State :=
  let s := arr slRun
  s.setCtx 1 (f { s.ctxAt 1 with tns := (tnsState 1 0 0 0).ctxAt 1 |>.tns })

/-- The words of descriptor 4095. -/
def wordsOf (s : State) : List Word := (s.ctxAt 1).tnsWords 4095

theorem acks_of {s : State} {p via : Nat} {k : Packet} {a : Assoc} (h : (s.slAt (via / 3)).sas.at? k.sa = some a)
    (hc : a.counter + 1 < 2 ^ 64 - 2 ^ 32) : ∃ t, Acks s t p via k := ⟨_, a, h, hc, rfl⟩

theorem codes {p : Nat → Prop} (h1 : p 1) (h2 : p 2) (h3 : p 3) (h4 : p 4) : ∀ code, 1 ≤ code → code ≤ 4 → p code := by
  intro code l u
  obtain rfl | rfl | rfl | rfl : code = 1 ∨ code = 2 ∨ code = 3 ∨ code = 4 := by omega
  · exact h1
  · exact h2
  · exact h3
  · exact h4

theorem witness_DataArrival :
    (Works (arr slRun) 2 ∧ ({ dataPk 64 with supported := false } : Packet).supported = false ∧
      ¬ GoodHeader (packet 0 [(0, 1, 2)] []) ∧ Replayed (dataPk 64) { assoc0 with seen := [7] } ∧ ¬ Free (arr { slRun with pending := [(258, [])] }) 2) ∧
    -- a packet in order, one that is trimmed, and one of a wrong length
    (Accepted (arr slRun) 2 (dataPk 64) assoc0 ∧ (dataPk 64).op = 0 ∧ (dataPk 64).trimmed = false ∧ Serves (arr slRun) 2 (dataPk 64).context ∧
      ((arr slRun).ctxAt 1).freeze = none ∧ Free (arr slRun) 2) ∧
    (∀ code, 1 ≤ code → code ≤ 4 → ¬ Wrong (dataPk 64) (((arr slRun).ctxAt 1).tdesc 4095) code) ∧
    Accepted (arr slRun) 2 { dataPk 64 with trimmed := true, payload := [] } assoc0 ∧
    (Accepted (arr slRun) 2 (dataPk 63) assoc0 ∧ Wrong (dataPk 63) (((arr slRun).ctxAt 1).tdesc 4095) 3 ∧
      (∀ b, 1 ≤ b → b < 3 → ¬ Wrong (dataPk 63) (((arr slRun).ctxAt 1).tdesc 4095) b)) ∧
    (∃ t, Acks (arr slRun) t 2 2 (dataPk 64)) ∧
    -- claims: a payload that is written; a duplicate; one that waits; a sum that completes its chunk
    (((arr slRun).ctxAt 1).claims = [] ∧ (arr slRun).basinBit 1 (TDesc.ofWords (wordsOf (arr slRun))).bitmap 0 = false ∧
      isDone ((arr slRun).chunkPlace 1 (TDesc.ofWords (wordsOf (arr slRun))) 0) ∧ (dataPk 64).delay = 0 ∧
      ({ dataPk 64 with delay := 1 } : Packet).delay ≠ 0) ∧
    (let s := (arr slRun).setRaw 0x1000000000000 1;
      s.basinBit 1 (TDesc.ofWords (wordsOf s)).bitmap 0 = true ∧ (TDesc.ofWords (wordsOf s)).dupc = false) ∧
    (∃ d ∈ [(⟨2, dataPk 64, 0, wordsOf (arr slRun), 5⟩ : Claim)], SameChunk d.packet (dataPk 64)) ∧
    (let s := arrSum id;
      let st := Stage.add ⟨0, [], []⟩ 0 sumPk.payload;
      Accepted s 2 sumPk assoc0 ∧ sumPk.op ≠ 0 ∧ st.bits.length = (TDesc.ofWords (wordsOf s)).ncontrib ∧
        isDone (s.chunkPlace 1 (TDesc.ofWords (wordsOf s)) 0) ∧ s.completionHeld 1 4095 0 false st = false) ∧
    (let s := (arrSum (fun c => { c with finished := [(4095 * 2 ^ 28, true)] })).setRaw 0x1000000000000 1;
      s.basinBit 1 (TDesc.ofWords (wordsOf s)).bitmap 0 = true ∧ ((s.ctxAt 1).finished.at? (4095 * 2 ^ 28)).isSome = true) ∧
    (let s := arrSum (fun c => { c with stage := [(4095 * 2 ^ 28 + 1, ⟨0, [], []⟩)] });
      ((s.ctxAt 1).stage.at? (4095 * 2 ^ 28 + 1)).isSome = true ∧ (4095 * 2 ^ 28 + 1) / 2 ^ 28 = 4095 ∧
        (s.ctxAt 1).stage.at? (4095 * 2 ^ 28) = none ∧ (TDesc.ofWords (wordsOf s)).win ≤ [4095 * 2 ^ 28 + 1].length) ∧
    -- a write in one block, across two, and one refused
    (isDone ((arr slRun).placement 1 false 2 0x2FC0 64) ∧ isDone ((arr slRun).placement 1 false 3 0x2FC1 64) ∧ 4096 < 0x2FC1 % 4096 + 64 ∧
      ¬ isDone ((arr slRun).placement 1 false 2 0x1000 64)) ∧
    -- a packet that waited
    (let s := (arr slRun).setCtx 1 { (arr slRun).ctxAt 1 with waiting := [(2, dataPk 64, wordsOf (arr slRun))] };
      (s.ctxAt 1).waiting[0]? = some (2, dataPk 64, wordsOf (arr slRun)) ∧ (s.ctxAt 1).claims = [] ∧
        ∀ i, i < 4 → (dataPk 64).coords.getD i 0 < (TDesc.ofWords (wordsOf (arr slRun))).ext.getD i 0) := by
  refine ⟨by decide +kernel, by decide +kernel, codes ?_ ?_ ?_ ?_, by decide +kernel, ⟨by decide +kernel, ?_, ?_⟩,
    acks_of (a := assoc0) (by decide +kernel) (by decide), by decide +kernel, by decide +kernel,
    ⟨_, List.mem_singleton.mpr rfl, rfl, rfl, rfl, .inl (by decide +kernel)⟩, by decide +kernel, by decide +kernel, by decide +kernel, by decide +kernel,
    by decide +kernel⟩
  · simp only [Wrong]
    decide +kernel
  · simp only [Wrong]
    decide +kernel
  · simp only [Wrong]
    decide +kernel
  · simp only [Wrong]
    decide +kernel
  · simp only [Wrong]
    decide +kernel
  · intro b l u
    obtain rfl | rfl : b = 1 ∨ b = 2 := by omega
    · simp only [Wrong]
      decide +kernel
    · simp only [Wrong]
      decide +kernel

theorem witness_ArrivalEvents :
    (∀ op ∈ [3, 4, 5, 6, 7, 8, 9, 10, 11], Accepted (arr slRun) 2 (packet op [] []) assoc0 ∧ (packet op [] []).op = op ∧
      Serves (arr slRun) 2 (packet op [] []).context) ∧
    (Free (arr slRun) 2 ∧ ¬ Free (arr { slRun with pending := [(258, [])] }) 2 ∧
      ¬ Serves (arr slRun) 5 1) ∧
    (Accepted (arr slRun) 2 (packet 9 [(0x1C, 4, 5)] []) assoc0 ∧ gap (packet 9 [(0x1C, 4, 5)] []).arg ((arr slRun).portAt 2).base = 0 ∧
      ((arr slRun).portAt 2).holders[0]? = some ⟨conn0, false⟩ ∧ gap (packet 9 [(0x1C, 4, 6)] []).arg ((arr slRun).portAt 2).base = 1) ∧
    (Accepted (arr slRun) 2 (packet 10 [(0x18, 2, 4095)] []) assoc0 ∧ ((arr slRun).slAt 0).evq.length < 256 ∧
      (packet 10 [(0x18, 2, 4095)] []).handle = 4095 ∧
      (∃ t, Running (arr slRun) 0 4095 t) ∧ ((arr slRun).slAt 0).transfers.at? 4094 = none) ∧
    ((arr slRun).portAt 2).conns.at? 4095 = some conn0 ∧ ((arr slRun).portAt 2).conns.at? 4094 = none ∧
    gap 255 0 < 256 ∧ 256 ≤ gap 256 0 ∧ ArrivesBy 2 (packet 9 [] []) (.weirDoneReceived 2 (packet 9 [] [])) :=
  ⟨by decide +kernel, by decide +kernel, by decide +kernel,
    ⟨by decide +kernel, by decide +kernel, by decide +kernel, ⟨_, rfl, rfl⟩, by decide +kernel⟩, by decide +kernel, by decide +kernel, by decide +kernel,
    by decide +kernel, rfl⟩

/-- What a control packet takes from a bucket, whatever the overhead of its frame. -/
theorem takes_le (n : Nat) : takes n ≤ 276 + n := by
  unfold takes
  have h := Nat.min_le_left 224 Config.frameOverhead
  omega

/-- Collectives of one point: one whose walker is past it, and one that is to emit it. -/
def ended : Coll := ⟨collRecord 0, 1, 2 ^ 20, 2, 2, 0, false, some 63, 0, 0, 0⟩
def walking : Coll := ⟨collRecord 0, 1, 0, 0, 0, 1, false, none, 0, 0, 0⟩

/-- The transfer of `slRun`, and it with its chunk acknowledged. -/
def sent1 : Transfer := ⟨cells 48 [(8, 8, 64), (0x1E, 2, 64), (0x24, 4, 1)], 511, 1, [(0, ⟨some 0, 5, false, false⟩)], none, none, 0, 0⟩

theorem witness_Sending :
    (let x := (arr slRun).slAt 0;
      portOf x 511 = 2 ∧ (pacing x 511).queue = .control [] :: [] ∧ x.bound = true ∧ ((arr slRun).portAt 2).up = true ∧
        2 ∉ (arr slRun).fencedPorts ∧ nextPath (flowWord x 511 1) (pacing x 511).last = some 0) ∧
    HasTurn (arr slRun) 2 511 ∧ ¬ HasTurn (arr slRun) 2 510 ∧
    (arr slRun).packetOf ((arr slRun).slAt 0) 511 (.control []) = .ok (some ([], [])) ∧
    (∃ t, Transmitted (arr slRun) t 0 2 (saOf ((arr slRun).slAt 0) 511) 0 (fun c => .ack 2 2 0 0 c 0 0)) ∧
    -- a chunk, one acknowledged, and one whose source fails
    (((arr slRun).slAt 0).transfers.at? 4095 = some sent1 ∧ sent1.state = 1 ∧ (sent1.chunk 0).acked = false ∧
      ¬ isDone ((arr slRun).packetOf ((arr slRun).slAt 0) 511 (.chunk 4095 0 false))) ∧
    -- paths and counters at their ends
    ((BitVec.twoPow 64 63 : Word).getLsbD ((62 + 1 + 0) % 64) = true ∧ (2 ^ 64 - 2 ^ 32 - 1) + 1 = 2 ^ 64 - 2 ^ 32) := by
  have hq : ∀ i, i < 511 → flowSends ((arr slRun).slAt (2 / 3)) ((((arr slRun).portAt 2).turn + 1 + i) % 512) = false := by decide +kernel
  refine ⟨by decide +kernel, ⟨511, by decide, by decide +kernel, ⟨by decide +kernel, by decide +kernel, by decide +kernel, _, _,
    (by decide +kernel : _ = OutPkt.control [] :: []), ?_⟩, ?_⟩, ?_, rfl, ⟨_, assoc0, by decide +kernel, by decide, rfl⟩, by decide +kernel,
    by decide +kernel⟩
  · exact Nat.le_trans (Nat.mul_le_mul_left 176 (takes_le 0)) (by decide +kernel)
  · intro i hi h
    exact absurd (h.2.1.symm.trans (hq i hi)) Bool.noConfusion
  · rintro ⟨j, -, -, h, -⟩
    exact absurd h.2.1 (by decide +kernel)

theorem witness_TransferEvents :
    -- acknowledgements: the last chunk, and one of two
    (sent1.state = 1 ∧ 0 < sent1.n ∧ (sent1.chunk 0).sent ≠ none ∧ (sent1.chunk 0).acked = false ∧ portOf ((arr slRun).slAt 0) sent1.flow = 2 % 3 ∧
      (∀ j, j < sent1.n → j = 0 ∨ (sent1.chunk j).acked = true) ∧ Free (arr slRun) 2) ∧
    (let t : Transfer := ⟨cells 48 [(8, 8, 128), (0x1E, 2, 64), (0x24, 4, 2)], 511, 1, [(0, ⟨some 0, 5, false, false⟩)], none, none, 0, 0⟩;
      ¬ ∀ j, j < t.n → j = 0 ∨ (t.chunk j).acked = true) ∧
    (bitByte (arr slRun) 0 (0x01FFFF0040000FFF + 7 / 8)).isSome = true ∧
    -- ends, timeouts, timers, connections, links, a handler that overruns
    (((arr slRun).slAt 0).transfers.at? 4095 = some sent1 ∧ sent1.coll = none) ∧
    (let s := { arr slRun with ticks := 100 };
      0 < (sent1.chunk 0).rto ∧ (sent1.chunk 0).rto < s.slTicks - 0 ∧ Free s 2) ∧
    (let x := { slRun with timers := [(255, 0, 9)], pending := [(4, [1, 2, 3, 4])] };
      x.timers.at? 255 = some (0, 9) ∧ x.pending.at? 255 = none ∧ x.evq.length < 256 ∧ x.pending = (4, [1, 2, 3, 4]) :: []) ∧
    (((arr slRun).portAt 2).conns.at? 4095 = some conn0 ∧ 2 ^ 24 ≤ ({ arr slRun with ticks := 2 ^ 26 }).slTicks - conn0.last) ∧
    ((arr slRun).portAt 47).up ≠ false ∧
    (let x := { slRun with sstatus := 1, trapCycles := 165000 };
      x.trapMode = true ∧ x.running = true ∧ 165000 ≤ x.trapCycles) ∧
    (∃ q ∈ ([[6 + 511 * 2 ^ 16, 1, 1, 0]] : List (List Word)), evType q = evType [6 + 511 * 2 ^ 16, 1, 2, 0] ∧
      evType [6 + 511 * 2 ^ 16, 1, 2, 0] = 6 ∧ evA q = evA [6 + 511 * 2 ^ 16, 1, 2, 0]) ∧
    (evType [2 + 4095 * 2 ^ 16, 1, 0, 0] = 2 ∧ evA [2 + 4095 * 2 ^ 16, 1, 0, 0] = 4095) ∧
    -- reductions
    (let s := (tnsState 1 0 0 0).setCtx 1 { (tnsState 1 0 0 0).ctxAt 1 with
        tns := ((tnsState 1 0 0 0).ctxAt 1).tns.put (8 * 4095 + 7) (BitVec.ofNat 64 (2 ^ 40 - 1)) 0,
        stage := [(4095 * 2 ^ 28, ⟨2 ^ 40, [0], [(0, [1])]⟩)] };
      (s.ctxAt 1).stage.at? (4095 * 2 ^ 28 + 0) = some ⟨2 ^ 40, [0], [(0, [1])]⟩ ∧ 0 < ((s.ctxAt 1).tdesc 4095).dline ∧
        ((s.ctxAt 1).tdesc 4095).dline ≤ 2 ^ 40 ∧ s.completionHeld 1 4095 0 true ⟨2 ^ 40, [0], [(0, [1])]⟩ = false ∧
        isDone (s.chunkPlace 1 ((s.ctxAt 1).tdesc 4095) 0) ∧
        s.inBasin 1 (((s.ctxAt 1).tdesc 4095).cmap + 0 * ((s.ctxAt 1).tdesc 4095).recLen) ((s.ctxAt 1).tdesc 4095).recLen = true) ∧
    (0x01FFFF0040000FFF - 0x01FFFF0040000000) % 2 ^ 27 < ((arr slRun).ctxAt 1).grantSize 0 ∧
    ((fun (j : Nat) => if j = 0 then some [5] else none) 0 = some [5] ∧ (fun (j : Nat) => if j = 0 then some [5] else none) 1 = none) ∧
    ([(0, 1), (1, 2)] : List (Nat × Nat)).Pairwise (fun p q => p.1 < q.1) ∧
    -- walkers
    (walking.walked < cPoints walking.record ∧ 0 < walking.budget ∧ NextHandle ((arr slRun).slAt (cPort walking.record / 3)) 0 ∧
      (collRecord 0).length = 128) ∧
    (gated.gate = some (4095, 0) ∧ gated.state = 1 ∧ 0 < gated.n ∧ (gated.chunk 0).gated = true ∧
      (((arr slRun).ctxAt 1).tdesc 4095).v = true ∧ (0 : Int) + ((0 : Nat) : Int) < (((arr slRun).ctxAt 1).tdesc 4095).n ∧
      ((arr slRun).setRaw 0x1000000000000 1).basinBit 1 (((arr slRun).ctxAt 1).tdesc 4095).bitmap (0 + 0) = true) ∧
    (cPoints ended.record ≤ ended.walked ∧ ended.emitted ≤ ended.completed ∧ ended.state = 1 ∧ ended.range = some 63 ∧
      slRun.pending.at? 259 = none) := by
  refine ⟨by decide +kernel, by decide +kernel, by decide +kernel, by decide +kernel, by decide +kernel, by decide +kernel, by decide +kernel,
    by decide +kernel, by decide +kernel, by decide +kernel, by decide +kernel, by decide +kernel, by decide +kernel, by decide +kernel,
    by decide +kernel, ⟨by decide +kernel, by decide +kernel, ?_, by decide +kernel⟩, by decide +kernel, by decide +kernel⟩
  exact ⟨0, by decide +kernel, by decide +kernel, by decide +kernel, fun i h => absurd h (Nat.not_lt_zero i)⟩

/-! ## Witnesses: issue, steps and bundles -/

/-- The AP of `l0` owes a status to g23, and its queues are empty. -/
def lo : LCore := { l0 with ceFifo := [cpC 1] }

theorem witness_IssueConditions :
    ((apOf l0).issue apW (anywhere r0 false [24, 0] [1]) = .illegal ∧ MayTrap (apOf l0) apW ∧ (Instr.add r0 false 1 24 0).wf = true ∧
      (apOf l0).issue apW (anywhere r0 false [30, 0] [1]) = .stall (.queueEmpty 6 1)) ∧
    ((apOf l0).issue apW (anywhere r0 false [24] []) = .illegal ∧ (Instr.beqz r0 false 24 2047).wf = true ∧
      (apOf l0).issue apW (anywhere r0 false [31] []) = .stall (.queueEmpty 7 1)) ∧
    ((apOf l0).issue apW (apAndSluice r0 [29] [1]) = .illegal ∧ (Instr.ldW r0 1 29 127).wf = true ∧
      (∃ x, (apOf lo).issue apW (apAndSluice r0 [1] [23]) = .stall x)) ∧
    ((apOf l0).issue apW (apOnly r0 [24] []) = .illegal ∧ (Instr.cqPut r0 24).wf = true ∧
      (apOf l0).issue apW (apOnly r0 [30] []) = .stall (.queueEmpty 6 1)) ∧
    ((apOf l0).issue apW (apAndEp r0 true [] []) = .illegal ∧ (Instr.ctxYield r0 true).wf = true ∧
      (∃ x, (apOf l0).issue apW (apAndEp ⟨true, false, false, false⟩ false [] []) = .stall x)) ∧
    ((at_ (.ap 0) (duo p0)).who = some apW ∧ (at_ (.ap 0) (duo p0)).issue apW (apAndEp r0 false [] []) = .go ∧
      (at_ (.ep 0) (duo p0)).cur.left = 0) ∧
    ((apOf l0).who = some apW ∧ (slOf sl0).who = some slW ∧ SluiceHasHandler (slOf sl0) 0) ∧
    ((epOf l0).who = some epW ∧ HasHandler (epOf l0) 0 ∧ (epOf l0).cur.bundle = false ∧
      (∃ y, (epOf l0).fetchCore 0 ((epOf l0).cur.pc + BitVec.ofNat 64 (4 * 3)) = .ok y)) ∧
    ({ epOf l0 with cur := { (epOf l0).cur with bundle := true } } : State).cur.bundle = true :=
  ⟨by decide +kernel, by decide +kernel, ⟨by decide +kernel, by decide +kernel, .token, by decide +kernel⟩, by decide +kernel,
    ⟨by decide +kernel, by decide +kernel, .rillPrev, by decide +kernel⟩, by decide +kernel, by decide +kernel,
    ⟨by decide +kernel, by decide +kernel, by decide +kernel, isOk_spec (by decide +kernel)⟩, by decide +kernel⟩

/-- It is the turn of agent `a`, whose words at 0x1000 are `ws`. -/
def turnOf (a : Agent) (l : LCore) (ws : List Nat) : State :=
  { (dev l).setRaws 0x42000 (ws.flatMap (bytesOf 4)) with agenda := [.run a] }

theorem turnOf_turn (a : Agent) (l : LCore) (ws : List Nat) :
    TurnOf (turnOf a l ws) { turnOf a l ws with agenda := [] } (.run a) := .inl ⟨[], rfl, rfl⟩

/-- The bytes `bs` are fetched at `pc` by the stream `w` of a logical core of key 0. -/
def fetched (s : State) (pc : Word) (bs : List Byte) : Bool :=
  okAnd (s.runs (s.lcAt 0).ctx 0 .fetch 2 pc.toNat 4) (fun rs => decide (bs = s.runsBytes rs ∧ bs.length = 4))

theorem fetches_core {s : State} {ep : Bool} {c : Nat} {pc : Word} {bs : List Byte} (h : fetched s pc bs = true) :
    ∃ s1, FetchesBytes s (.core ep c 0) pc bs s1 := by
  obtain ⟨rs, h, hb⟩ := okAnd_spec h
  have hb := of_decide_eq_true hb
  exact ⟨_, hb.2, rs, h, hb.1, rfl⟩

/-- The machine `turnOf a l ws` with the turn taken and the cursor on the first word. -/
def due (a : Agent) (l : LCore) (ws : List Nat) : State :=
  { turnOf a l ws with agenda := [], cur := cursorOn a 0x1000 1 false }

theorem due_two {l : LCore} {ws : List Nat} {bs cs : List Byte}
    (h : okAnd ((due (.ap 0) l ws).runs ((due (.ap 0) l ws).lcAt 0).ctx 0 .fetch 2 0x1000 4) (fun rs =>
      decide (bs = (due (.ap 0) l ws).runsBytes rs ∧ bs.length = 4) &&
        fetched ((due (.ap 0) l ws).readMarks ((due (.ap 0) l ws).lcAt 0).ctx rs) (0x1000 + 4) cs) = true) :
    ∃ s1 s2, FetchesBytes (due (.ap 0) l ws) apW 0x1000 bs s1 ∧ FetchesBytes s1 apW (0x1000 + 4) cs s2 := by
  obtain ⟨rs, h, hb⟩ := okAnd_spec h
  have hb := (Bool.and_eq_true _ _).mp hb
  have hd := of_decide_eq_true hb.1
  obtain ⟨s2, h2⟩ := fetches_core (ep := false) (c := 0) hb.2
  exact ⟨_, s2, ⟨hd.2, rs, h, hd.1, rfl⟩, h2⟩

/-- `addi g2, g2, -1`, alone and with E; `li g7` with its literal; words of no instruction, of one and of two words. -/
theorem witness_StepRunsDecoded :
    (∀ w ∈ [0x004217FF, 0], ({ turnOf (.ap 0) l0 [w] with agenda := [] } : State).streamOf (.ap 0) = some (apW, 0x1000)) ∧
    (∃ s1, FetchesBytes (due (.ap 0) l0 [0x004217FF]) apW 0x1000 (bytesOf 4 0x004217FF) s1) ∧
    decode false (bytesOf 4 0x004217FF) = .ok (.addi r0 false 2 2 0x7FF, []) ∧
    (∃ s1 s2, FetchesBytes (due (.ap 0) l0 [0x09070000, 5]) apW 0x1000 (bytesOf 4 0x09070000) s1 ∧
      FetchesBytes s1 apW (0x1000 + 4) (bytesOf 4 5) s2) ∧
    decode false (bytesOf 4 0x09070000 ++ bytesOf 4 5) = .ok (.liLiteral r0 7 5, []) ∧
    (∃ s1, FetchesBytes (due (.ap 0) l0 [0]) apW 0x1000 (bytesOf 4 0) s1) ∧
    decode false (bytesOf 4 0) = .error .reservedMajor ∧
    (∃ s1 s2, FetchesBytes (due (.ap 0) l0 [0x085FFFFF, 5]) apW 0x1000 (bytesOf 4 0x085FFFFF) s1 ∧
      FetchesBytes s1 apW (0x1000 + 4) (bytesOf 4 5) s2) ∧
    decode false (bytesOf 4 0x085FFFFF) = .error .truncated ∧
    decode false (bytesOf 4 0x085FFFFF ++ bytesOf 4 5) = .error .unassigned ∧
    (∃ s1, FetchesBytes (due (.ep 0) l0 [0x084217FF]) epW 0x1000 (bytesOf 4 0x084217FF) s1) ∧
    ({ turnOf (.ep 0) l0 [0x084217FF] with agenda := [] } : State).streamOf (.ep 0) = some (epW, 0x1000) ∧
    decode true (bytesOf 4 0x084217FF) = .ok (.addi r0 true 2 2 0x7FF, []) ∧
    ((ofBytes (bytesOf 4 0x084217FF)).testBit 27 = true ∧ ¬ TwiceNamed (Instr.addi r0 true 2 2 0x7FF).regs.1 ∧
      ¬ TwiceNamed (Instr.addi r0 true 2 2 0x7FF).regs.2) ∧
    (∃ s1, FetchesBytes (due (.ep 0) l0 [0x08000000]) epW 0x1000 (bytesOf 4 0x08000000) s1) ∧
    decode true (bytesOf 4 0x08000000) = .error .reservedMajor ∧
    ({ turnOf (.ap 5) l0 [] with agenda := [] } : State).streamOf (.ap 5) = none ∧
    (Instr.coreCycle.hasWord = false ∧ ∀ c, Instr.coreCycle ≠ .vectorBeat c) :=
  ⟨by decide +kernel, fetches_core (by decide +kernel), rfl, due_two (by decide +kernel), rfl, fetches_core (by decide +kernel), rfl,
    due_two (by decide +kernel), rfl, rfl, fetches_core (by decide +kernel), by decide +kernel, rfl, by decide +kernel,
    fetches_core (by decide +kernel), rfl, by decide +kernel, by decide +kernel, fun c h => by cases h⟩

/-- The state in which the bundle `ws` of the EP reads. -/
def bundleIn (l : LCore) (ws : List Nat) : State :=
  match (due (.ep 0) l ws).fetchBundle 0 0x1000 4 with
  | .ok (_, s1) => { s1 with cur := cursorOn (.ep 0) 0x1000 ws.length (hasVector ws) }
  | _ => due (.ep 0) l ws

theorem bundleDue {l : LCore} {ws : List Nat}
    (hs : ({ turnOf (.ep 0) l ws with agenda := [] } : State).streamOf (.ep 0) = some (epW, 0x1000))
    (h : okAnd ((due (.ep 0) l ws).fetchBundle 0 0x1000 4) (fun y => decide (y.1 = ws)) = true) :
    BundleDue (turnOf (.ep 0) l ws) (bundleIn l ws) 0 0 0x1000 ws := by
  obtain ⟨⟨vs, s1⟩, h, hw⟩ := okAnd_spec h
  have hw : vs = ws := of_decide_eq_true hw
  subst hw
  refine ⟨_, s1, turnOf_turn _ _ _, hs, h, ?_⟩
  unfold bundleIn
  rw [h]

/-- Syllable `x`, tried alone, ends with the verdict `v`. -/
def triedB (s : State) (x : Syl) (v : Verdict) : Bool :=
  match exec x.instr { s with cur := { s.cur with syl := x.i, left := 1 } } with
  | .next t => decide (t.cur.verdict = v)
  | _ => false

theorem tried_of {s : State} {x : Syl} {v : Verdict} (h : triedB s x v = true) : ∃ u, Tried s x u ∧ u.cur.verdict = v := by
  unfold triedB at h
  split at h
  · next t ht => exact ⟨t, ht, of_decide_eq_true h⟩
  · cases h

/-- The syllables run one after another. -/
def chainB : List Syl → State → Bool
  | [], _ => true
  | x :: xs, s =>
    match exec x.instr { s with cur := { s.cur with syl := x.i, left := xs.length } } with
    | .next s1 => chainB xs s1
    | _ => false

theorem chain_of {xs : List Syl} {s : State} (h : chainB xs s = true) : ∃ t, Chain xs s t := by
  induction xs generalizing s with
  | nil => exact ⟨s, rfl⟩
  | cons x xs ih =>
    unfold chainB at h
    split at h
    · next s1 h1 =>
      obtain ⟨t, ht⟩ := ih h
      exact ⟨t, s1, h1, ht⟩
    · cases h

/-- `vadd d3, d1, d2` beside `add g5, g1, g2`, beside `add g5, g24, g2`, which waits for its queue, and beside `add g5, g30, g2`, which
names a queue that the EP may not read. -/
def vWord : Nat := (encodeWords (.vadd r0 false 0 3 1 2 1)).headD 0
def addWord (a : Nat) : Nat := (encodeWords (.add r0 true 5 a 2)).headD 0

theorem witness_BundlesRun :
    BundleDue (turnOf (.ep 0) (lv f32s) [vWord, addWord 1]) (bundleIn (lv f32s) [vWord, addWord 1]) 0 0 0x1000 [vWord, addWord 1] ∧
    (bundleFault [vWord, addWord 1] = none ∧
      ∀ x ∈ sylsOf [vWord, addWord 1], triedB (bundleIn (lv f32s) [vWord, addWord 1]) x .done = true) ∧
    (∀ x ∈ sylsOf [vWord, addWord 1], ∃ u, Tried (bundleIn (lv f32s) [vWord, addWord 1]) x u ∧ u.cur.verdict = .done) ∧
    (∃ t, Chain (inOrder (sylsOf [vWord, addWord 1])) (bundleIn (lv f32s) [vWord, addWord 1]) t) ∧
    BundleDue (turnOf (.ep 0) (lv f32s) [vWord, addWord 24]) (bundleIn (lv f32s) [vWord, addWord 24]) 0 0 0x1000 [vWord, addWord 24] ∧
    (bundleFault [vWord, addWord 24] = none ∧
      ∃ x ∈ sylsOf [vWord, addWord 24], triedB (bundleIn (lv f32s) [vWord, addWord 24]) x .stalled = true) ∧
    BundleDue (turnOf (.ep 0) (lv f32s) [vWord, addWord 30]) (bundleIn (lv f32s) [vWord, addWord 30]) 0 0 0x1000 [vWord, addWord 30] ∧
    (bundleFault [vWord, addWord 30] = none ∧
      ∃ x ∈ sylsOf [vWord, addWord 30], unitOf x.word = 1 ∧ triedB (bundleIn (lv f32s) [vWord, addWord 30]) x .trapped = true) ∧
    BundleDue (turnOf (.ep 0) l0 [addWord 1 - 2 ^ 27, addWord 1]) (bundleIn l0 [addWord 1 - 2 ^ 27, addWord 1]) 0 0 0x1000
      [addWord 1 - 2 ^ 27, addWord 1] ∧
    bundleFault [addWord 1 - 2 ^ 27, addWord 1] ≠ none := by
  have h : ∀ x ∈ sylsOf [vWord, addWord 1], triedB (bundleIn (lv f32s) [vWord, addWord 1]) x .done = true := by decide +kernel
  exact ⟨bundleDue (by decide +kernel) (by decide +kernel), ⟨by decide +kernel, h⟩, fun x hx => tried_of (h x hx),
    chain_of (by decide +kernel), bundleDue (by decide +kernel) (by decide +kernel), by decide +kernel,
    bundleDue (by decide +kernel) (by decide +kernel), by decide +kernel, bundleDue (by decide +kernel) (by decide +kernel), by decide +kernel⟩

theorem witness_RoundTrip :
    ((Instr.add ⟨true, true, true, true⟩ true 31 31 31).wf = true ∧ (Instr.add ⟨true, true, true, true⟩ true 31 31 31).hasWord = true ∧
      (Instr.add ⟨true, true, true, true⟩ true 31 31 31).isLiteral = false) ∧
    ((Instr.liLiteral r0 31 4294967295).wf = true ∧ (Instr.liLiteral r0 31 4294967295).hasWord = true ∧
      (Instr.liLiteral r0 31 4294967295).endsBundle = false) := by decide +kernel

theorem witness_WordsReadBack : (0x870531C0 : Nat) < 4294967296 ∧ decodeWord 0x870531C0 = .ok (.seqRetire ⟨true, false, false, false⟩ 5 6 7) :=
  ⟨by decide, rfl⟩

def nextOk {σ φ ρ : Type} (x : Host.Outcome σ φ ρ) : Bool :=
  match x with
  | .next _ => true
  | _ => false

theorem nextOk_spec {σ φ ρ : Type} {x : Host.Outcome σ φ ρ} (h : nextOk x = true) : ∃ t, x = .next t := by
  cases x with
  | next t => exact ⟨t, rfl⟩
  | fault r => cases h
  | refused r => cases h

theorem witness_MemoryCanonical : MemoryOk (State.reset.withFetchWord 32 0x004217FF) ∧
    ∃ t, step (State.reset.withFetchWord 32 0x004217FF) = .next t :=
  ⟨by unfold MemoryOk; decide +kernel, nextOk_spec (by decide +kernel)⟩

/-! ## Encodings: words written out from the spec's encodings and worked examples -/

/-- 04_scalar.md, 02_encoding.md R27 to R31. -/
theorem test_decode_scalar :
    decodes 0x004217FF (.addi r0 false 2 2 2047) = true ∧ decodes 0x01461B3F (.ldD r0 6 3 63) = true ∧
    decodes 0x096807FD (.bcq r0 true 2045) = true ∧ decodes 0x09690005 (.bncq r0 true 5) = true ∧
    decodes 0x099FFFFC (.j r0 true 2097148) = true ∧ decodes 0x01E30010 (.mfsr r0 false 3 16) = true ∧
    decodes 0x09C42001 (.loopi r0 true 0 4 1) = true ∧ decodes 0x0A000004 (.halt r0 true) = true ∧
    decodes 0x03005000 (.cqPut r0 10) = true := by decide +kernel

/-- 07_traps.md R143 to R149. -/
theorem test_decode_traps :
    decodes 0x02000140 (.trap r0 false 5) = true ∧ decodes 0x02000001 (.brk r0 false) = true ∧ decodes 0x02000002 .rett = true ∧
    decodes 0x02002803 (.escal 5) = true ∧ decodes 0x02000005 (.asstDone 0) = true ∧ decodes 0x02032006 (.bankRd 3 4) = true ∧
    decodes 0x02001907 (.bankWr 3 4) = true ∧ decodes 0x02020008 (.cyc r0 false 2) = true ∧
    decodes 0x02400000 (.ctxYield r0 false) = true ∧ decodes 0x02402001 (.dlogArm r0 4) = true := by decide +kernel

/-- 12_vector_memory.md and 13_streams.md: synchronisation, atomics, the copy and gather engines. -/
theorem test_decode_streams :
    decodes 0x02202000 (.acq r0 false 4) = true ∧ decodes 0x02202001 (.rel r0 false 4) = true ∧
    decodes 0x02202142 (.acqGen r0 false 4 5) = true ∧ decodes 0x02200083 (.fence r0 false 2) = true ∧
    decodes 0x02262004 (.soGen r0 false 6 4) = true ∧ decodes 0x00E32140 (.amoAdd r0 3 4 5 0) = true ∧
    decodes 0x03462280 (.cp r0 6 4 10) = true ∧ decodes 0x03462281 (.cpFo r0 6 4 10) = true ∧
    decodes 0x03434302 (.cp2d r0 3 8 12) = true ∧ decodes 0x03653200 (.geGather r0 5 6 8) = true ∧
    decodes 0x032411C2 (.ringClaim r0 4 2 7) = true ∧ decodes 0x03091002 (.engSt r0 9 2) = true := by decide +kernel

/-- 10_vector.md to 12_vector_memory.md. -/
theorem test_decode_vector :
    decodes 0x1C024601 (.vadd ⟨false, false, false, true⟩ true 0 1 2 3 1) = true ∧ decodes 0x0C042601 (.vadd r0 true 0 2 1 3 1) = true ∧
    decodes 0x1D062479 (.vstop ⟨false, false, false, true⟩ true 3 1 2) = true ∧ decodes 0x0C08AC31 (.vmac r0 true 0 4 5 6 1) = true ∧
    decodes 0x0C244081 (.vexp2 r0 true 1 2 2 1) = true ∧ decodes 0x0C02E112 (.vsum r0 true 0 1 7 2) = true ∧
    decodes 0x0CA67811 (.vmuls r0 true 3 3 24 1) = true ∧ decodes 0x0CC73F80 (.vsetf r0 true 3 0x3F80) = true ∧
    decodes 0x0D0A2409 (.vperm r0 true 5 1 2 9) = true ∧ decodes 0x0D08AC51 (.vcolsel r0 true 4 5 6 1) = true ∧
    decodes 0x0D0E4280 (.vmovDescriptor r0 true 7 2) = true ∧ decodes 0x0D446531 (.vamoComb r0 true 2 3 5) = true ∧
    decodes 0x0C84A083 (.vcvt r0 true 2 5 0 4 1 1) = true := by decide +kernel

/-- 05_matrix.md and 06_rotator.md. -/
theorem test_decode_engines :
    decodes 0x0E021020 (.mxMacz r0 true 0 2 0 1) = true ∧ decodes 0x0E080200 (.mxSt r0 true 0 2) = true ∧
    decodes 0x0E8C2280 (.rtAngB16 r0 true 4 5) = true ∧ decodes 0x0E869190 (.rtQr r0 true 1 2 3 1) = true ∧
    decodes 0x16920000 (.rtGz ⟨false, false, false, true⟩ false) = true ∧ decodes 0x0E800000 (.rtClr r0 true) = true := by decide +kernel

/-- 15_sluice.md to 19_counters.md. -/
theorem test_decode_distributor :
    decodes 0x070531C0 (.seqRetire r0 5 6 7) = true ∧ decodes 0x870531C0 (.seqRetire ⟨true, false, false, false⟩ 5 6 7) = true ∧
    decodes 0x072531C0 (.tnsSet r0 5 6 7) = true ∧ decodes 0x074531C0 (.sigAdd r0 false 5 6 7) = true ∧
    decodes 0x074501C3 (.flagAdd r0 false 5 0 7) = true ∧ decodes 0x07453006 (.ctrRd r0 false 5 6) = true ∧
    decodes 0x07284803 (.collStart r0 8 9) = true ∧ decodes 0x07032145 (.distHint r0 3 4 5) = true ∧
    decodes 0x07853000 (.evPop 5 6) = true ∧ decodes 0x07893204 (.chkReq 9 6 8) = true ∧ decodes 0x078952C3 (.pktResend 9 10 11) = true ∧
    decodes 0x078952C6 (.collStep 9 10 11) = true ∧ decodes 0x07C96340 (.rateSet 9 12 13) = true := by decide +kernel

/-- Words that no instruction has: a reserved major, an unassigned function, a word of zeros (02_encoding.md R27, R46). -/
theorem test_decode_refuses : decodeWord 0 = .error .reservedMajor ∧
    decode false (bytesOf 4 0x085FFFFF ++ bytesOf 4 5) = .error .unassigned ∧ decode false (bytesOf 3 0x004217FF) = .error .truncated :=
  ⟨rfl, rfl, rfl⟩

/-! ## Well-formedness: one term for each check, which the check refuses -/

theorem test_wf_refuses_registers :
    (Instr.add r0 false 32 0 0).wf = false ∧ (Instr.add r0 false 0 32 0).wf = false ∧ (Instr.add r0 false 0 0 32).wf = false ∧
    (Instr.seqRetire r0 32 0 0).wf = false ∧ (Instr.cqPut r0 32).wf = false ∧ (Instr.amoAdd r0 0 0 0 4).wf = false := by decide +kernel

theorem test_wf_refuses_immediates :
    (Instr.addi r0 false 0 0 2048).wf = false ∧ (Instr.li r0 false 0 65536).wf = false ∧ (Instr.slli r0 false 0 0 64).wf = false ∧
    (Instr.ldD r0 0 0 128).wf = false ∧ (Instr.beqz r0 false 0 2048).wf = false ∧ (Instr.j r0 false 2097152).wf = false ∧
    (Instr.mfsr r0 false 0 512).wf = false ∧ (Instr.loopi r0 false 4 0 0).wf = false ∧ (Instr.loopi r0 false 0 128 0).wf = false ∧
    (Instr.loopi r0 false 0 0 2048).wf = false ∧ (Instr.trap r0 false 32).wf = false ∧
    (Instr.liLiteral r0 0 4294967296).wf = false ∧ (Instr.addiLiteral r0 0 0 4294967296).wf = false := by decide +kernel

theorem test_wf_refuses_vector :
    (Instr.vadd r0 true 4 0 0 0 0).wf = false ∧ (Instr.vadd r0 true 0 16 0 0 0).wf = false ∧ (Instr.vadd r0 true 0 0 16 0 0).wf = false ∧
    (Instr.vadd r0 true 0 0 0 16 0).wf = false ∧ (Instr.vadd r0 true 0 0 0 0 16).wf = false ∧ (Instr.vmuls r0 true 0 0 32 0).wf = false ∧
    (Instr.vseti r0 true 0 65536).wf = false ∧ (Instr.vcvt r0 true 0 0 0 0 0 2).wf = false := by decide +kernel

theorem test_wf_refuses_engines :
    (Instr.mxMac r0 true 4 0 0 0).wf = false ∧ (Instr.mxMac r0 true 0 16 0 0).wf = false ∧ (Instr.mxMac r0 true 0 0 8 0).wf = false ∧
    (Instr.mxAdd r0 true 0 8).wf = false ∧ (Instr.rtQr r0 true 4 0 0 0).wf = false ∧ (Instr.rtQr r0 true 0 16 0 0).wf = false ∧
    (Instr.rtQr r0 true 0 0 0 8).wf = false := by decide +kernel

/-! ## Worked examples of the spec -/

/-- 09_numbers.md, Example 1. -/
theorem test_constants :
    immFloat 4 0x43A0 = 0x7A ∧ immFloat 11 0x43A0 = 127 ∧ immFloat 4 0x7F80 = 0x7E ∧ immInt 14 0xFFFD = 0xFD ∧
    immInt 5 0xFFFD = 0xC2 := by decide +kernel

/-- 09_numbers.md, Example 2: `vcvt.e4m3.f32.sat` of 300, 500, +Inf, a negative quiet NaN, 2^-10 and -0. -/
theorem test_conversion :
    (convertE 1 4 .rne .gradual true 0x43960000).bits = 0x79 ∧ (convertE 1 4 .rne .gradual true 0x43FA0000).bits = 0x7E ∧
    (convertE 1 4 .rne .gradual true 0x7F800000).bits = 0x7E ∧ (convertE 1 4 .rne .gradual true 0xFFC00000).bits = 0xFF ∧
    (convertE 1 4 .rne .gradual true 0x3A800000).bits = 0 ∧ (convertE 1 4 .rne .gradual true 0x80000000).bits = 0x80 := by decide +kernel

/-- 11_vector_arith.md, Examples 2 and 3. -/
theorem test_row_sum_and_exponential :
    (sumRow 1 1 .rne .gradual [0x4B800000, 0x3F800000, 0x3F800000, 0x3F800000, 0x3F800000]).bits = 0x4B800002 ∧
    (exp2V fp32 .rne .gradual (fp32.value 0x3F000000)).bits = 0x3FB504F3 ∧
    (exp2V fp32 .rne .gradual (fp32.value 0x40400000)).bits = 0x41000000 := by decide +kernel

/-- 12_vector_data.md, Example 4. -/
theorem test_combine :
    combine [0x3F800000, 0x40000000, 0x40800000] [0x40400000, 0x3F800000, 0x3F800000] =
      [0x40400000, 0x3FC00000, 0x40000000] := by decide +kernel

/-- 06_rotator.md, Example 1: a quarter turn. -/
theorem test_angle : angWord (0x4000 * 2 ^ 16) = 0x026CCF2E ∧ angWord 0 = 0x006CCF2E := by decide +kernel

/-- 05_matrix.md, Example 1: BF16 products with a promotion period of 4, then of 8. -/
theorem test_promotion_period :
    let one := [0x3F80, 0x3F80, 0x3F80, 0x3F80]
    let first := (mxElement 2 .gradual 0 one [0x3F80, 0x3700, 0, 0]).bits
    first = 0x3F800000 ∧ (mxElement 2 .gradual first one [0x3700, 0, 0, 0]).bits = 0x3F800040 ∧
    (mxElement 2 .gradual 0 (one ++ one) [0x3F80, 0x3700, 0, 0, 0x3700, 0, 0, 0]).bits = 0x3F800000 := by decide +kernel

end Sys2Proof.Tests
end

/-! Tables, folds, and the node that the distributor dispatches (16_distributor.md R294, R295). -/

namespace Sys2Proof.Machine

open Sys2Proof.Spec

/-! ## Tables -/

theorem SMap.mem_of_at? {β : Type} {m : SMap β} {k : Nat} {v : β} (h : m.at? k = some v) : (k, v) ∈ m := by
  induction m with
  | nil => cases h
  | cons q r ih =>
    obtain ⟨i, x⟩ := q
    simp only [SMap.at?] at h
    split at h
    next hi =>
      cases h
      simp [hi]
    next => exact List.mem_cons_of_mem _ (ih h)

theorem SMap.at?_of_mem_sorted {β : Type} {m : SMap β} {k : Nat} {v : β} (hs : m.sorted = true) (h : (k, v) ∈ m) :
    m.at? k = some v := by
  induction m with
  | nil => cases h
  | cons q r ih =>
    obtain ⟨habove, hr⟩ := (SMap.sorted_cons q r).mp hs
    rcases List.mem_cons.mp h with rfl | h
    · simp [SMap.at?]
    · have hk : q.1 ≠ k := Nat.ne_of_lt (habove _ h)
      simp [SMap.at?, hk, ih hr h]

theorem SMap.at?_ne_none_of_mem {β : Type} {m : SMap β} {k : Nat} {v : β} (h : (k, v) ∈ m) : m.at? k ≠ none := by
  induction m with
  | nil => cases h
  | cons q r ih =>
    obtain ⟨i, x⟩ := q
    simp only [SMap.at?]
    split
    next => simp
    next hi => exact ih ((List.mem_cons.mp h).resolve_left fun he => hi (congrArg Prod.fst he).symm)

theorem SMap.at?_mapV {β : Type} (f : β → β) (m : SMap β) (k : Nat) : (m.mapV f).at? k = (m.at? k).map f := by
  induction m with
  | nil => rfl
  | cons q r ih =>
    have hr : SMap.at? (r.map fun p => (p.1, f p.2)) k = (SMap.at? r k).map f := ih
    simp only [SMap.mapV, List.map_cons, SMap.at?, hr]
    split <;> rfl

theorem SMap.mem_del_iff {β : Type} {m : SMap β} {k : Nat} {p : Nat × β} : p ∈ m.del k ↔ p ∈ m ∧ p.1 ≠ k := by
  induction m with
  | nil => simp [SMap.del]
  | cons q r ih =>
    obtain ⟨i, x⟩ := q
    simp only [SMap.del]
    split <;> grind

/-- An entry of a changed table is an entry of the table, changed. -/
theorem SMap.exists_of_mem_mapV {β : Type} {f : β → β} {m : SMap β} {p : Nat × β} (h : p ∈ m.mapV f) :
    ∃ y, (p.1, y) ∈ m ∧ p.2 = f y := by
  obtain ⟨q, hq, rfl⟩ := List.mem_map.mp h
  exact ⟨q.2, hq, rfl⟩

/-- Entries listed one after the other: `v` stands at `k` when it stood there before or is listed, and nothing else is
listed there. -/
theorem SMap.at?_foldl_ins {β : Type} (l : List (Nat × β)) (m : SMap β) (k : Nat) (v : β)
    (huniq : ∀ p ∈ l, p.1 = k → p.2 = v) (h : m.at? k = some v ∨ (k, v) ∈ l) :
    (l.foldl (fun m p => m.ins p.1 p.2) m).at? k = some v := by
  induction l generalizing m with
  | nil => simpa using h
  | cons q r ih =>
    have hr : ∀ p ∈ r, p.1 = k → p.2 = v := fun p hp => huniq p (List.mem_cons_of_mem _ hp)
    refine ih _ hr ?_
    by_cases hq : q.1 = k
    · have hv : q.2 = v := huniq q List.mem_cons_self hq
      simp [hq, hv]
    · rcases h with h | h
      · simp [Ne.symm hq, h]
      · right
        rcases List.mem_cons.mp h with rfl | h
        · exact absurd rfl hq
        · exact h

theorem SMap.atD_eq_or_mem {β : Type} (m : SMap β) (k : Nat) (d : β) : m.atD k d = d ∨ (k, m.atD k d) ∈ m := by
  rw [SMap.atD_eq]
  cases h : m.at? k with
  | none => exact .inl rfl
  | some v => exact .inr (SMap.mem_of_at? h)

/-! ## Folds -/

/-- What every step of a fold keeps, the fold keeps. -/
theorem foldl_keeps {α σ τ : Type} (f : σ → α → σ) (g : σ → τ) (l : List α) (s : σ) (h : ∀ a ∈ l, ∀ t, g (f t a) = g t) :
    g (l.foldl f s) = g s := by
  induction l generalizing s with
  | nil => rfl
  | cons a r ih =>
    rw [List.foldl_cons, ih _ fun b hb => h b (List.mem_cons_of_mem _ hb), h a List.mem_cons_self]

/-- What one step of a fold gives, whatever came before, and every other step keeps, the fold gives. -/
theorem foldl_gives {α σ τ : Type} (f : σ → α → σ) (g : σ → τ) (a : α) (v : τ) (l : List α) (s : σ) (ha : a ∈ l)
    (hset : ∀ t, g (f t a) = v) (hkeep : ∀ b, b ≠ a → ∀ t, g (f t b) = g t) : g (l.foldl f s) = v := by
  induction l generalizing s with
  | nil => cases ha
  | cons b r ih =>
    rw [List.foldl_cons]
    by_cases har : a ∈ r
    · exact ih _ har
    · obtain rfl : a = b := by simpa [har] using ha
      rw [foldl_keeps f g r _ fun c hc => hkeep c (ne_of_mem_of_not_mem hc har), hset]

/-! ## The node that is dispatched (16_distributor.md R294, R295) -/

/-- The better of the best node so far and node `p`. -/
def Node.better (best : Option (Nat × Node)) (p : Nat × Node) : Option (Nat × Node) :=
  match best with
  | none => some p
  | some b => if p.2.before b.2 then some p else some b

theorem Node.before_iff (a b : Node) : a.before b = true ↔ b.prio < a.prio ∨ a.prio = b.prio ∧ a.order < b.order := by
  simp [Node.before]

/-- The best of the nodes `b` and `l`: one of them, and none goes before it. -/
theorem Node.foldl_better (l : List (Nat × Node)) (b : Nat × Node) :
    ∃ x, l.foldl Node.better (some b) = some x ∧ x ∈ b :: l ∧
      ∀ p ∈ b :: l, p.2.prio < x.2.prio ∨ p.2.prio = x.2.prio ∧ x.2.order ≤ p.2.order := by
  induction l generalizing b with
  | nil => exact ⟨b, rfl, List.mem_cons_self, by simp⟩
  | cons q r ih =>
    have hstep : List.foldl Node.better (some b) (q :: r) =
        List.foldl Node.better (some (if q.2.before b.2 then q else b)) r := by
      rw [List.foldl_cons]
      congr 1
      exact (apply_ite some _ _ _).symm
    by_cases hq : q.2.before b.2 = true
    · obtain ⟨x, hx, hmem, hbest⟩ := ih q
      refine ⟨x, by rw [hstep, if_pos hq, hx], List.mem_cons_of_mem _ hmem, fun p hp => ?_⟩
      rcases List.mem_cons.mp hp with rfl | hp
      · have hqx := hbest q List.mem_cons_self
        rw [Node.before_iff] at hq
        omega
      · exact hbest p hp
    · obtain ⟨x, hx, hmem, hbest⟩ := ih b
      refine ⟨x, by rw [hstep, if_neg hq, hx], ?_, fun p hp => ?_⟩
      · rcases List.mem_cons.mp hmem with rfl | hmem
        · exact List.mem_cons_self
        · exact List.mem_cons_of_mem _ (List.mem_cons_of_mem _ hmem)
      · rcases List.mem_cons.mp hp with rfl | hp
        · exact hbest p List.mem_cons_self
        · rcases List.mem_cons.mp hp with rfl | hp
          · have hbx := hbest b List.mem_cons_self
            rw [Node.before_iff] at hq
            omega
          · exact hbest p (List.mem_cons_of_mem _ hp)

theorem State.selectNode_eq (s : State) :
    s.selectNode = ((s.nodes.filter fun p => s.canDispatch p.1).foldl Node.better none).map Prod.fst := rfl

/-- The nodes that can be dispatched: there is none, or the selected one is the best of them. -/
theorem State.selectNode_cases (s : State) :
    (s.selectNode = none ∧ ∀ p ∈ s.nodes, s.canDispatch p.1 = false) ∨
    ∃ n x, s.selectNode = some n ∧ (n, x) ∈ s.nodes ∧ s.canDispatch n = true ∧
      ∀ p ∈ s.nodes, s.canDispatch p.1 = true → p.2.prio < x.prio ∨ p.2.prio = x.prio ∧ x.order ≤ p.2.order := by
  rw [State.selectNode_eq]
  cases hl : s.nodes.filter fun p => s.canDispatch p.1 with
  | nil =>
    left
    exact ⟨rfl, by simpa using List.filter_eq_nil_iff.mp hl⟩
  | cons b r =>
    right
    obtain ⟨x, hx, hmem, hbest⟩ := Node.foldl_better r b
    rw [← hl] at hmem hbest
    obtain ⟨hnode, hcan⟩ := List.mem_filter.mp hmem
    refine ⟨x.1, x.2, ?_, hnode, hcan, fun p hp hc => hbest p (List.mem_filter.mpr ⟨hp, hc⟩)⟩
    rw [List.foldl_cons]
    exact congrArg (Option.map Prod.fst) hx

theorem State.gangWhole_iff {s : State} {n : Nat} {x : Node} (h : s.nodes.at? n = some x) :
    s.gangWhole n = true ↔ x.gang = none ∨ (s.gangOf n).length = x.gangSize := by
  simp [State.gangWhole, h]

theorem Ctx.stopped_eq_false_iff (c : Ctx) :
    c.stopped = false ↔ c.frozen = false ∧ c.freeze = none ∧ c.failed = false := by
  simp [Ctx.stopped, and_assoc]

theorem State.gangReady_iff {s : State} {n : Nat} {x : Node} (h : s.nodes.at? n = some x) :
    s.gangReady n = true ↔ (x.gang = none ∨ (s.gangOf n).length = x.gangSize) ∧
      ∀ i ∈ s.gangOf n, ∃ y, s.nodes.at? i = some y ∧ y.ready = true ∧ (s.ctxAt y.ctx).frozen = false ∧
        (s.ctxAt y.ctx).freeze = none ∧ (s.ctxAt y.ctx).failed = false := by
  rw [State.gangReady, Bool.and_eq_true, State.gangWhole_iff h, List.all_eq_true]
  refine and_congr_right fun _ => forall₂_congr fun i _ => ?_
  cases s.nodes.at? i with
  | none => simp
  | some y => simp [← Ctx.stopped_eq_false_iff]

theorem State.heldBack_iff (s : State) (ns : List Nat) :
    s.heldBack ns = true ↔ ∃ p ∈ s.nodes, p.2.starved = true ∧ p.2.dispatched = false ∧ p.1 ∉ ns ∧
      ∃ i ∈ ns, ∃ y, s.nodes.at? i = some y ∧ y.prio ≤ p.2.prio ∧ p.2.order < y.order := by
  rw [State.heldBack, List.any_eq_true]
  refine exists_congr fun p => and_congr_right fun _ => ?_
  simp only [Bool.and_eq_true, Bool.not_eq_true', List.any_eq_true, and_assoc, List.contains_eq_mem, decide_eq_false_iff_not]
  refine and_congr_right fun _ => and_congr_right fun _ => and_congr_right fun _ => exists_congr fun i =>
    and_congr_right fun _ => ?_
  cases s.nodes.at? i with
  | none => simp
  | some y => simp

theorem State.canDispatch_iff {s : State} {n : Nat} {x : Node} (h : s.nodes.at? n = some x) :
    s.canDispatch n = true ↔
      (x.gang = none ∨ (s.gangOf n).length = x.gangSize) ∧
      (∀ i ∈ s.gangOf n, ∃ y, s.nodes.at? i = some y ∧ y.ready = true ∧ (s.ctxAt y.ctx).frozen = false ∧
        (s.ctxAt y.ctx).freeze = none ∧ (s.ctxAt y.ctx).failed = false) ∧
      (¬ ∃ p ∈ s.nodes, p.2.starved = true ∧ p.2.dispatched = false ∧ p.1 ∉ s.gangOf n ∧
        ∃ i ∈ s.gangOf n, ∃ y, s.nodes.at? i = some y ∧ y.prio ≤ p.2.prio ∧ p.2.order < y.order) ∧
      (s.placeNodes s.hosts (s.gangOf n) []).isSome = true := by
  rw [← State.heldBack_iff, State.canDispatch, Bool.and_eq_true, Bool.and_eq_true, Bool.and_eq_true, h, State.gangReady_iff h]
  simp [and_assoc]

theorem State.gangOf_single {s : State} {n : Nat} {x : Node} (h : s.nodes.at? n = some x) (hg : x.gang = none) :
    s.gangOf n = [n] := by
  simp [State.gangOf, h, hg]

theorem State.mem_gangOf_iff {s : State} {n g : Nat} {x : Node} (h : s.nodes.at? n = some x) (hg : x.gang = some g) (i : Nat) :
    i ∈ s.gangOf n ↔ ∃ y, (i, y) ∈ s.nodes ∧ y.gang = some g ∧ y.queue = x.queue := by
  simp [State.gangOf, h, hg]

end Sys2Proof.Machine

/-! Placement, the logical cores of a dispatched node, and the events of dispatch (16_distributor.md R296, R300; 01_device.md R23,
R24). -/

namespace Sys2Proof.Machine

open Sys2Proof.Spec

/-! ## Places and their cost (16_distributor.md R296, 01_device.md R23, R24) -/

theorem State.hasPlace_iff (s : State) (g : Load) (c : Nat) :
    s.hasPlace g c = true ↔ c ∉ s.fencedCores ∧ (s.coreAt c).rot.length + g.given c < 8 := by
  rw [State.hasPlace, Bool.and_eq_true, decide_eq_true_eq, State.load]
  simp

theorem leastBy_eq_none_iff (cost : Nat → Nat) (l : List Nat) : leastBy cost l = none ↔ l = [] := by
  cases l with
  | nil => simp [leastBy]
  | cons x xs =>
    simp only [leastBy]
    split
    · simp
    · split <;> simp

/-- The least by `cost` is of the list, and none of it costs less. -/
theorem leastBy_spec (cost : Nat → Nat) (l : List Nat) (c : Nat) (h : leastBy cost l = some c) :
    c ∈ l ∧ ∀ d ∈ l, cost c ≤ cost d := by
  induction l generalizing c with
  | nil => cases h
  | cons x xs ih =>
    simp only [leastBy] at h
    split at h
    next hn =>
      obtain rfl : x = c := by simpa using h
      simp [(leastBy_eq_none_iff cost xs).mp hn]
    next y hy =>
      obtain ⟨hmem, hle⟩ := ih y hy
      split at h
      next hlt =>
        obtain rfl : y = c := by simpa using h
        exact ⟨List.mem_cons_of_mem _ hmem, List.forall_mem_cons.mpr ⟨Nat.le_of_lt hlt, hle⟩⟩
      next hlt =>
        obtain rfl : x = c := by simpa using h
        exact ⟨List.mem_cons_self, List.forall_mem_cons.mpr ⟨Nat.le_refl _, fun d hd => Nat.le_trans (Nat.not_lt.mp hlt) (hle d hd)⟩⟩

/-- The cores of terrace `t` that `host` admits. -/
def coresOn (host : Load → Nat → Bool) (g : Load) (t : Nat) : List Nat := ((List.range 8).map (8 * t + ·)).filter (host g)

theorem mem_coresOn_iff {host : Load → Nat → Bool} {g : Load} {t c : Nat} :
    c ∈ coresOn host g t ↔ c / 8 = t ∧ host g c = true := by
  simp only [coresOn, List.mem_filter, List.mem_map, List.mem_range]
  refine and_congr_left fun _ => ⟨?_, fun h => ⟨c % 8, by omega, by omega⟩⟩
  rintro ⟨i, hi, rfl⟩
  omega

/-- A single logical core goes to the cheapest core of its terrace. -/
theorem State.placeOn_one (s : State) (host : Load → Nat → Bool) (units t : Nat) (g : Load) :
    s.placeOn host units t 1 g = (leastBy (s.coreCost units g) (coresOn host g t)).map fun c =>
      ([c], s.coreCost units g c, g.give c units) := by
  rw [State.placeOn, ← coresOn]
  cases leastBy (s.coreCost units g) (coresOn host g t) with
  | none => rfl
  | some c => simp only [State.placeOn, Option.map_some, Nat.add_zero]

/-- What the best placement of a single logical core on the terraces `ts` is: none where no core has a place, else the cheapest
of their cores that have one. -/
def State.IsCheapest (s : State) (host : Load → Nat → Bool) (units : Nat) (g : Load) (ts : List Nat) :
    Option (List Nat × Nat × Load) → Prop
  | none => ∀ e, e / 8 ∈ ts → host g e = false
  | some r => ∃ c, r = ([c], s.coreCost units g c, g.give c units) ∧ c / 8 ∈ ts ∧ host g c = true ∧
      ∀ e, e / 8 ∈ ts → host g e = true → s.coreCost units g c ≤ s.coreCost units g e

/-- The better of the best placement so far and one on a further terrace. -/
def betterPlace (new best : Option (List Nat × Nat × Load)) : Option (List Nat × Nat × Load) :=
  match new, best with
  | none, b => b
  | some r, none => some r
  | some r, some b => if r.2.1 < b.2.1 then some r else some b

/-- One terrace more. -/
theorem State.isCheapest_better {s : State} {host : Load → Nat → Bool} {units t : Nat} {g : Load} {ts : List Nat}
    {best : Option (List Nat × Nat × Load)} (h : s.IsCheapest host units g ts best) :
    s.IsCheapest host units g (ts ++ [t]) (betterPlace (s.placeOn host units t 1 g) best) := by
  rw [State.placeOn_one]
  cases hl : leastBy (s.coreCost units g) (coresOn host g t) with
  | none =>
    have hempty : ∀ e, e / 8 = t → host g e = false := fun e he => by
      have : e ∉ coresOn host g t := by simp [(leastBy_eq_none_iff _ _).mp hl]
      simpa [mem_coresOn_iff, he] using this
    cases best with
    | none =>
      intro e he
      rcases List.mem_append.mp he with he | he
      · exact h e he
      · exact hempty e (by simpa using he)
    | some b =>
      obtain ⟨c, rfl, hc, hhost, hle⟩ := h
      refine ⟨c, rfl, List.mem_append_left _ hc, hhost, fun e he hhe => ?_⟩
      rcases List.mem_append.mp he with he | he
      · exact hle e he hhe
      · simp [hempty e (by simpa using he)] at hhe
  | some d =>
    obtain ⟨hmem, hleast⟩ := leastBy_spec _ _ _ hl
    obtain ⟨hdt, hdhost⟩ := mem_coresOn_iff.mp hmem
    have hdle : ∀ e, e / 8 = t → host g e = true → s.coreCost units g d ≤ s.coreCost units g e :=
      fun e he hhe => hleast e (mem_coresOn_iff.mpr ⟨he, hhe⟩)
    have hdin : d / 8 ∈ ts ++ [t] := by simp [hdt]
    cases best with
    | none =>
      refine ⟨d, rfl, hdin, hdhost, fun e he hhe => ?_⟩
      rcases List.mem_append.mp he with he | he
      · simp [h e he] at hhe
      · exact hdle e (by simpa using he) hhe
    | some b =>
      obtain ⟨c, rfl, hc, hhost, hle⟩ := h
      by_cases hlt : s.coreCost units g d < s.coreCost units g c
      · simp only [betterPlace, Option.map_some, hlt, if_true]
        refine ⟨d, rfl, hdin, hdhost, fun e he hhe => ?_⟩
        rcases List.mem_append.mp he with he | he
        · exact Nat.le_trans (Nat.le_of_lt hlt) (hle e he hhe)
        · exact hdle e (by simpa using he) hhe
      · simp only [betterPlace, Option.map_some, hlt, if_false]
        refine ⟨c, rfl, List.mem_append_left _ hc, hhost, fun e he hhe => ?_⟩
        rcases List.mem_append.mp he with he | he
        · exact hle e he hhe
        · exact Nat.le_trans (Nat.not_lt.mp hlt) (hdle e (by simpa using he) hhe)

theorem State.isCheapest_foldl {s : State} {host : Load → Nat → Bool} {units : Nat} {g : Load} (new old : List Nat)
    {best : Option (List Nat × Nat × Load)} (h : s.IsCheapest host units g old best) :
    s.IsCheapest host units g (old ++ new)
      (new.foldl (fun b t => betterPlace (s.placeOn host units t 1 g) b) best) := by
  induction new generalizing old best with
  | nil => simpa using h
  | cons t r ih => simpa using ih (old ++ [t]) (State.isCheapest_better h)

/-- Where the budget allows every wake, the best terrace for a single logical core is that of the cheapest core. -/
theorem State.bestTerrace_one {h : Hosts} (hw : ∀ g cs, h.wake g cs = true) (s : State) (units : Nat) (g : Load) (ts : List Nat) :
    s.IsCheapest h.host units g ts (s.bestTerrace h units 1 g ts) := by
  have hfold : s.bestTerrace h units 1 g ts = ts.foldl (fun b t => betterPlace (s.placeOn h.host units t 1 g) b) none := by
    have hall (o : Option (List Nat × Nat × Load)) : o.filter (fun r => h.wake g r.1) = o := by cases o <;> simp [hw]
    simp only [State.bestTerrace, hall]
    rfl
  rw [hfold]
  exact State.isCheapest_foldl ts [] (best := none) (by simp [State.IsCheapest])

theorem mem_terraces_of_die_iff (d t : Nat) : t ∈ (List.range 8).map (8 * d + ·) ↔ t / 8 = d := by
  simp only [List.mem_map, List.mem_range]
  refine ⟨?_, fun h => ⟨t % 8, by omega, by omega⟩⟩
  rintro ⟨i, hi, rfl⟩
  omega

/-- A team of one takes the cheapest core of its die, or of the device where the die has no place. -/
theorem State.placeGroup_one {h : Hosts} (hw : ∀ g cs, h.wake g cs = true) (s : State) (units d c : Nat) (g g' : Load)
    (hp : s.placeGroup h units d 1 g = some ([c], g')) :
    h.host g c = true ∧ g' = g.give c units ∧
    ∀ e, e < 256 → h.host g e = true → (e / 64 = d ∨ ∀ i, i < 64 → h.host g (64 * d + i) = false) →
      s.coreCost units g c ≤ s.coreCost units g e := by
  have hdie := State.bestTerrace_one hw s units g ((List.range 8).map (8 * d + ·))
  have hall := State.bestTerrace_one hw s units g (List.range 32)
  simp only [State.placeGroup] at hp
  cases hb : s.bestTerrace h units 1 g ((List.range 8).map (8 * d + ·)) with
  | some r =>
    rw [hb] at hdie hp
    obtain ⟨c', rfl, hcd, hhost, hle⟩ := hdie
    obtain ⟨rfl, rfl⟩ : c' = c ∧ g.give c' units = g' := by simpa using hp
    rw [mem_terraces_of_die_iff] at hcd
    refine ⟨hhost, rfl, fun e _ hhe hwhere => ?_⟩
    rcases hwhere with he | hnone
    · exact hle e ((mem_terraces_of_die_iff d _).mpr (by omega)) hhe
    · have := hnone (c' % 64) (by omega)
      rw [show 64 * d + c' % 64 = c' by omega, hhost] at this
      cases this
  | none =>
    rw [hb] at hdie hp
    cases hb2 : s.bestTerrace h units 1 g (List.range 32) with
    | none => simp [hb2] at hp
    | some r =>
      rw [hb2] at hall hp
      obtain ⟨c', rfl, _, hhost, hle⟩ := hall
      obtain ⟨rfl, rfl⟩ : c' = c ∧ g.give c' units = g' := by simpa using hp
      exact ⟨hhost, rfl, fun e he hhe _ => hle e (List.mem_range.mpr (by omega)) hhe⟩

/-! ## The logical cores of a dispatched node (16_distributor.md R296, R300; 01_device.md R23) -/

/-- The launch registers that level `i` of a node gives to logical core `c`. -/
def putLevel (x : Node) (m : Image) (c : Nat) (r : SMap Word) (i : Nat) : SMap Word :=
  ((r.put (0x08 + i) (toW (lShape x.image i)) 0).put (0x20 + i) (toW (x.lvl.getD i 0)) 0).put (0x28 + i)
    (toW (levelIndex m x.lvl c i)) 0

/-- The launch register of relocation base `i`. -/
def putBase (x : Node) (r : SMap Word) (i : Nat) : SMap Word := r.put (0x10 + i) (toW (lRel x.image i)) 0

/-- The launch registers that name the logical core, the size of its team and its `.data` part. -/
def headRegs (x : Node) (m : Image) (c : Nat) : SMap Word :=
  (((SMap.put [] 1 (toW c) 0).put 2 (toW x.lcount) 0).put 4 (toW m.dataBase) 0 : SMap Word)

theorem launchRegs_eq (x : Node) (m : Image) (c : Nat) :
    launchRegs x m c = (List.range 16).foldl (putBase x) ((List.range 8).foldl (putLevel x m c) (headRegs x m c)) := rfl

theorem atD_putBase_other (x : Node) (r : SMap Word) {i j : Nat} (h : j ≠ 0x10 + i) : (putBase x r i).atD j 0 = r.atD j 0 :=
  SMap.atD_put_other _ _ _ h

theorem atD_putLevel_other (x : Node) (m : Image) (c : Nat) (r : SMap Word) {i j : Nat} (h8 : j ≠ 0x08 + i) (h20 : j ≠ 0x20 + i)
    (h28 : j ≠ 0x28 + i) : (putLevel x m c r i).atD j 0 = r.atD j 0 := by
  simp only [putLevel, SMap.atD_put_other _ _ _ h8, SMap.atD_put_other _ _ _ h20, SMap.atD_put_other _ _ _ h28]

theorem headRegs_atD (x : Node) (m : Image) (c : Nat) :
    (headRegs x m c).atD 1 0 = toW c ∧ (headRegs x m c).atD 2 0 = toW x.lcount ∧ (headRegs x m c).atD 4 0 = toW m.dataBase := by
  simp [headRegs]

/-- Launch registers 0 to 7 are those of the head. -/
theorem launchRegs_head (x : Node) (m : Image) (c : Nat) {j : Nat} (hj : j < 8) :
    (launchRegs x m c).atD j 0 = (headRegs x m c).atD j 0 := by
  rw [launchRegs_eq, foldl_keeps (putBase x) (fun r => SMap.atD r j 0) _ _ fun i _ r => atD_putBase_other x r (by omega),
    foldl_keeps (putLevel x m c) (fun r => SMap.atD r j 0) _ _ fun i _ r =>
      atD_putLevel_other x m c r (by omega) (by omega) (by omega)]

theorem launchRegs_base (x : Node) (m : Image) (c : Nat) {i : Nat} (hi : i < 16) :
    (launchRegs x m c).atD (0x10 + i) 0 = toW (lRel x.image i) := by
  rw [launchRegs_eq]
  exact foldl_gives (putBase x) (fun r => SMap.atD r (0x10 + i) 0) i _ _ _ (List.mem_range.mpr hi)
    (fun r => SMap.atD_put_same _ _ _ _) fun j hj r => atD_putBase_other x r (by omega)

theorem launchRegs_shape (x : Node) (m : Image) (c : Nat) {i : Nat} (hi : i < 8) :
    (launchRegs x m c).atD (8 + i) 0 = toW (lShape x.image i) := by
  rw [launchRegs_eq, foldl_keeps (putBase x) (fun r => SMap.atD r (8 + i) 0) _ _ fun j _ r => atD_putBase_other x r (by omega)]
  refine foldl_gives (putLevel x m c) (fun r => SMap.atD r (8 + i) 0) i _ _ _ (List.mem_range.mpr hi) (fun r => ?_) fun j hj r => ?_
  · have h20 : 8 + i ≠ 0x20 + i := by omega
    have h28 : 8 + i ≠ 0x28 + i := by omega
    simp only [putLevel, SMap.atD_put_other _ _ _ h28, SMap.atD_put_other _ _ _ h20, SMap.atD_put_same]
  · by_cases hj8 : j < 8
    · exact atD_putLevel_other x m c r (by omega) (by omega) (by omega)
    · exact atD_putLevel_other x m c r (by omega) (by omega) (by omega)

theorem newLcore_reg (n : Nat) (x : Node) (m : Image) (c pc : Nat) (ep : Bool) (r : Nat) :
    (newLcore n x m c pc).reg ep r = 0 := by
  have hregs : ((newLcore n x m c pc).strm ep).regs = [] := by cases ep <;> rfl
  have hqs : (newLcore n x m c pc).qs = [] := rfl
  simp only [LCore.reg, LCore.queue, hregs, hqs, SMap.atD_nil]
  split
  · rfl
  · split <;> rfl

/-- A logical core arrives on a core that runs none and swaps none: it becomes active, and the core is woken. -/
theorem State.arrive_empty {s : State} {c : Nat} (k : Nat) (ha : (s.coreAt c).active = none) (hr : (s.coreAt c).swapReq = none)
    (hs : (s.coreAt c).swapping = none) :
    s.arrive c k =
      { coreSet s c { s.coreAt c with
          rot := (s.coreAt c).rot ++ [k], active := some k, quantum := 0
          power := if (s.coreAt c).power = .awake then .awake else .waking
          wake := match (s.coreAt c).power with
            | .waking => (s.coreAt c).wake
            | .powerGated => 13200
            | .clockGated => 165
            | .awake => 0 } with
        lcores := s.lcores.ins k { s.lcAt k with loc := .banked c } } := by
  simp only [State.arrive, ha, hr, hs, Option.isNone_none, and_self, if_true, State.setLc, State.setCore, coreSet, PCore.wakeCost]
  cases (s.coreAt c).power <;> rfl

theorem State.arrive_occupied {s : State} {c : Nat} (k : Nat) (ha : (s.coreAt c).active ≠ none) :
    s.arrive c k = coreSet s c { s.coreAt c with rot := (s.coreAt c).rot ++ [k] } := by
  simp [State.arrive, Option.isNone_iff_eq_none, ha, State.setCore, coreSet]

theorem State.onlyOutranked_iff (s : State) (prio : Nat) :
    s.onlyOutranked prio = true ↔
      ∀ c, c < 256 → s.hasPlace [] c = true → ∃ a, (s.coreAt c).active = some a ∧ s.prioOf a < prio := by
  simp only [State.onlyOutranked, List.all_eq_true, List.mem_filter, List.mem_range, and_imp]
  refine forall₃_congr fun c _ _ => ?_
  cases (s.coreAt c).active <;> simp

/-- With no swap requested or under way, the logical core that comes to be active is the active one. -/
theorem State.coming_of_noSwap {s : State} {c : Nat} (hr : (s.coreAt c).swapReq = none) (hs : (s.coreAt c).swapping = none) :
    s.coming c = (s.coreAt c).active := by
  simp [State.coming, hr, hs]

theorem State.preemptFor_noSwap {s : State} {c k a : Nat} (ha : (s.coreAt c).active = some a)
    (hr : (s.coreAt c).swapReq = none) (hs : (s.coreAt c).swapping = none) :
    s.preemptFor c k = if a ≠ k ∧ s.prioOf a < s.prioOf k then
      coreSet s c { s.coreAt c with swapReq := some (.preempt k) } else s := by
  simp only [State.preemptFor, State.coming_of_noSwap hr hs, ha]
  rfl

/-! ## The events of dispatch -/

theorem nodeDispatch_happens {s : State} {n : Nat} {ps : List (Nat × List Nat)} (hn : s.selectNode = some n)
    (hp : s.placeNodes s.hosts (s.gangOf n) [] = some ps) :
    Happens .nodeDispatch s (ps.foldl (fun t p => t.dispatchNode p.1 p.2) s).settle := by
  show execNodeDispatch s = _
  simp only [execNodeDispatch, hn, hp]
  rfl

theorem nodeDispatch_passes {s : State} (hn : s.selectNode = none) : Passes .nodeDispatch s := by
  show execNodeDispatch s = _
  simp only [execNodeDispatch, hn]
  rfl

theorem dispatchStarvation_happens {s : State} {n t : Nat} {x : Node} (hx : s.nodes.at? n = some x) (ht : x.readyAt = some t)
    (hd : x.dispatched = false) (hs : x.starved = false) (hw : 2 ^ 26 ≤ (s.cycle - BitVec.ofNat 64 t).toNat) :
    Happens (.dispatchStarvation n) s { s with nodes := s.nodes.ins n { x with starved := true } } := by
  show execDispatchStarvation n s = _
  have hlate : ¬ (s.cycle - toW t).toNat < 2 ^ 26 := Nat.not_lt.mpr hw
  simp only [execDispatchStarvation, hx, ht, hd, hs, hlate, Bool.false_eq_true, or_self, if_false]
  rfl

theorem dispatchEvents : Sys2Proof.Parts.DispatchEvents := by
  refine ⟨fun s n ps hn hp => nodeDispatch_happens hn hp, fun s n hn => ?_, fun s hn => ?_,
    fun s n x hx => State.canDispatch_iff hx, fun s n x hx => ⟨State.gangOf_single hx, fun g i hg => State.mem_gangOf_iff hx hg i⟩,
    State.hasPlace_iff, fun s units g c => rfl, leastBy_spec,
    fun s h units d g c g' hw hp => State.placeGroup_one hw s units d c g g' hp, fun n x m c pc => ?_, fun s c k => ?_,
    State.onlyOutranked_iff, fun s c k a ha hr hs => ?_, fun s n x t hx ht hd hs hw => dispatchStarvation_happens hx ht hd hs hw⟩
  · rcases s.selectNode_cases with ⟨hnone, _⟩ | ⟨n', x, hsome, hbest⟩
    · simp [hnone] at hn
    · obtain rfl : n' = n := by simpa [hsome] using hn
      exact ⟨x, hbest⟩
  · rcases s.selectNode_cases with ⟨_, hnone⟩ | ⟨n', x, hsome, _⟩
    · exact ⟨hnone, nodeDispatch_passes hn⟩
    · simp [hsome] at hn
  · obtain ⟨h1, h2, h4⟩ := headRegs_atD x m c
    exact ⟨rfl, rfl, newLcore_reg n x m c pc, (launchRegs_head x m c (by decide)).trans h1,
      (launchRegs_head x m c (by decide)).trans h2, (launchRegs_head x m c (by decide)).trans h4,
      fun i hi => launchRegs_base x m c hi, fun i hi => launchRegs_shape x m c hi⟩
  · exact ⟨fun ha hr hs => State.arrive_empty k ha hr hs, fun ha => State.arrive_occupied k ha⟩
  · rw [State.preemptFor_noSwap ha hr hs]
    refine ⟨fun hne hlt => if_pos ⟨hne, hlt⟩, fun h => if_neg ?_⟩
    rintro ⟨hne, hlt⟩
    rcases h with h | h
    · exact hne h
    · exact Nat.not_lt.mpr h hlt

end Sys2Proof.Machine

/-! What the distributor's accesses, packets and completions leave (16_distributor.md R298, 14_host_queues.md R262 to R264). -/

namespace Sys2Proof.Machine

open Sys2Proof.Spec

/-! ## What an access of the distributor leaves (08_memory.md R163 to R171) -/

/-- Nothing of `t` differs from `s` but memory, what the L2 holds, the device's error counters and the count of free values. -/
def OnlyMemory (s t : State) : Prop := t = { s with mem := t.mem, l2 := t.l2, errs := t.errs, free := t.free }

namespace OnlyMemory

theorem refl (s : State) : OnlyMemory s s := rfl

theorem trans {s t u : State} (h : OnlyMemory s t) (h' : OnlyMemory t u) : OnlyMemory s u := by
  unfold OnlyMemory at h h' ⊢
  rw [h', h]

theorem foldl {α : Type} {f : State → α → State} (hf : ∀ s a, OnlyMemory s (f s a)) (l : List α) (s : State) :
    OnlyMemory s (l.foldl f s) := by
  induction l generalizing s with
  | nil => exact refl s
  | cons a r ih => exact (hf s a).trans (ih (f s a))

theorem setRaws (s : State) (pa : Nat) (bs : List Byte) : OnlyMemory s (s.setRaws pa bs) := by
  unfold OnlyMemory
  rw [State.setRaws_frame]

theorem setPhys (s : State) (pa : Nat) (b : Byte) : OnlyMemory s (s.setPhys pa b) := by
  unfold OnlyMemory
  rw [State.setPhys_frame]

theorem setPhyss (s : State) (pa : Nat) (bs : List Byte) : OnlyMemory s (s.setPhyss pa bs) := by
  unfold OnlyMemory
  rw [State.setPhyss_frame]

theorem fillLine (s : State) (ln : Nat) : OnlyMemory s (s.fillLine ln) := by
  unfold State.fillLine
  split
  · exact refl s
  · split
    · exact refl s
    · dsimp only
      split <;> rfl

theorem fillLines (s : State) (pa n : Nat) : OnlyMemory s (s.fillLines pa n) := by
  unfold State.fillLines
  split
  · exact refl s
  · exact foldl (fun s i => fillLine s (pa / 128 + i)) _ s

theorem fillRuns (s : State) (rs : List Run) : OnlyMemory s (s.fillRuns rs) := by
  unfold State.fillRuns
  split
  · exact refl s
  · refine trans (foldl (fun s r => ?_) rs s) rfl
    split
    · exact fillLines s _ _
    · exact refl s

theorem logWrite (s : State) (ctx va size : Nat) (s64 : Bool) : OnlyMemory s (s.logWrite ctx va size s64) := by
  unfold State.logWrite
  split
  · exact refl s
  · split
    · dsimp only
      split
      · exact refl s
      · split
        · exact setPhys s _ _
        · split
          · exact (setPhyss s _ _).trans (setPhyss _ _ _)
          · exact refl s
    · exact refl s

theorem orEntry (s : State) (pa v : Nat) : OnlyMemory s (s.orEntry pa v) := setRaws s _ _

theorem markLeaf (s : State) (ctx : Nat) (how : Access) (va pa : Nat) : OnlyMemory s (s.markLeaf ctx how va pa) := by
  cases how with
  | load => exact orEntry s pa 32
  | fetch => exact orEntry s pa 32
  | store =>
    simp only [State.markLeaf]
    split
    · exact refl s
    · split
      · have hset := fun bs => (orEntry s pa 96).trans (setRaws (s.orEntry pa 96) pa bs)
        split
        · exact (hset _).trans (logWrite _ _ _ _ _)
        · exact hset _
      · exact orEntry s pa 96

theorem readMarks (s : State) (ctx : Nat) (rs : List Run) : OnlyMemory s (s.readMarks ctx rs) := by
  refine (fillRuns s rs).trans (foldl (fun s r => ?_) rs _)
  split
  · exact markLeaf s ctx _ _ _
  · exact refl s

theorem writeMarks (s : State) (ctx : Nat) (rs : List Run) : OnlyMemory s (s.writeMarks ctx rs) := by
  refine foldl (fun s r => ?_) rs _
  split
  · exact markLeaf s ctx _ _ _
  · exact refl s

theorem putRuns (s : State) (rs : List Run) (bs : List Byte) : OnlyMemory s (s.putRuns rs bs) := by
  induction rs generalizing s bs with
  | nil => exact refl s
  | cons r rs ih =>
    refine trans ?_ (ih _ _)
    split
    · exact setPhyss s _ _
    · exact refl s

end OnlyMemory

theorem Acc.map_eq_ok {α β : Type} {x : Acc α} {f : α → β} {b : β} (h : x.map f = .ok b) : ∃ a, x = .ok a ∧ f a = b := by
  cases x with
  | ok a => exact ⟨a, rfl, by simpa [Acc.map, Acc.bind] using h⟩
  | fault c a t => cases h
  | wait k p => cases h

theorem Acc.bind_eq_ok {α β : Type} {x : Acc α} {f : α → Acc β} {b : β} (h : x.bind f = .ok b) : ∃ a, x = .ok a ∧ f a = .ok b := by
  cases x with
  | ok a => exact ⟨a, rfl, h⟩
  | fault c a t => cases h
  | wait k p => cases h

theorem Acc.placed_eq_ok {α : Type} {va : Nat} {x : Acc α} {r : α} (h : x.placed va = .ok r) : x = .ok r := by
  cases x with
  | ok a => simpa [Acc.placed] using h
  | fault c a t => cases h
  | wait k p => cases h

theorem State.ranged_eq_ok {α : Type} {s : State} {ctx va n : Nat} {x : Acc α} {r : α} (h : s.ranged ctx va n x = .ok r) :
    x = .ok r := by
  unfold State.ranged at h
  split at h
  · cases h
  · split at h
    · cases h
    · exact h

theorem State.distWrite_ok {s t : State} {ctx va : Nat} {bs : List Byte} (h : s.distWrite ctx va bs = .ok t) : OnlyMemory s t := by
  obtain ⟨rs, _, hrs⟩ := Acc.bind_eq_ok (State.ranged_eq_ok (Acc.placed_eq_ok h))
  split at hrs
  · cases hrs
  · cases hrs
    exact (OnlyMemory.writeMarks s ctx rs).trans (OnlyMemory.putRuns _ rs bs)

theorem State.distRead_ok {s t : State} {ctx va n : Nat} {bs : List Byte} (h : s.distRead ctx va n = .ok (bs, t)) :
    OnlyMemory s t := by
  obtain ⟨rs, _, hrs⟩ := Acc.map_eq_ok (Acc.placed_eq_ok h)
  cases hrs
  exact OnlyMemory.readMarks s ctx rs

/-! ## What completions leave -/

/-- From `s` to `t` nodes have completed or become ready, and packets have: contexts, Sluice cores and the sequence table are as
they were, no report is withdrawn, and no node is new or of another context. -/
structure Carries (s t : State) : Prop where
  ctxs : t.ctxs = s.ctxs
  sluices : t.sluices = s.sluices
  seqs : t.seqs = s.seqs
  reports : s.reports ⊆ t.reports
  nodes : ∀ p ∈ t.nodes, ∃ q ∈ s.nodes, q.1 = p.1 ∧ q.2.ctx = p.2.ctx

namespace Carries

/-- Two states of the same contexts, Sluice cores, sequences, reports and nodes. -/
theorem of_eq {s t : State} (hc : t.ctxs = s.ctxs) (hl : t.sluices = s.sluices) (hq : t.seqs = s.seqs)
    (hr : t.reports = s.reports) (hn : t.nodes = s.nodes) : Carries s t :=
  ⟨hc, hl, hq, by rw [hr]; exact List.Subset.refl _, fun p hp => ⟨p, hn ▸ hp, rfl, rfl⟩⟩

theorem refl (s : State) : Carries s s := of_eq rfl rfl rfl rfl rfl

theorem trans {s t u : State} (h : Carries s t) (h' : Carries t u) : Carries s u where
  ctxs := h'.ctxs.trans h.ctxs
  sluices := h'.sluices.trans h.sluices
  seqs := h'.seqs.trans h.seqs
  reports := List.Subset.trans h.reports h'.reports
  nodes p hp := by
    obtain ⟨q, hq, hkey, hctx⟩ := h'.nodes p hp
    obtain ⟨r, hr, hkey', hctx'⟩ := h.nodes q hq
    exact ⟨r, hr, hkey'.trans hkey, hctx'.trans hctx⟩

theorem foldl {α : Type} {f : State → α → State} (hf : ∀ s a, Carries s (f s a)) (l : List α) (s : State) :
    Carries s (l.foldl f s) := by
  induction l generalizing s with
  | nil => exact refl s
  | cons a r ih => exact (hf s a).trans (ih (f s a))

theorem of_onlyMemory {s t : State} (h : OnlyMemory s t) : Carries s t := by
  unfold OnlyMemory at h
  rw [h]
  exact of_eq rfl rfl rfl rfl rfl

theorem setPhyss (s : State) (pa : Nat) (bs : List Byte) : Carries s (s.setPhyss pa bs) := of_onlyMemory (.setPhyss s pa bs)

theorem setQ (s : State) (q : Nat) (x : HostQ) : Carries s (s.setQ q x) := of_eq rfl rfl rfl rfl rfl

theorem sendMsix (s : State) (v : Nat) : Carries s (s.sendMsix v) := of_eq rfl rfl rfl rfl rfl

theorem report (s : State) (r : Report) : Carries s (s.report r) :=
  ⟨rfl, rfl, rfl, List.subset_append_left _ _, fun p hp => ⟨p, hp, rfl, rfl⟩⟩

theorem noteTable (s : State) (ctx : Nat) (e : PlaceErr) : Carries s (s.noteTable ctx e) := by
  unfold State.noteTable State.tableError
  split
  · exact report s _
  · exact refl s

theorem addSignal (s : State) (ctx va : Nat) (v : Int) : Carries s (s.addSignal ctx va v) := by
  unfold State.addSignal
  split
  · exact refl s
  · split
    · exact of_onlyMemory (.setRaws s _ _)
    · exact refl s

theorem writeProg (s : State) (q : Nat) : Carries s (s.writeProg q) := by
  unfold State.writeProg
  dsimp only
  split
  · exact refl s
  · exact setPhyss s _ _

theorem flushOwed (s : State) (h fuel : Nat) : Carries s (s.flushOwed h fuel) := by
  induction fuel generalizing s with
  | zero => exact refl s
  | succ fuel ih =>
    simp only [State.flushOwed]
    split
    · exact refl s
    · split
      · exact refl s
      · refine trans ?_ (ih _)
        refine trans ?_ (sendMsix _ _)
        refine trans ?_ (writeProg _ _)
        refine trans ?_ (setQ _ _ _)
        exact (setPhyss s _ _).trans (of_eq rfl rfl rfl rfl rfl)

theorem owe (s : State) (h src ctx : Nat) (bytes : List Byte) : Carries s (s.owe h src ctx bytes) :=
  (setQ s h _).trans (flushOwed _ h _)

theorem handler (s : State) (q cause id entry word req avail : Nat) :
    Carries s (s.handler q cause id entry word req avail) := by
  unfold State.handler
  dsimp only
  split
  · exact (owe s _ _ _ _).trans (setQ _ _ _)
  · exact owe s _ _ _ _

theorem putRecord (s : State) (ctx q id entry va : Nat) (bs : List Byte) : Carries s (s.putRecord ctx q id entry va bs) := by
  unfold State.putRecord
  split
  · exact refl s
  · split
    next t ht => exact of_onlyMemory (State.distWrite_ok ht)
    next e _ => exact (noteTable s ctx e).trans (handler _ _ _ _ _ _ _ _)

theorem packetDone (s : State) (q entry : Nat) : Carries s (s.packetDone q entry) := by
  unfold State.packetDone
  dsimp only
  split
  · exact refl s
  · have hprog := fun x => (setQ s q x).trans (writeProg (s.setQ q x) q)
    split
    · exact (hprog _).trans (sendMsix _ _)
    · exact hprog _

theorem completePacket (s : State) (q entry : Nat) (failed : Bool) : Carries s (s.completePacket q entry failed) := by
  unfold State.completePacket
  split
  · exact refl s
  · exact (addSignal s _ _ _).trans (packetDone _ _ _)

theorem abortRest (s : State) (q fuel : Nat) : Carries s (s.abortRest q fuel) := by
  induction fuel generalizing s with
  | zero => exact refl s
  | succ fuel ih =>
    simp only [State.abortRest]
    split
    · exact refl s
    · split
      · exact (setQ s q _).trans (ih _)
      · refine trans (trans ?_ (completePacket _ _ _ _)) (ih _)
        split
        · exact (setQ s q _).trans (putRecord _ _ _ _ _ _ _)
        · exact setQ s q _

theorem abortQueue (s : State) (q entry : Nat) : Carries s (s.abortQueue q entry) :=
  ((completePacket s q entry true).trans (abortRest _ q _)).trans (setQ _ _ _)

end Carries

/-! ## The completion of a node (16_distributor.md R298) -/

/-- The abort of a FAILED node's queue: its HANDLER's cause and amounts are free values (log entry 52). -/
theorem State.abortByNode_eq (s : State) (x : Node) :
    s.abortByNode x = (({ s with free := s.free + 1 }).abortQueue x.queue x.entry).handler x.queue
      ((Config.nodeHandler s.free 0).toNat % 65536) x.id x.entry (Config.nodeHandler s.free 1).toNat
      (Config.nodeHandler s.free 2).toNat (Config.nodeHandler s.free 3).toNat := by
  unfold State.abortByNode
  dsimp only [State.takeFree]

theorem Carries.abortByNode (s : State) (x : Node) : Carries s (s.abortByNode x) := by
  rw [State.abortByNode_eq]
  have hfree : Carries s { s with free := s.free + 1 } := of_eq rfl rfl rfl rfl rfl
  exact (hfree.trans (abortQueue _ _ _)).trans (handler _ _ _ _ _ _ _ _)

theorem State.removeNode_lcores (s : State) (n : Nat) : (s.removeNode n).lcores = s.lcores.filter fun p => p.2.node != n := by
  simp only [State.removeNode, List.partition_eq_filter_filter]
  rfl

theorem State.removeNode_retired (s : State) (n : Nat) :
    (s.removeNode n).retired = (s.lcores.filter fun p => p.2.node == n).foldl (fun (m : SMap LCore) p => m.ins p.1 p.2)
      (s.retired.filter fun p => p.2.node != n) := by
  simp only [State.removeNode, List.partition_eq_filter_filter]

theorem State.removeNode_nodes (s : State) (n : Nat) :
    (s.removeNode n).nodes = (s.nodes.del n).mapV fun y => { y with preds := y.preds.filter (· != n) } := rfl

theorem State.mem_removeNode_lcores (s : State) (n : Nat) (p : Nat × LCore) :
    p ∈ (s.removeNode n).lcores ↔ p ∈ s.lcores ∧ p.2.node ≠ n := by
  simp [State.removeNode_lcores]

/-- The logical cores of the node that leaves stay as they ended. -/
theorem State.removeNode_retired_at? {s : State} {n k : Nat} {l : LCore} (hk : s.lcores.at? k = some l) (hl : l.node = n)
    (hs : s.lcores.sorted = true) : (s.removeNode n).retired.at? k = some l := by
  rw [State.removeNode_retired]
  refine SMap.at?_foldl_ins _ _ k l (fun p hp hpk => ?_) (.inr ?_)
  · have hat := SMap.at?_of_mem_sorted hs (List.mem_filter.mp hp).1
    rw [hpk, hk] at hat
    exact (Option.some.inj hat).symm
  · exact List.mem_filter.mpr ⟨SMap.mem_of_at? hk, by simp [hl]⟩

theorem State.removeNode_at?_same (s : State) (n : Nat) : (s.removeNode n).nodes.at? n = none := by
  rw [State.removeNode_nodes, SMap.at?_mapV, SMap.at?_del_same]
  rfl

theorem State.removeNode_at?_other {s : State} {n i : Nat} {y : Node} (hi : i ≠ n) (hy : s.nodes.at? i = some y) :
    (s.removeNode n).nodes.at? i = some { y with preds := y.preds.filter (· ≠ n) } := by
  rw [State.removeNode_nodes, SMap.at?_mapV, SMap.at?_del_other _ hi, hy, Option.map_some]
  congr 3
  funext p
  exact Bool.eq_iff_iff.mpr (by simp)

/-- A node that is left is another one, of its context as before. -/
theorem State.removeNode_mem {s : State} {n : Nat} {p : Nat × Node} (hp : p ∈ (s.removeNode n).nodes) :
    p.1 ≠ n ∧ ∃ q ∈ s.nodes, q.1 = p.1 ∧ q.2.ctx = p.2.ctx := by
  obtain ⟨y, hy, hpy⟩ := SMap.exists_of_mem_mapV (State.removeNode_nodes s n ▸ hp)
  obtain ⟨hmem, hne⟩ := SMap.mem_del_iff.mp hy
  exact ⟨hne, (p.1, y), hmem, rfl, by rw [hpy]⟩

theorem Carries.removeNode (s : State) (n : Nat) : Carries s (s.removeNode n) :=
  ⟨rfl, rfl, rfl, List.Subset.refl _, fun _ hp => (State.removeNode_mem hp).2⟩

/-- A node of gang `g` of queue `q` after a member has completed without a dispatch (log entry 53). -/
def Node.lessOne (g q : Nat) (y : Node) : Node :=
  if y.gang == some g && y.queue == q then { y with gangSize := y.gangSize - 1 } else y

theorem Node.lessOne_ctx (g q : Nat) (y : Node) : (y.lessOne g q).ctx = y.ctx := by
  unfold Node.lessOne
  split <;> rfl

theorem State.leaveGang_stays {s : State} {x : Node} (h : x.gang = none ∨ x.dispatched = true) : s.leaveGang x = s := by
  unfold State.leaveGang
  split
  · rfl
  next g hg =>
    have hd : x.dispatched = true := h.resolve_left (by simp [hg])
    rw [if_pos hd]

/-- Node `x` of gang `g` completes without a dispatch: the other members, and the count of its queue's reader, change. -/
theorem State.leaveGang_leaves {s : State} {x : Node} {g : Nat} (hg : x.gang = some g) (hd : x.dispatched = false) :
    s.leaveGang x = { s with nodes := s.nodes.mapV (Node.lessOne g x.queue), queues := (s.leaveGang x).queues } := by
  simp only [State.leaveGang, hg, hd, Bool.false_eq_true, if_false]
  split
  · split <;> rfl
  · rfl

theorem State.leaveGang_nodes {s : State} {x : Node} {g : Nat} (hg : x.gang = some g) (hd : x.dispatched = false) :
    (s.leaveGang x).nodes = s.nodes.mapV (Node.lessOne g x.queue) := by
  rw [State.leaveGang_leaves hg hd]

theorem Carries.leaveGang (s : State) (x : Node) : Carries s (s.leaveGang x) := by
  by_cases h : x.gang = none ∨ x.dispatched = true
  · rw [State.leaveGang_stays h]
    exact refl s
  · obtain ⟨hg, hd⟩ := not_or.mp h
    obtain ⟨g, hg⟩ := Option.ne_none_iff_exists'.mp hg
    rw [State.leaveGang_leaves hg (Bool.eq_false_iff.mpr hd)]
    refine ⟨rfl, rfl, rfl, List.Subset.refl _, fun p hp => ?_⟩
    obtain ⟨y, hy, hpy⟩ := SMap.exists_of_mem_mapV hp
    exact ⟨(p.1, y), hy, rfl, by rw [hpy, Node.lessOne_ctx]⟩

/-- The record of node `n` is written, it leaves the pool and its gang; then its csig moves, or its packet completes or aborts
its queue. -/
theorem State.completeNode_eq {s : State} {n : Nat} {x : Node} (status cause : Nat) (hx : s.nodes.at? n = some x) :
    s.completeNode n status cause =
      (let s1 := s.putRecord x.ctx x.queue x.id x.entry (lRecord x.image) (recordIs s n x status cause)
       let s2 := (s1.removeNode n).leaveGang x
       if x.origin / 4 % 2 = 1 then s2.addSignal x.ctx (lCsig x.image) (if status = 3 then -(2 ^ 32) else -1)
       else if status = 3 ∧ x.origin % 2 = 1 then s2.abortByNode x
       else s2.completePacket x.queue x.entry (status == 3)) := by
  simp only [State.completeNode, hx, beq_iff_eq, Bool.and_eq_true]
  rfl

theorem State.completeNode_none {s : State} {n : Nat} (status cause : Nat) (hn : s.nodes.at? n = none) :
    s.completeNode n status cause = s := by
  simp only [State.completeNode, hn]

/-- A completion carries on from the state in which its node has left the pool. -/
theorem State.completeNode_carries_removed {s : State} {n : Nat} {x : Node} (status cause : Nat) (hx : s.nodes.at? n = some x) :
    ∃ t, Carries s t ∧ Carries (t.removeNode n) (s.completeNode n status cause) := by
  rw [State.completeNode_eq status cause hx]
  refine ⟨s.putRecord x.ctx x.queue x.id x.entry (lRecord x.image) (recordIs s n x status cause),
    Carries.putRecord s _ _ _ _ _ _, (Carries.leaveGang _ x).trans ?_⟩
  dsimp only
  split
  · exact Carries.addSignal _ _ _ _
  · split
    · exact Carries.abortByNode _ _
    · exact Carries.completePacket _ _ _ _

theorem Carries.completeNode (s : State) (n status cause : Nat) : Carries s (s.completeNode n status cause) := by
  cases hx : s.nodes.at? n with
  | none =>
    rw [State.completeNode_none status cause hx]
    exact refl s
  | some x =>
    obtain ⟨t, hst, ht⟩ := State.completeNode_carries_removed status cause hx
    exact (hst.trans (removeNode t n)).trans ht

/-- Node `n` is not of the pool after its completion. -/
theorem State.completeNode_removes (s : State) (n status cause : Nat) : ∀ p ∈ (s.completeNode n status cause).nodes, p.1 ≠ n := by
  intro p hp
  cases hx : s.nodes.at? n with
  | none =>
    rw [State.completeNode_none status cause hx] at hp
    rintro rfl
    exact SMap.at?_ne_none_of_mem hp hx
  | some x =>
    obtain ⟨t, _, ht⟩ := State.completeNode_carries_removed status cause hx
    obtain ⟨q, hq, hkey, _⟩ := ht.nodes p hp
    rw [← hkey]
    exact (State.removeNode_mem hq).1

/-- A listed node changes, in its context. -/
theorem Carries.setNode {s : State} {n : Nat} {x y : Node} (hx : (n, x) ∈ s.nodes) (hy : y.ctx = x.ctx) :
    Carries s (s.setNode n y) := by
  refine ⟨rfl, rfl, rfl, List.Subset.refl _, fun p hp => ?_⟩
  rcases SMap.mem_ins hp with rfl | hp
  · exact ⟨(n, x), hx, rfl, hy.symm⟩
  · exact ⟨p, hp, rfl, rfl⟩

theorem Carries.settleNodes (s : State) (fuel : Nat) : Carries s (s.settleNodes fuel) := by
  induction fuel generalizing s with
  | zero => exact refl s
  | succ fuel ih =>
    simp only [State.settleNodes]
    split
    · exact refl s
    next n x hfind =>
      have hmem := List.mem_of_find?_eq_some hfind
      split
      · exact (setNode (y := { x with readyAt := some s.cycle.toNat }) hmem rfl).trans (ih _)
      · split
        · exact ((noteTable s _ _).trans (completeNode _ _ _ _)).trans (ih _)
        next bs t hread =>
          have hmark := State.distRead_ok hread
          have hnodes : t.nodes = s.nodes := by rw [hmark]
          have hset := (of_onlyMemory hmark).trans
            (setNode (x := x) (y := { x with pred := some (ofBytes bs), readyAt := some s.cycle.toNat }) (hnodes ▸ hmem) rfl)
          split
          · exact (hset.trans (completeNode _ _ _ _)).trans (ih _)
          · exact hset.trans (ih _)

theorem Carries.settle (s : State) : Carries s s.settle := settleNodes s 8192

end Sys2Proof.Machine

/-! The failure of a context, completion and power as events (16_distributor.md R297, R298; 17_collectives.md R314). -/

namespace Sys2Proof.Machine

open Sys2Proof.Spec

/-! ## The failure of a context (16_distributor.md R298, 17_collectives.md R314) -/

theorem setFld_top_toNat (w : Word) : (setFld w 63 62 0).toNat = w.toNat % 2 ^ 62 := by
  have hw := w.isLt
  simp only [setFld, fld, toW, BitVec.toNat_ofNat]
  omega

theorem setFld_bit63 (w : Word) : (setFld w 63 63 0).getLsbD 63 = false := by
  have hw := w.isLt
  have hval : (setFld w 63 63 0).toNat = w.toNat % 2 ^ 63 := by
    simp only [setFld, fld, toW, BitVec.toNat_ofNat]
    omega
  rw [BitVec.getLsbD, hval]
  exact Nat.testBit_lt_two_pow (Nat.mod_lt _ (by decide))

/-- Every entry of a cleared range table has V clear. -/
theorem clearRanges_bit63 (m : SMap Word) (r : Nat) : ((clearRanges m).atD (3 * r) 0).getLsbD 63 = false := by
  rcases SMap.atD_eq_or_mem (clearRanges m) (3 * r) 0 with h | h
  · rw [h]
    decide
  · obtain ⟨p, _, hp⟩ := List.mem_filterMap.mp h
    obtain ⟨_, hp⟩ := Option.ite_none_left_eq_some.mp hp
    obtain ⟨hkey, hval⟩ := Prod.mk.inj (Option.some.inj hp)
    rw [← hval, hkey, if_pos (Nat.mul_mod_right 3 r)]
    exact setFld_bit63 _

/-- Entry `e` of the sequence table is freed in `t`, if in `s` it is of context `ctx`. -/
def State.freeSeq (s : State) (ctx : Nat) (t : State) (e : Nat) : State :=
  if wf (s.seqWord e 0) 63 62 ≠ 0 ∧ wf (s.seqWord e 0) 15 0 = ctx then
    t.setSeqWord e 0 (setFld (s.seqWord e 0) 63 62 0) else t

theorem State.freeSeq_frame (s : State) (ctx : Nat) (t : State) (e : Nat) :
    s.freeSeq ctx t e = { t with seqs := (s.freeSeq ctx t e).seqs } := by
  unfold State.freeSeq
  split <;> rfl

theorem State.freeSeqs_frame (s : State) (ctx : Nat) (l : List Nat) (t : State) :
    l.foldl (s.freeSeq ctx) t = { t with seqs := (l.foldl (s.freeSeq ctx) t).seqs } := by
  induction l generalizing t with
  | nil => rfl
  | cons e r ih => rw [List.foldl_cons, ih, State.freeSeq_frame]

theorem State.freeSeq_other (s : State) (ctx : Nat) (t : State) {e d : Nat} (h : d ≠ e) :
    (s.freeSeq ctx t e).seqWord d 0 = t.seqWord d 0 := by
  unfold State.freeSeq
  split
  · exact SMap.atD_put_other _ _ _ (by omega)
  · rfl

/-- Entry `e` is free or of another context. -/
def SeqFreed (ctx e : Nat) (t : State) : Prop := (t.seqWord e 0).toNat / 2 ^ 62 = 0 ∨ (t.seqWord e 0).toNat % 65536 ≠ ctx

theorem State.freeSeq_same {s t : State} {ctx e : Nat} (h : t.seqWord e 0 = s.seqWord e 0) :
    SeqFreed ctx e (s.freeSeq ctx t e) := by
  unfold State.freeSeq SeqFreed
  split
  · left
    rw [State.setSeqWord, State.seqWord, SMap.atD_put_same, setFld_top_toNat]
    omega
  next hnot =>
    rw [h]
    simp only [wf, fld] at hnot
    have hw := (s.seqWord e 0).isLt
    omega

/-- Freeing the entries of a list frees each of them. -/
theorem State.freeSeqs_freed {s : State} {ctx e : Nat} {l : List Nat} (hl : l.Nodup) (he : e ∈ l) (t : State)
    (ht : ∀ d ∈ l, t.seqWord d 0 = s.seqWord d 0) : SeqFreed ctx e (l.foldl (s.freeSeq ctx) t) := by
  induction l generalizing t with
  | nil => cases he
  | cons d r ih =>
    obtain ⟨hd, hr⟩ := List.nodup_cons.mp hl
    rw [List.foldl_cons]
    rcases List.mem_cons.mp he with rfl | her
    · have hkeep := foldl_keeps (s.freeSeq ctx) (fun u => u.seqWord e 0) r (s.freeSeq ctx t e) fun b hb u =>
        State.freeSeq_other s ctx u (ne_of_mem_of_not_mem hb hd).symm
      unfold SeqFreed
      rw [hkeep]
      exact State.freeSeq_same (ht e List.mem_cons_self)
    · refine ih hr her _ fun b hb => ?_
      rw [State.freeSeq_other s ctx t (ne_of_mem_of_not_mem hb hd)]
      exact ht b (List.mem_cons_of_mem _ hb)

/-- Completing the nodes `l` takes each of them from the pool. -/
theorem State.completeNodes_removes (status cause : Nat) (l : List Nat) (s : State) :
    ∀ p ∈ (l.foldl (fun t n => t.completeNode n status cause) s).nodes, p.1 ∉ l := by
  induction l generalizing s with
  | nil => simp
  | cons n r ih =>
    intro p hp hmem
    rcases List.mem_cons.mp hmem with hn | hr
    · have hcarry := Carries.foldl (fun t n => Carries.completeNode t n status cause) r (s.completeNode n status cause)
      obtain ⟨q, hq, hkey, _⟩ := hcarry.nodes p hp
      exact State.completeNode_removes s n status cause q hq (hkey.trans hn)
    · exact ih _ p hp hr

/-- What a failing context loses at once: its descriptors, the V of its ranges, what is staged and what waits. -/
def Ctx.fail (c : Ctx) : Ctx :=
  { c with tns := [], ranges := clearRanges c.ranges, stage := [], finished := [], claims := [], waiting := [], failed := true }

/-- Context `ctx` marked as failed, its logical cores off their physical cores. -/
def State.markFailed (s : State) (ctx : Nat) : State :=
  let s1 := (s.lcores.keysWhere fun l => l.ctx == ctx).foldl State.evictLcore s
  s1.setCtx ctx (s1.ctxAt ctx).fail

/-- The nodes of context `ctx` complete as FAILED. -/
def State.failNodes (s : State) (ctx cause : Nat) : State :=
  (s.nodes.keysWhere fun x => x.ctx == ctx).foldl (fun t n => t.completeNode n 3 cause) s

/-- A Sluice core bound to context `ctx` stops. -/
def Sluice.stopFor (ctx : Nat) (y : Sluice) : Sluice := if y.bound && y.ctx == ctx then { y with running := false } else y

/-- The sequences of context `ctx` are freed, its Sluice cores stop, and firmware is told. -/
def State.dropCtx (s : State) (ctx cause : Nat) : State :=
  let s1 := (List.range 4096).foldl (s.freeSeq ctx) s
  { s1 with sluices := s1.sluices.mapV (Sluice.stopFor ctx) }.report (.contextFailure ctx cause)

theorem State.failCtx_eq (s : State) (ctx cause : Nat) :
    s.failCtx ctx cause = (((s.markFailed ctx).failNodes ctx cause).dropCtx ctx cause).settle := rfl

theorem State.markFailed_ctxAt (s : State) (ctx : Nat) : ∃ c : Ctx, (s.markFailed ctx).ctxAt ctx = c.fail := by
  refine ⟨((s.lcores.keysWhere fun l => l.ctx == ctx).foldl State.evictLcore s).ctxAt ctx, ?_⟩
  rw [State.markFailed, State.ctxAt, State.setCtx, SMap.at?_ins_same]
  rfl

theorem Carries.failNodes (s : State) (ctx cause : Nat) : Carries s (s.failNodes ctx cause) :=
  foldl (fun t n => completeNode t n 3 cause) _ s

theorem State.failNodes_ctx (s : State) (ctx cause : Nat) : ∀ p ∈ (s.failNodes ctx cause).nodes, p.2.ctx ≠ ctx := by
  intro p hp hctx
  obtain ⟨q, hq, hkey, hqctx⟩ := (Carries.failNodes s ctx cause).nodes p hp
  refine State.completeNodes_removes 3 cause _ s p hp ?_
  rw [← hkey]
  exact List.mem_map_of_mem (List.mem_filter.mpr ⟨hq, by simp [hqctx, hctx]⟩)

theorem State.dropCtx_frame (s : State) (ctx cause : Nat) :
    s.dropCtx ctx cause = { s with
      seqs := ((List.range 4096).foldl (s.freeSeq ctx) s).seqs, sluices := s.sluices.mapV (Sluice.stopFor ctx)
      reports := s.reports ++ [.contextFailure ctx cause] } := by
  rw [State.dropCtx, State.freeSeqs_frame, State.report]

theorem State.dropCtx_seqs (s : State) (ctx cause : Nat) :
    (s.dropCtx ctx cause).seqs = ((List.range 4096).foldl (s.freeSeq ctx) s).seqs := by
  rw [State.dropCtx_frame]

theorem State.dropCtx_seqFreed (s : State) (ctx cause : Nat) {e : Nat} (he : e < 4096) : SeqFreed ctx e (s.dropCtx ctx cause) := by
  have hfreed : SeqFreed ctx e ((List.range 4096).foldl (s.freeSeq ctx) s) :=
    State.freeSeqs_freed List.nodup_range (List.mem_range.mpr he) s fun _ _ => rfl
  unfold SeqFreed State.seqWord at hfreed ⊢
  rw [State.dropCtx_seqs]
  exact hfreed

theorem Sluice.stopFor_running {ctx : Nat} {y : Sluice} (hb : (y.stopFor ctx).bound = true) (hc : (y.stopFor ctx).ctx = ctx) :
    (y.stopFor ctx).running = false := by
  unfold Sluice.stopFor at hb hc ⊢
  by_cases h : (y.bound && y.ctx == ctx) = true
  · rw [if_pos h]
  · rw [if_neg h] at hb hc
    exact absurd (by simp [hb, hc]) h

theorem contextFailure_happens {s : State} {ctx : Nat} {x : Ctx} (cause : Nat) (hx : s.ctxs.at? ctx = some x)
    (hf : x.failed = false) :
    Happens (.contextFailure ctx cause) s (s.failCtx ctx cause) := by
  show execContextFailure ctx cause s = _
  simp only [execContextFailure, hx, hf, Bool.false_eq_true, if_false]
  rfl

/-- What a context that has failed has lost. -/
theorem State.failCtx_loses (s : State) (ctx cause : Nat) :
    let t := s.failCtx ctx cause
    (t.ctxAt ctx).failed = true ∧ (t.ctxAt ctx).tns = [] ∧ (t.ctxAt ctx).stage = [] ∧
    (∀ r, r < 64 → ((t.ctxAt ctx).ranges.atD (3 * r) 0).getLsbD 63 = false) ∧ (∀ p ∈ t.nodes, p.2.ctx ≠ ctx) ∧
    (∀ p ∈ t.sluices, p.2.bound = true → p.2.ctx = ctx → p.2.running = false) ∧
    (∀ e, e < 4096 → SeqFreed ctx e t) ∧ .contextFailure ctx cause ∈ t.reports := by
  rw [State.failCtx_eq]
  intro t
  have hsettle := Carries.settle (((s.markFailed ctx).failNodes ctx cause).dropCtx ctx cause)
  have hfail := Carries.failNodes (s.markFailed ctx) ctx cause
  have hdrop := State.dropCtx_frame ((s.markFailed ctx).failNodes ctx cause) ctx cause
  obtain ⟨c, hc⟩ := s.markFailed_ctxAt ctx
  have hctx : t.ctxAt ctx = c.fail := by
    rw [← hc, State.ctxAt, State.ctxAt, hsettle.ctxs, hdrop, hfail.ctxs]
  refine ⟨by rw [hctx]; rfl, by rw [hctx]; rfl, by rw [hctx]; rfl, fun r _ => ?_, fun p hp => ?_, fun p hp hb hpc => ?_,
    fun e he => ?_, hsettle.reports ?_⟩
  · rw [hctx]
    exact clearRanges_bit63 c.ranges r
  · obtain ⟨q, hq, _, hqctx⟩ := hsettle.nodes p hp
    rw [hdrop] at hq
    exact hqctx ▸ State.failNodes_ctx _ ctx cause q hq
  · rw [hsettle.sluices, hdrop] at hp
    obtain ⟨y, _, hy⟩ := SMap.exists_of_mem_mapV hp
    rw [hy] at hb hpc ⊢
    exact Sluice.stopFor_running hb hpc
  · have hfreed := State.dropCtx_seqFreed ((s.markFailed ctx).failNodes ctx cause) ctx cause he
    unfold SeqFreed State.seqWord at hfreed ⊢
    rwa [hsettle.seqs]
  · rw [hdrop]
    exact List.mem_append_right _ List.mem_cons_self

/-! ## Completion and power as events -/

theorem State.teamHalted_iff (s : State) (n : Nat) :
    s.teamHalted n = true ↔ ∀ p ∈ s.lcores, p.2.node = n → p.2.ended = true := by
  rw [State.teamHalted, List.all_eq_true]
  refine forall₂_congr fun p _ => ?_
  by_cases h : p.2.node = n <;> simp [h]

theorem Ctx.halted_eq_false_iff (c : Ctx) : c.halted = false ↔ ¬ Stops c := by
  unfold Ctx.halted Stops
  cases c.freeze <;> simp [and_assoc]

theorem nodeCompletion_happens {s : State} {n : Nat} {x : Node} (hx : s.nodes.at? n = some x) (hd : x.dispatched = true)
    (hteam : ∀ p ∈ s.lcores, p.2.node = n → p.2.ended = true) (hstop : ¬ Stops (s.ctxAt x.ctx)) :
    Happens (.nodeCompletion n) s (s.completeNode n 1 0).settle := by
  show execNodeCompletion n s = _
  simp only [execNodeCompletion, hx, hd, (State.teamHalted_iff s n).mpr hteam, (Ctx.halted_eq_false_iff _).mpr hstop,
    and_self, if_true]
  rfl

theorem State.putRecord_error {s : State} {ctx q id entry va : Nat} {bs : List Byte} {e : PlaceErr} (hva : va ≠ 0)
    (he : s.distWrite ctx va bs = .error e) :
    s.putRecord ctx q id entry va bs =
      (if e.table then s.report (.pageTable ctx (BitVec.ofNat 64 e.addr)) else s).handler q 8 id entry e.cause va 0 := by
  simp only [State.putRecord, hva, he, if_false]
  rfl

theorem State.putRecord_ok {s t : State} {ctx q id entry va : Nat} {bs : List Byte} (hva : va ≠ 0)
    (ht : s.distWrite ctx va bs = .ok t) : s.putRecord ctx q id entry va bs = t := by
  simp only [State.putRecord, hva, ht, if_false]

theorem State.leaveGang_at? {s : State} {x y : Node} {g i : Nat} (hg : x.gang = some g) (hd : x.dispatched = false)
    (hy : s.nodes.at? i = some y) :
    (s.leaveGang x).nodes.at? i =
      some { y with gangSize := if y.gang = some g ∧ y.queue = x.queue then y.gangSize - 1 else y.gangSize } := by
  rw [State.leaveGang_nodes hg hd, SMap.at?_mapV, hy, Option.map_some, Node.lessOne]
  by_cases h : y.gang = some g ∧ y.queue = x.queue <;> simp [h]

/-- The largest of the floors lies below what every floor lies below. -/
theorem foldl_max_lt {α : Type} (f : α → Nat) (l : List α) (a b : Nat) (ha : a < b) (hl : ∀ x ∈ l, f x < b) :
    l.foldl (fun a x => max a (f x)) a < b := by
  induction l generalizing a with
  | nil => exact ha
  | cons x r ih => exact ih _ (Nat.max_lt.mpr ⟨ha, hl x List.mem_cons_self⟩) fun y hy => hl y (List.mem_cons_of_mem _ hy)

theorem powerGateExpiry_happens {s : State} {c : Nat} (hp : (s.coreAt c).power = .clockGated) (hr : (s.coreAt c).rot = [])
    (hw : 330000 ≤ (s.cycle - BitVec.ofNat 64 (s.coreAt c).emptied).toNat)
    (hfloor : ∀ x ∈ s.ctxs, x.2.floor < ((List.range 256).filter fun d => (s.coreAt d).power != .powerGated).length)
    (hkept : 0 < ((List.range 256).filter fun d => (s.coreAt d).power != .powerGated).length) :
    Happens (.powerGateExpiry c) s (coreSet s c { s.coreAt c with power := .powerGated }) := by
  show execPowerGateExpiry c s = _
  rw [execPowerGateExpiry]
  exact if_pos ⟨hp, hr, hw, foldl_max_lt (fun x : Nat × Ctx => x.2.floor) s.ctxs 0 _ hkept hfloor⟩

theorem coreWakeDone_happens {s : State} {c : Nat} (hp : (s.coreAt c).power = .waking) (hw : (s.coreAt c).wake = 0) :
    Happens (.coreWakeDone c) s (coreSet s c { s.coreAt c with power := .awake }) := by
  show execCoreWakeDone c s = _
  rw [execCoreWakeDone]
  exact if_pos ⟨hp, hw⟩

theorem completionEvents : Sys2Proof.Parts.CompletionEvents := by
  refine ⟨fun s n x hx hd hteam hstop => nodeCompletion_happens hx hd hteam hstop,
    fun s n x status cause hx => State.completeNode_eq status cause hx,
    fun s ctx q id entry va bs => ⟨fun hva => if_pos hva, fun s1 hva ht => State.putRecord_ok hva ht,
      fun e hva he => State.putRecord_error hva he⟩,
    fun s n => ⟨rfl, State.mem_removeNode_lcores s n, fun k l hk hl hs => State.removeNode_retired_at? hk hl hs,
      State.removeNode_at?_same s n, fun i y hi hy => State.removeNode_at?_other hi hy⟩,
    fun s x => ⟨State.leaveGang_stays, fun g i y hg hd hy => ⟨_, State.leaveGang_at? hg hd hy, rfl⟩⟩,
    fun s x => ⟨_, _, _, _, Nat.mod_lt _ (by decide), State.abortByNode_eq s x⟩,
    fun s ctx cause x hx hf => ⟨contextFailure_happens cause hx hf, State.failCtx_loses s ctx cause⟩,
    fun s c hp hr hw hfloor hkept => powerGateExpiry_happens hp hr hw hfloor hkept,
    fun s c hp hw => coreWakeDone_happens hp hw⟩

/-- Settles O47, each clause by the lemma that says what the operation of the distributor does; what the failure of a context
leaves follows from `Carries`, which every later completion keeps. -/
theorem distributorEvents : Obligations.DistributorEvents := ⟨dispatchEvents, completionEvents⟩

end Sys2Proof.Machine

/-! The inactive bank: where a word of the record stands, that what is written reads back, and `bank.rd`, `bank.wr` and `cyc`
(03_registers.md R73, 07_traps.md R145, 18_context_image.md R330). -/

namespace Sys2Proof.Machine

open Sys2Proof.Safety
open Sys2Proof.Spec

/-! ## Words of the record that the state has a place for (18_context_image.md Table 3) -/

/-- Registers, descriptors and everything else below the occupancies, and the rings and the local-store map, are always there. -/
theorem LCore.takesWord_fixed (l : LCore) {o : Nat} (v : Word) (h : o < 0x538 ∨ 0x590 ≤ o ∧ o < 0x900) :
    l.takesWord o v = true := by
  rcases h with h | ⟨hlo, hhi⟩
  · simp (disch := omega) only [LCore.takesWord, ↓if_pos]
  · simp (disch := omega) only [LCore.takesWord, ↓if_pos, ↓if_neg]

theorem ruling_eq_false {o : Nat} (h : o < 0x528 ∨ 0x590 ≤ o ∧ o < 0x900) : ruling o = false := by
  simp only [ruling, decide_eq_false_iff_not]
  omega

/-- A word that has a place and rules over no slot is written to that place. -/
theorem LCore.setRecWord_fixed (l : LCore) {o : Nat} (v : Word) (h : o < 0x528 ∨ 0x590 ≤ o ∧ o < 0x900) :
    l.setRecWord o v = { l.setStateWord o v with spare := l.spare.del o } := by
  rw [LCore.setRecWord, if_pos (l.takesWord_fixed v (by omega)), ruling_eq_false h]
  rfl

theorem LCore.recWord_of_spare_none {l : LCore} {o : Nat} (base : Nat) (h : l.spare.at? o = none) :
    l.recWord base o = l.stateWord base o := by
  rw [LCore.recWord, h]

theorem LCore.recWord_setRecWord_fixed (l : LCore) (base : Nat) {o : Nat} (v : Word) (h : o < 0x528 ∨ 0x590 ≤ o ∧ o < 0x900) :
    (l.setRecWord o v).recWord base o =
      ({ l.setStateWord o v with spare := l.spare.del o } : LCore).stateWord base o := by
  rw [l.setRecWord_fixed v h, LCore.recWord_of_spare_none base (SMap.at?_del_same ..)]

/-! ## Halves of descriptors -/

theorem getHalf_setHalf (d : BitVec 128) (n : Nat) (v : Word) : getHalf (setHalf d n v) n = v := by
  have hd := d.isLt
  have hv := v.isLt
  apply BitVec.eq_of_toNat_eq
  by_cases hn : n = 0 <;> simp only [getHalf, setHalf, toW, hn, if_true, if_false, BitVec.toNat_ofNat] <;> omega

theorem getHalf_setDescHalf (d : BitVec 128) (n : Nat) (v : Word) :
    getHalf (setDescHalf d n v) n = if n = 0 then v else v &&& 0x3FFFFFF := getHalf_setHalf ..

theorem getHalf_setRingHalf (d : BitVec 128) (n : Nat) (v : Word) :
    getHalf (setRingHalf d n v) n = if n = 0 then v &&& ~~~ 0x7F8000 else v := getHalf_setHalf ..

/-! ## Registers -/

theorem LCore.stateWord_apReg (l : LCore) (base : Nat) {o : Nat} (hlo : 0x20 ≤ o) (hhi : o < 0xD8) :
    l.stateWord base o = l.ap.regs.atD (o / 8 - 3) 0 := by
  simp (disch := omega) only [LCore.stateWord, ↓if_pos, ↓if_neg]

theorem LCore.setStateWord_apReg (l : LCore) {o : Nat} (v : Word) (hlo : 0x20 ≤ o) (hhi : o < 0xD8) :
    l.setStateWord o v = { l with ap := { l.ap with regs := l.ap.regs.put (o / 8 - 3) v 0 } } := by
  simp (disch := omega) only [LCore.setStateWord, ↓if_pos, ↓if_neg]

theorem LCore.stateWord_epReg (l : LCore) (base : Nat) {o : Nat} (hlo : 0xE0 ≤ o) (hhi : o < 0x198) :
    l.stateWord base o = l.ep.regs.atD (o / 8 - 27) 0 := by
  simp (disch := omega) only [LCore.stateWord, ↓if_pos, ↓if_neg]

theorem LCore.setStateWord_epReg (l : LCore) {o : Nat} (v : Word) (hlo : 0xE0 ≤ o) (hhi : o < 0x198) :
    l.setStateWord o v = { l with ep := { l.ep with regs := l.ep.regs.put (o / 8 - 27) v 0 } } := by
  simp (disch := omega) only [LCore.setStateWord, ↓if_pos, ↓if_neg]

theorem LCore.recWord_setRecWord_apReg (l : LCore) (base : Nat) {o : Nat} (v : Word) (hlo : 0x20 ≤ o) (hhi : o < 0xD8) :
    (l.setRecWord o v).recWord base o = v := by
  rw [l.recWord_setRecWord_fixed base v (by omega), LCore.stateWord_apReg _ base hlo hhi, l.setStateWord_apReg v hlo hhi]
  exact SMap.atD_put_same ..

theorem LCore.recWord_setRecWord_epReg (l : LCore) (base : Nat) {o : Nat} (v : Word) (hlo : 0xE0 ≤ o) (hhi : o < 0x198) :
    (l.setRecWord o v).recWord base o = v := by
  rw [l.recWord_setRecWord_fixed base v (by omega), LCore.stateWord_epReg _ base hlo hhi, l.setStateWord_epReg v hlo hhi]
  exact SMap.atD_put_same ..

/-! ## Region and ring descriptors -/

theorem LCore.stateWord_desc (l : LCore) (base : Nat) {o : Nat} (hlo : 0x230 ≤ o) (hhi : o < 0x330) :
    l.stateWord base o = getHalf (l.descs.atD ((o / 8 - 70) / 2) 0) ((o / 8 - 70) % 2) := by
  simp (disch := omega) only [LCore.stateWord, ↓if_pos, ↓if_neg]

theorem LCore.setStateWord_desc (l : LCore) {o : Nat} (v : Word) (hlo : 0x230 ≤ o) (hhi : o < 0x330) :
    l.setStateWord o v = { l with
      descs := l.descs.put ((o / 8 - 70) / 2) (setDescHalf (l.descs.atD ((o / 8 - 70) / 2) 0) ((o / 8 - 70) % 2) v) 0 } := by
  simp (disch := omega) only [LCore.setStateWord, ↓if_pos, ↓if_neg]

theorem LCore.stateWord_ring (l : LCore) (base : Nat) {o : Nat} (hlo : 0x600 ≤ o) (hhi : o < 0x700) :
    l.stateWord base o = getHalf (l.rings.atD ((o / 8 - 192) / 2) 0) ((o / 8 - 192) % 2) := by
  simp (disch := omega) only [LCore.stateWord, ↓if_pos, ↓if_neg]

theorem LCore.setStateWord_ring (l : LCore) {o : Nat} (v : Word) (hlo : 0x600 ≤ o) (hhi : o < 0x700) :
    l.setStateWord o v = { l with
      rings := l.rings.put ((o / 8 - 192) / 2) (setRingHalf (l.rings.atD ((o / 8 - 192) / 2) 0) ((o / 8 - 192) % 2) v) 0 } := by
  simp (disch := omega) only [LCore.setStateWord, ↓if_pos, ↓if_neg]

/-- Bits 127:90 of a region descriptor are reserved, and read back as 0. -/
theorem LCore.recWord_setRecWord_desc (l : LCore) (base : Nat) {o : Nat} (v : Word) (hlo : 0x230 ≤ o) (hhi : o < 0x330) :
    (l.setRecWord o v).recWord base o = if (o / 8 - 70) % 2 = 0 then v else v &&& 0x3FFFFFF := by
  rw [l.recWord_setRecWord_fixed base v (by omega), LCore.stateWord_desc _ base hlo hhi, l.setStateWord_desc v hlo hhi,
    SMap.atD_put_same, getHalf_setDescHalf]

/-- Bits 22:15 of a ring descriptor are reserved, and read back as 0. -/
theorem LCore.recWord_setRecWord_ring (l : LCore) (base : Nat) {o : Nat} (v : Word) (hlo : 0x600 ≤ o) (hhi : o < 0x700) :
    (l.setRecWord o v).recWord base o = if (o / 8 - 192) % 2 = 0 then v &&& ~~~ 0x7F8000 else v := by
  rw [l.recWord_setRecWord_fixed base v (by omega), LCore.stateWord_ring _ base hlo hhi, l.setStateWord_ring v hlo hhi,
    SMap.atD_put_same, getHalf_setRingHalf]

/-! ## The instructions -/

theorem recOffsetOk_iff (o : Word) : recOffsetOk o = true ↔ o.toNat % 8 = 0 ∧ o.toNat < 32768 := by
  rw [recOffsetOk, Bool.and_eq_true, beq_iff_eq, decide_eq_true_eq]
  rfl

theorem recOffsetOk_eq_false_iff (o : Word) : recOffsetOk o = false ↔ o.toNat % 8 ≠ 0 ∨ 32768 ≤ o.toNat := by
  rw [← Bool.not_eq_true, recOffsetOk_iff]
  omega

/-- What `bank.rd` reads at offset `o` on physical core `c`: 0 in an empty bank. -/
def State.bankWord (s : State) (c o : Nat) : Word :=
  match (s.coreAt c).shadow with
  | some j => (s.lcAt j).recWord 0 o
  | none => 0

/-- What a `bank.wr` of `v` at offset `o` that has not waited leaves: an empty bank ignores it. -/
def State.setBankWord (s : State) (c o : Nat) (v : Word) : State :=
  match (s.coreAt c).shadow with
  | some j => s.setLc j ((s.lcAt j).setRecWord o v)
  | none => s

theorem useHandler_eq (srcs dsts : List Nat) : useHandler srcs dsts = handlerOnly srcs dsts := rfl

section Handler

variable {s : State} {c k d a b : Nat} (hw : s.who = some (.core false c k)) (ht : (s.lcAt k).trapMode = true)

include hw ht

theorem exec_bankRd (hi : s.issue (.core false c k) (handlerOnly [a] [d]) = .go) :
    exec (.bankRd d a) s = .next (if recOffsetOk (s.src (.core false c k) a) then
      s.commit (.core false c k) (handlerOnly [a] [d]) d (s.bankWord c (s.src (.core false c k) a).toNat) .next
      else s.illegal (.core false c k) 0) := by
  show execBankRd d a s = _
  rw [execBankRd, State.onStream_who hw]
  have hh : s.inHandler (.core false c k) = true := ht
  simp only [hh, Bool.not_true, Bool.false_eq_true, if_false]
  rw [useHandler_eq, State.issued_go hi]
  cases recOffsetOk (s.src (.core false c k) a) <;> rfl

theorem exec_bankWr (hi : s.issue (.core false c k) (handlerOnly [a, b] []) = .go) :
    exec (.bankWr a b) s = .next (if recOffsetOk (s.src (.core false c k) a) then
      if (s.coreAt c).held || (s.coreAt c).busy then s.stallOn (.core false c k) .bank
      else (if (s.lcAt k).ap.stall = some .bank then s
        else s.setBankWord c (s.src (.core false c k) a).toNat (s.src (.core false c k) b)).commit0
          (.core false c k) (handlerOnly [a, b] []) .next
      else s.illegal (.core false c k) 0) := by
  show execBankWr a b s = _
  rw [execBankWr, State.onStream_who hw]
  have hh : s.inHandler (.core false c k) = true := ht
  simp only [hh, Bool.not_true, Bool.false_eq_true, if_false]
  rw [useHandler_eq, State.issued_go hi]
  cases recOffsetOk (s.src (.core false c k) a)
  · rfl
  · cases (s.coreAt c).held || (s.coreAt c).busy
    · by_cases hst : (s.lcAt k).ap.stall = some .bank <;> cases hs : (s.coreAt c).shadow <;>
        simp [hst, hs, State.setBankWord]
    · rfl

/-- `bank.rd` of a word of the record. -/
theorem bankRd_gives (ho : (s.src (.core false c k) a).toNat % 8 = 0) (hr : (s.src (.core false c k) a).toNat < 32768) :
    Gives (.bankRd d a) s (.core false c k) (handlerOnly [a] [d]) d (s.bankWord c (s.src (.core false c k) a).toNat) .next := by
  intro _ hi
  refine ⟨_, exec_bankRd hw ht hi, ?_⟩
  rw [if_pos ((recOffsetOk_iff _).mpr ⟨ho, hr⟩)]
  exact State.commit_retired s _ _ d _ .next hi

theorem bankRd_illegal (hi : s.issue (.core false c k) (handlerOnly [a] [d]) = .go)
    (ho : (s.src (.core false c k) a).toNat % 8 ≠ 0 ∨ 32768 ≤ (s.src (.core false c k) a).toNat) :
    exec (.bankRd d a) s = .next (s.takeTrap c k ⟨1, 0, 0, false, s.cur.pc, 0⟩) := by
  rw [exec_bankRd hw ht hi, (recOffsetOk_eq_false_iff _).mpr ho]
  rfl

/-- `bank.wr` of a word of the record, when no spill holds the bank: a write that has waited is ignored. -/
theorem bankWr_givesFrom (ho : (s.src (.core false c k) a).toNat % 8 = 0) (hr : (s.src (.core false c k) a).toNat < 32768)
    (hheld : (s.coreAt c).held = false) (hbusy : (s.coreAt c).busy = false) :
    GivesFrom (if (s.lcAt k).ap.stall = some .bank then s
      else s.setBankWord c (s.src (.core false c k) a).toNat (s.src (.core false c k) b))
      (.bankWr a b) s (.core false c k) (handlerOnly [a, b] []) 0 0 .next := by
  intro _ hi
  refine ⟨_, exec_bankWr hw ht hi, ?_⟩
  rw [if_pos ((recOffsetOk_iff _).mpr ⟨ho, hr⟩), hheld, hbusy]
  exact State.commit0_retired_from hi _ 0 .next

theorem bankWr_waits (hi : s.issue (.core false c k) (handlerOnly [a, b] []) = .go)
    (ho : (s.src (.core false c k) a).toNat % 8 = 0) (hr : (s.src (.core false c k) a).toNat < 32768)
    (hbank : (s.coreAt c).held = true ∨ (s.coreAt c).busy = true) :
    ∃ t, exec (.bankWr a b) s = .next t ∧ Stalled s t (.core false c k) .bank := by
  refine ⟨_, exec_bankWr hw ht hi, ?_⟩
  rw [if_pos ((recOffsetOk_iff _).mpr ⟨ho, hr⟩), if_pos (Bool.or_eq_true_iff.mpr hbank)]
  exact State.stallOn_stalled ..

theorem bankWr_illegal (hi : s.issue (.core false c k) (handlerOnly [a, b] []) = .go)
    (ho : (s.src (.core false c k) a).toNat % 8 ≠ 0 ∨ 32768 ≤ (s.src (.core false c k) a).toNat) :
    exec (.bankWr a b) s = .next (s.takeTrap c k ⟨1, 0, 0, false, s.cur.pc, 0⟩) := by
  rw [exec_bankWr hw ht hi, (recOffsetOk_eq_false_iff _).mpr ho]
  rfl

end Handler

theorem cyc_gives {s : State} {w : Who} (q : Rill) (e : Bool) (d : Nat) (hw : s.who = some w) :
    Gives (.cyc q e d) s w (anywhere q e [] [d]) d s.cycle .next := by
  intro _ hi
  have hexec : exec (.cyc q e d) s = .next (s.issued w (anywhere q e [] [d]) (s.commit w (anywhere q e [] [d]) d s.cycle .next)) :=
    State.onStream_who hw _
  exact ⟨_, by rw [hexec, State.issued_go hi], State.commit_retired s w _ d _ .next hi⟩

/-! ## The words that the statement names -/

/-- The registers g1 to g23 of both streams in the record (18_context_image.md Table 3). -/
theorem LCore.recWord_registers (l : LCore) {n : Nat} (v : Word) (h1 : 1 ≤ n) (hn : n < 24) :
    (l.spare.at? (0x18 + 8 * n) = none → l.recWord 0 (0x18 + 8 * n) = l.ap.regs.atD n 0) ∧
    (l.spare.at? (0xD8 + 8 * n) = none → l.recWord 0 (0xD8 + 8 * n) = l.ep.regs.atD n 0) ∧
    (l.setRecWord (0x18 + 8 * n) v).recWord 0 (0x18 + 8 * n) = v ∧
    (l.setRecWord (0xD8 + 8 * n) v).recWord 0 (0xD8 + 8 * n) = v := by
  have hap : (0x18 + 8 * n) / 8 - 3 = n := by omega
  have hep : (0xD8 + 8 * n) / 8 - 27 = n := by omega
  refine ⟨fun h => ?_, fun h => ?_, l.recWord_setRecWord_apReg 0 v (by omega) (by omega),
    l.recWord_setRecWord_epReg 0 v (by omega) (by omega)⟩
  · rw [LCore.recWord_of_spare_none 0 h, l.stateWord_apReg 0 (by omega) (by omega), hap]
  · rw [LCore.recWord_of_spare_none 0 h, l.stateWord_epReg 0 (by omega) (by omega), hep]

/-- Region descriptor `n` and ring descriptor `n` in the record. -/
theorem LCore.recWord_descriptors (l : LCore) {n : Nat} (v : Word) (hn : n < 16) :
    (l.setRecWord (0x230 + 16 * n) v).recWord 0 (0x230 + 16 * n) = v ∧
    (l.setRecWord (0x238 + 16 * n) v).recWord 0 (0x238 + 16 * n) = v &&& 0x3FFFFFF ∧
    (l.setRecWord (0x600 + 16 * n) v).recWord 0 (0x600 + 16 * n) = v &&& ~~~ 0x7F8000 ∧
    (l.setRecWord (0x608 + 16 * n) v).recWord 0 (0x608 + 16 * n) = v := by
  refine ⟨?_, ?_, ?_, ?_⟩
  · rw [l.recWord_setRecWord_desc 0 v (by omega) (by omega), if_pos (by omega)]
  · rw [l.recWord_setRecWord_desc 0 v (by omega) (by omega), if_neg (by omega)]
  · rw [l.recWord_setRecWord_ring 0 v (by omega) (by omega), if_pos (by omega)]
  · rw [l.recWord_setRecWord_ring 0 v (by omega) (by omega), if_neg (by omega)]

/-- Settles O17: the instructions by what they do in a handler, and the record by where each word stands. -/
theorem bankAndCycle : Obligations.BankAndCycle := by
  refine ⟨fun s c k d a hw ht ho hr => bankRd_gives hw ht ho hr, fun s c k a b hw ht ho hr hheld hbusy hst => ?_,
    fun s c k a b hw ht ho hr => ⟨fun hbank _ hi => bankWr_waits hw ht hi ho hr hbank, fun hheld hbusy hst => ?_⟩,
    fun s c k a b hw ht _ hi ho => bankWr_illegal hw ht hi ho,
    fun l n v h1 hn => l.recWord_registers v h1 hn, fun l n v hn => l.recWord_descriptors v hn,
    fun s c k d a hw ht _ hi ho => bankRd_illegal hw ht hi ho, fun s w q e d hw => cyc_gives q e d hw⟩
  · have h := bankWr_givesFrom (b := b) hw ht ho hr hheld hbusy
    rw [if_neg hst] at h
    exact h
  · have h := bankWr_givesFrom (b := b) hw ht ho hr hheld hbusy
    rw [if_pos hst] at h
    exact h

end Sys2Proof.Machine

/-! Hand-over to the matrix array and the rotator: what a syllable's bundle asks, what keeps it waiting, and what enters the FIFO
(02_encoding.md R33, 05_matrix.md R97, R108, R109, 06_rotator.md R133). -/

namespace Sys2Proof.Machine

open Sys2Proof.Safety
open Sys2Proof.Spec

/-! ## A syllable that is handed over (02_encoding.md R33) -/

theorem State.commit0_engineUse_retired (s : State) (c k : Nat) (e : Bool) (unit : Nat) :
    Retired s (s.commit0 (.core true c k) (engineUse e unit []) .next) (.core true c k) (engineUse e unit []) 0 0 .next := by
  rw [State.commit0_eq _ _ _ 0]
  exact State.commit_core s true c k (engineUse e unit []) rfl 0 0 .next

/-- A retirement of the EP that takes no source and writes nothing, from a logical core with a command handed over. -/
theorem State.retire_retired (s : State) (c k : Nat) (l : LCore) (e : Bool) (unit : Nat) :
    Retired (s.setLc k l) ((s.setLc k l).retire (.core true c k) Rill.none .next) (.core true c k) (engineUse e unit []) 0 0 .next := by
  have hcommit : (s.setLc k l).commit0 (.core true c k) (engineUse e unit []) .next =
      (s.setLc k l).retire (.core true c k) Rill.none .next := by
    show ((s.setLc k l).setLc k ((s.setLc k l).lcAt k)).retire (.core true c k) Rill.none .next = _
    rw [State.lcAt_setLc_same, State.setLc_setLc]
  rw [← hcommit]
  exact State.commit0_engineUse_retired ..

section Hand

variable {h : Hand} {s : State} {c k : Nat} (hw : s.who = some (.core true c k))

include hw

theorem Hand.traps (hbad : h.illegal (s.lcAt k) = true) (ht : MayTrap s (.core true c k)) :
    ∃ t, h.exec s = .next t ∧ Trapped s t (.core true c k) h.unit 1 0 := by
  refine ⟨s.illegal (.core true c k) h.unit, ?_, State.raise_trapped s _ h.unit cIllegal 0 ht⟩
  rw [Hand.exec, State.onStream_who hw]
  simp only [hbad, Bool.or_true, if_true]

variable (hok : h.illegal (s.lcAt k) = false) (hi : s.issue (.core true c k) (engineUse h.e h.unit h.srcs) = .go)

include hok hi

/-- A syllable that is in order and may issue: its own condition decides. -/
theorem Hand.exec_of_go : h.exec s = .next (match h.stall (s.lcAt k) with
    | some x => s.stallOn (.core true c k) x
    | none => (s.setLc k (h.push s.cur.pc s.cur.syl (s.lcAt k))).retire (.core true c k) Rill.none .next) := by
  rw [Hand.exec, State.onStream_who hw]
  simp only [hok, Bool.not_true, Bool.or_false, Bool.false_eq_true, if_false]
  exact congrArg _ (State.issued_go hi _)

theorem Hand.stalls {x : StallOn} (hx : h.stall (s.lcAt k) = some x) :
    ∃ t, h.exec s = .next t ∧ Stalled s t (.core true c k) x :=
  ⟨_, by rw [Hand.exec_of_go hw hok hi, hx], State.stallOn_stalled s _ x⟩

theorem Hand.exec_of_ready (hx : h.stall (s.lcAt k) = none) :
    h.exec s = .next ((s.setLc k (h.push s.cur.pc s.cur.syl (s.lcAt k))).retire (.core true c k) Rill.none .next) := by
  rw [Hand.exec_of_go hw hok hi, hx]

theorem Hand.enters {l : LCore} (hx : h.stall (s.lcAt k) = none) (hl : h.push s.cur.pc s.cur.syl (s.lcAt k) = l) :
    ∃ t, h.exec s = .next t ∧ Retired (s.setLc k l) t (.core true c k) (engineUse h.e h.unit []) 0 0 .next :=
  ⟨_, by rw [Hand.exec_of_ready hw hok hi hx, hl], State.retire_retired s c k l h.e h.unit⟩

/-- A syllable that leaves nothing in its engine completes at once. -/
theorem Hand.completes (hx : h.stall (s.lcAt k) = none) (hl : h.push s.cur.pc s.cur.syl (s.lcAt k) = s.lcAt k) :
    ∃ t, h.exec s = .next t ∧ Retired s t (.core true c k) (engineUse h.e h.unit []) 0 0 .next :=
  ⟨s.commit0 (.core true c k) (engineUse h.e h.unit []) .next, by rw [Hand.exec_of_ready hw hok hi hx, hl]; rfl,
    State.commit0_engineUse_retired s c k h.e h.unit⟩

end Hand

/-! ## Bits 31:27 of a word (02_encoding.md) -/

theorem rillOf_bits_add (q : Rill) (e : Bool) {n : Nat} (hn : n < 134217728) : rillOf (q.bits + eBit e + n) = q := by
  obtain ⟨x, y, z, u, v, hx, hy, hz, hu, hv, rfl, rfl, hq, he⟩ := bits_as_numbers q e
  simp only [rillOf, fld, hq, he, Rill.mk.injEq]
  refine ⟨?_, ?_, ?_, ?_⟩ <;> congr 1 <;> omega

theorem exists_bits_eq (q : Rill) (e : Bool) : ∃ r, q.bits + eBit e = r * 134217728 := by
  obtain ⟨x, y, z, u, v, _, _, _, _, _, _, _, hq, he⟩ := bits_as_numbers q e
  exact ⟨16 * x + 8 * y + 4 * z + 2 * u + v, by omega⟩

/-! ## The M word (05_matrix.md R103) -/

/-- The fields fit the M word. -/
def MFields.Fits (m : MFields) : Prop := m.func < 16 ∧ m.c < 4 ∧ m.ty < 16 ∧ m.a < 8 ∧ m.b < 8

def MFields.word (m : MFields) (e : Bool) : Nat := mWord m.q e m.func m.c m.ty m.a m.b

theorem MFields.of_word {m : MFields} (e : Bool) (hm : m.Fits) : MFields.of (m.word e) = m := by
  obtain ⟨q, func, c, ty, a, b⟩ := m
  obtain ⟨hfunc, hc, hty, ha, hb⟩ := hm
  dsimp only at hfunc hc hty ha hb
  obtain ⟨r, hr⟩ := exists_bits_eq q e
  have hq : rillOf (mWord q e func c ty a b) = q := by
    simp only [mWord, Nat.add_assoc (q.bits + eBit e)]
    exact rillOf_bits_add q e (by omega)
  simp only [MFields.word, MFields.of, hq, MFields.mk.injEq, true_and]
  simp only [mWord, hr, fld]
  omega

/-- The hand-over of the M syllable with fields `m`. -/
def MFields.hand (m : MFields) (e : Bool) : Hand := mxHand m.q e m.func m.c m.ty m.a m.b

section Fields

variable {m : MFields} {e : Bool} (hm : m.Fits)

include hm

theorem MFields.hand_srcs : (m.hand e).srcs = m.pops.map fun p => 24 + p.1 := by
  show (MFields.of (m.word e)).pops.map _ = _
  rw [MFields.of_word e hm]

theorem MFields.hand_illegal (l : LCore) : (m.hand e).illegal l = (m.bad || l.kern.mxUndeclared m) := by
  show ((MFields.of (m.word e)).bad || l.kern.mxUndeclared (MFields.of (m.word e))) = _
  rw [MFields.of_word e hm]

theorem MFields.hand_stall (l : LCore) : (m.hand e).stall l = l.mxStall m := by
  show l.mxStall (MFields.of (m.word e)) = _
  rw [MFields.of_word e hm]

end Fields

theorem Kern.mxUndeclared_of_no_unit {kern : Kern} (m : MFields) (h : kern.units.testBit 0 = false) :
    kern.mxUndeclared m = true := by
  simp [Kern.mxUndeclared, h]

/-! ## What an M syllable waits for, and what it leaves (05_matrix.md R97, R106, R108, R109) -/

theorem LCore.mxStall_missing {l : LCore} {m : MFields} {p : Nat × Nat}
    (h : m.pops.find? (fun p => decide ((l.queue p.1).length < p.2)) = some p) : l.mxStall m = some (.queueEmpty p.1 p.2) := by
  rw [LCore.mxStall, h]

/-- With all of its entries there, room decides; `mx.sync` asks for an idle array instead. -/
theorem LCore.mxStall_ready {l : LCore} {m : MFields} (h : ∀ p ∈ m.pops, p.2 ≤ (l.queue p.1).length) :
    l.mxStall m =
      if m.func = 9 then (if l.mxFifo.isEmpty then none else some .mxSync)
      else if l.foCycle ∨ 16 ≤ l.mxFifo.length then some .fifo else none := by
  have hnone : m.pops.find? (fun p => decide ((l.queue p.1).length < p.2)) = none :=
    List.find?_eq_none.mpr fun p hp => by simpa using h p hp
  rw [LCore.mxStall, hnone]

/-- Popping one queue after the other is popping them all at once, where no queue is named twice. -/
theorem LCore.foldl_setQueue_drop (l0 : LCore) (pops : List (Nat × Nat)) (l : LCore) (hnd : (pops.map Prod.fst).Nodup)
    (hl : ∀ p ∈ pops, l.queue p.1 = l0.queue p.1) :
    pops.foldl (fun l p => l.setQueue p.1 ((l.queue p.1).drop p.2)) l =
      { l with qs := pops.foldl (fun m p => m.put p.1 ((l0.queue p.1).drop p.2) []) l.qs } := by
  induction pops generalizing l with
  | nil => rfl
  | cons p r ih =>
    obtain ⟨hp, hr⟩ := List.nodup_cons.mp hnd
    rw [List.foldl_cons, List.foldl_cons, hl p List.mem_cons_self, ih _ hr fun x hx => ?_]
    · rfl
    · have hne : x.1 ≠ p.1 := ne_of_mem_of_not_mem (List.mem_map_of_mem hx) hp
      rw [LCore.queue_setQueue_other l _ hne]
      exact hl x (List.mem_cons_of_mem _ hx)

/-- The command that an M syllable with fields `m` hands over at bundle address `pc` as syllable `syl`. -/
def LCore.mxCmd (l : LCore) (m : MFields) (e : Bool) (pc : Word) (syl : Nat) : MxCmd :=
  ⟨m.word e, false, l.fpmode.getLsbD 0, l.mxmask, l.mxOps m, pc, syl⟩

theorem MFields.hand_push {m : MFields} {e : Bool} (hm : m.Fits) (h9 : m.func ≠ 9) (hnd : (m.pops.map Prod.fst).Nodup)
    (pc : Word) (syl : Nat) (l : LCore) :
    (m.hand e).push pc syl l =
      { l with
        qs := popped l m.pops
        mxFifo := l.mxFifo ++ [l.mxCmd m e pc syl]
        mxmask := if m.func = 6 then (l.mxOps m).headD 0 else l.mxmask } := by
  show LCore.mxPush (m.word e) pc syl l = _
  have hfifo : ¬ (m.func = 9 ∧ Rill.any m.q = false) := fun h => h9 h.1
  simp only [LCore.mxPush, MFields.of_word e hm, if_neg hfifo]
  rw [LCore.foldl_setQueue_drop l m.pops l hnd fun _ _ => rfl]
  by_cases h6 : m.func = 6 <;> simp only [h6, if_true, if_false] <;> rfl

/-! ## The M syllables -/

/-- The M syllables with bit 27 and the fields of their words (05_matrix.md R103). -/
inductive IsM : Instr → Bool → MFields → Prop
  | mac (q : Rill) (e : Bool) (c ty a b : Nat) : IsM (.mxMac q e c ty a b) e ⟨q, 0, c, ty, a, b⟩
  | macz (q : Rill) (e : Bool) (c ty a b : Nat) : IsM (.mxMacz q e c ty a b) e ⟨q, 1, c, ty, a, b⟩
  | zero (q : Rill) (e : Bool) (c : Nat) : IsM (.mxZero q e c) e ⟨q, 2, c, 0, 0, 0⟩
  | ld (q : Rill) (e : Bool) (c a : Nat) : IsM (.mxLd q e c a) e ⟨q, 3, c, 0, a, 0⟩
  | st (q : Rill) (e : Bool) (c a : Nat) : IsM (.mxSt q e c a) e ⟨q, 4, c, 0, a, 0⟩
  | stc (q : Rill) (e : Bool) (c ty a : Nat) : IsM (.mxStc q e c ty a) e ⟨q, 5, c, ty, a, 0⟩
  | mask (q : Rill) (e : Bool) (a : Nat) : IsM (.mxMask q e a) e ⟨q, 6, 0, 0, a, 0⟩
  | tw (q : Rill) (e : Bool) (a : Nat) : IsM (.mxTw q e a) e ⟨q, 7, 0, 0, a, 0⟩
  | add (q : Rill) (e : Bool) (c m : Nat) : IsM (.mxAdd q e c m) e ⟨q, 8, c, 0, m, 0⟩
  | sync (q : Rill) (e : Bool) : IsM (.mxSync q e) e ⟨q, 9, 0, 0, 0, 0⟩

theorem IsM.exec_eq {i : Instr} {e : Bool} {m : MFields} (h : IsM i e m) (s : State) : exec i s = (m.hand e).exec s := by
  cases h <;> rfl

theorem IsM.word_eq {i : Instr} {e : Bool} {m : MFields} (h : IsM i e m) : (encodeWords i).headD 0 = m.word e := by
  cases h <;> simp only [encodeWords, List.headD_cons, MFields.word, mWord] <;> omega

theorem IsM.fits {i : Instr} {e : Bool} {m : MFields} (h : IsM i e m) (hwf : i.wf = true) : m.Fits := by
  cases h <;> simp only [Instr.wf, Bool.and_eq_true, decide_eq_true_eq] at hwf <;> simp only [MFields.Fits] <;> omega

/-- An M syllable other than `mx.sync`, in order where `ok` holds, is handed over. -/
theorem IsM.hands {i : Instr} {e : Bool} {m : MFields} {pops : List (Nat × Nat)} {ok : LCore → Prop} {mask : Bool} (h : IsM i e m)
    (h9 : m.func ≠ 9) (hpops : m.pops = pops) (hnd : (pops.map Prod.fst).Nodup) (hmask : m.func = 6 ↔ mask = true)
    (hok : ∀ l : LCore, l.kern.units.testBit 0 = true → ok l → m.bad = false ∧ l.kern.mxUndeclared m = false) :
    HandsM i e pops ok mask := by
  subst hpops
  intro s c k hw hwf l w ops go ready cmd
  have hm := h.fits hwf
  have hlegal (hu : l.kern.units.testBit 0 = true) (ho : ok l) : (m.hand e).illegal l = false := by
    obtain ⟨hbad, hdecl⟩ := hok l hu ho
    rw [MFields.hand_illegal hm, hbad, hdecl]
    rfl
  have hissue (hgo : go) : s.issue w (engineUse e 3 (m.hand e).srcs) = .go := by
    rw [MFields.hand_srcs hm]
    exact hgo
  have hready (hr : ready) : (m.hand e).stall l = if l.foCycle ∨ 16 ≤ l.mxFifo.length then some .fifo else none := by
    rw [MFields.hand_stall hm, LCore.mxStall_ready hr, if_neg h9]
  rw [h.exec_eq]
  refine ⟨fun hu ho hgo hr hfo hroom => ?_, fun hu ho hgo hr hfull => ?_, fun hu ho hgo p hp => ?_, fun hu ht => ?_⟩
  · refine Hand.enters hw (hlegal hu ho) (hissue hgo) ?_ ?_
    · rw [hready hr, if_neg (by simp [hfo]; omega)]
    · have hcmd : l.mxCmd m e s.cur.pc s.cur.syl = cmd := by rw [LCore.mxCmd, ← h.word_eq]; rfl
      rw [MFields.hand_push hm h9 hnd, hcmd]
      simp only [hmask]
      rfl
  · refine Hand.stalls hw (hlegal hu ho) (hissue hgo) ?_
    rw [hready hr, if_pos hfull]
  · refine Hand.stalls hw (hlegal hu ho) (hissue hgo) ?_
    rw [MFields.hand_stall hm, LCore.mxStall_missing hp]
  · refine Hand.traps hw ?_ ht
    rw [MFields.hand_illegal hm, Kern.mxUndeclared_of_no_unit m hu, Bool.or_true]

/-- The fields of `mx.sync`. -/
def MFields.sync (q : Rill) : MFields := ⟨q, 9, 0, 0, 0, 0⟩

theorem MFields.sync_push {q : Rill} {e : Bool} (hm : (MFields.sync q).Fits) (pc : Word) (syl : Nat) (l : LCore) :
    ((MFields.sync q).hand e).push pc syl l =
      if Rill.any q then { l with mxFifo := l.mxFifo ++ [l.mxCmd (MFields.sync q) e pc syl] } else l := by
  show LCore.mxPush ((MFields.sync q).word e) pc syl l = _
  simp only [LCore.mxPush, MFields.of_word e hm]
  cases hq : Rill.any q <;> simp [MFields.sync, MFields.pops, hq]
  rfl

/-- `mx.sync` waits for an idle array; it then completes at once, or enters the FIFO when it has rill bits (R108, R110). -/
theorem mxSync_hands {s : State} {c k : Nat} (q : Rill) (e : Bool) (hw : s.who = some (.core true c k))
    (hu : (s.lcAt k).kern.units.testBit 0 = true) :
    let w := Who.core true c k
    let l := s.lcAt k
    let i := Instr.mxSync q e
    i.wf = true → s.issue w (engineUse e 3 []) = .go →
    (l.mxFifo = [] → Rill.any q = false → ∃ t, exec i s = .next t ∧ Retired s t w (engineUse e 3 []) 0 0 .next) ∧
    (l.mxFifo = [] → Rill.any q = true → ∃ t, exec i s = .next t ∧
      Retired (s.setLc k { l with
        mxFifo := [⟨(encodeWords i).headD 0, false, l.fpmode.getLsbD 0, l.mxmask, [], s.cur.pc, s.cur.syl⟩] })
        t w (engineUse e 3 []) 0 0 .next) ∧
    (l.mxFifo ≠ [] → ∃ t, exec i s = .next t ∧ Stalled s t w .mxSync) := by
  intro w l i hwf hgo
  have h : IsM i e (MFields.sync q) := IsM.sync q e
  have hm := h.fits hwf
  have hlegal : ((MFields.sync q).hand e).illegal l = false := by
    rw [MFields.hand_illegal hm]
    simp [MFields.sync, MFields.bad, Kern.mxUndeclared, l, hu]
  have hissue : s.issue w (engineUse e 3 ((MFields.sync q).hand e).srcs) = .go := by
    rw [MFields.hand_srcs hm]
    exact hgo
  have hstall : ((MFields.sync q).hand e).stall l = if l.mxFifo.isEmpty then none else some .mxSync := by
    rw [MFields.hand_stall hm, LCore.mxStall_ready (by simp [MFields.sync, MFields.pops])]
    exact if_pos rfl
  have hpush := MFields.sync_push (e := e) hm s.cur.pc s.cur.syl l
  have hcmd : l.mxCmd (MFields.sync q) e s.cur.pc s.cur.syl =
      ⟨(encodeWords i).headD 0, false, l.fpmode.getLsbD 0, l.mxmask, [], s.cur.pc, s.cur.syl⟩ := by
    rw [h.word_eq]
    rfl
  rw [h.exec_eq]
  refine ⟨fun hidle hq => Hand.completes hw hlegal hissue ?_ ?_, fun hidle hq => Hand.enters hw hlegal hissue ?_ ?_,
    fun hbusy => Hand.stalls hw hlegal hissue ?_⟩
  · rw [hstall, hidle]
    rfl
  · rw [hpush, hq]
    rfl
  · rw [hstall, hidle]
    rfl
  · rw [hpush, if_pos hq, hidle, hcmd]
    rfl
  · rw [hstall, if_neg (by simpa using hbusy)]

theorem mxType_of_mem : ∀ ty ∈ [0, 1, 2, 3, 4, 5, 7, 11], mxType ty = true := by decide

theorem stcType_of_mem : ∀ ty ∈ [0, 2, 3, 4, 5, 10, 11], stcType ty = true := by decide

/-- `mx.mac` and `mx.macz` differ in their function only. -/
theorem mxMac_hands {i : Instr} {q : Rill} {e : Bool} {func c ty a b : Nat} (h : IsM i e ⟨q, func, c, ty, a, b⟩)
    (hfunc : func = 0 ∨ func = 1) (hab : a ≠ b) (ha : a ≤ 5) (hb : b ≤ 5) (hty : ty ∈ [0, 1, 2, 3, 4, 5, 7, 11]) :
    HandsM i e [(a, 2), (b, 2)] (fun l => bankOk l c ty) false := by
  have htype := mxType_of_mem ty hty
  rcases hfunc with rfl | rfl
  all_goals
    refine h.hands (by simp) rfl (by simpa using hab) (by simp) fun l hu ⟨hbank, hpair⟩ => ?_
    simpa [MFields.bad, Kern.mxUndeclared, htype, hab, ha, hb, hu, hbank] using imp_and.mp hpair

theorem matrixHandOver : Sys2Proof.Parts.MatrixHandOver := by
  refine ⟨fun q e c ty a b hab ha hb hty => ⟨?_, ?_⟩, fun q e c => ?_, fun q e c a ha => ?_, fun q e c a ha => ?_,
    fun q e c ty a ha hty => ?_, fun q e a ha => ?_, fun q e a ha => ?_, fun q e c m hm => ?_,
    fun s c k q e hw hu => mxSync_hands q e hw hu⟩
  · exact mxMac_hands (.mac q e c ty a b) (.inl rfl) hab ha hb hty
  · exact mxMac_hands (.macz q e c ty a b) (.inr rfl) hab ha hb hty
  · refine (IsM.zero q e c).hands (by simp) rfl (by simp) (by simp) fun l hu ⟨hbank, _⟩ => ?_
    simp [MFields.bad, Kern.mxUndeclared, hu, hbank]
  · refine (IsM.ld q e c a).hands (by simp) rfl (by simp) (by simp) fun l hu ⟨hbank, _⟩ => ?_
    simp [MFields.bad, Kern.mxUndeclared, hu, hbank, ha]
  · refine (IsM.st q e c a).hands (by simp) rfl (by simp) (by simp) fun l hu ⟨hbank, _⟩ => ?_
    simp [MFields.bad, Kern.mxUndeclared, hu, hbank, ha]
  · have htype := stcType_of_mem ty hty
    refine (IsM.stc q e c ty a).hands (by simp) rfl (by simp) (by simp) fun l hu ⟨hbank, hpair⟩ => ?_
    simpa [MFields.bad, Kern.mxUndeclared, htype, hu, hbank, ha] using imp_and.mp hpair
  · refine (IsM.mask q e a).hands (by simp) rfl (by simp) (by simp) fun l hu _ => ?_
    simp [MFields.bad, Kern.mxUndeclared, hu, ha]
  · refine (IsM.tw q e a).hands (by simp) rfl (by simp) (by simp) fun l hu _ => ?_
    simp [MFields.bad, Kern.mxUndeclared, hu, ha]
  · refine (IsM.add q e c m).hands (by simp) rfl (by simp) (by simp) fun l hu ⟨⟨hc, _⟩, hsrc, _⟩ => ?_
    simp [MFields.bad, Kern.mxUndeclared, hu, hc, hsrc, hm]

/-! ## The G word (06_rotator.md R125) -/

/-- The fields fit the G word. -/
def GFields.Fits (g : GFields) : Prop := g.func < 16 ∧ g.gm < 4 ∧ g.a < 16 ∧ g.b < 16 ∧ g.sub < 8

def GFields.word (g : GFields) (e : Bool) : Nat := gWord g.q e g.func g.gm g.a g.b g.sub

theorem GFields.of_word {g : GFields} (e : Bool) (hg : g.Fits) : GFields.of (g.word e) = g := by
  obtain ⟨q, func, gm, a, b, sub⟩ := g
  obtain ⟨hfunc, hgm, ha, hb, hsub⟩ := hg
  dsimp only at hfunc hgm ha hb hsub
  obtain ⟨r, hr⟩ := exists_bits_eq q e
  have hq : rillOf (gWord q e func gm a b sub) = q := by
    simp only [gWord, Nat.add_assoc (q.bits + eBit e)]
    exact rillOf_bits_add q e (by omega)
  simp only [GFields.word, GFields.of, hq, GFields.mk.injEq, true_and]
  simp only [gWord, hr, fld]
  omega

/-- The hand-over of the G syllable with fields `g`. -/
def GFields.hand (g : GFields) (e : Bool) : Hand := rtHand g.q e g.func g.gm g.a g.b g.sub

theorem GFields.hand_illegal {g : GFields} {e : Bool} (hg : g.Fits) (l : LCore) :
    (g.hand e).illegal l = (g.bad || !l.kern.units.testBit 1 || g.types.any fun p => l.ty p.1 != p.2) := by
  show ((GFields.of (g.word e)).bad || _ || (GFields.of (g.word e)).types.any _) = _
  rw [GFields.of_word e hg]

/-- A G syllable in order asks for a declared rotator and for its descriptors' types. -/
theorem GFields.hand_illegal_iff {g : GFields} {e : Bool} (hg : g.Fits) (hbad : g.bad = false) (l : LCore) :
    (g.hand e).illegal l = false ↔ l.kern.units.testBit 1 = true ∧ ∀ p ∈ g.types, (l.region p.1).ty = p.2 := by
  rw [GFields.hand_illegal hg, hbad]
  simp [LCore.ty]

/-! ## The G syllables -/

/-- The G syllables with bit 27 and the fields of their words (06_rotator.md Table 3). -/
inductive IsG : Instr → Bool → GFields → Prop
  | clr (q : Rill) (e : Bool) : IsG (.rtClr q e) e ⟨q, 0, 0, 0, 0, 0⟩
  | ld (q : Rill) (e : Bool) (a : Nat) : IsG (.rtLd q e a) e ⟨q, 1, 0, a, 0, 0⟩
  | st (q : Rill) (e : Bool) (g a : Nat) : IsG (.rtSt q e g a) e ⟨q, 2, g, a, 0, 0⟩
  | qr (q : Rill) (e : Bool) (g a b n : Nat) : IsG (.rtQr q e g a b n) e ⟨q, 3, g, a, b, n⟩
  | vec (q : Rill) (e : Bool) (g a b : Nat) : IsG (.rtVec q e g a b) e ⟨q, 4, g, a, b, 0⟩
  | rot (q : Rill) (e : Bool) (g a b : Nat) : IsG (.rtRot q e g a b) e ⟨q, 5, g, a, b, 0⟩
  | angB16 (q : Rill) (e : Bool) (a b : Nat) : IsG (.rtAngB16 q e a b) e ⟨q, 6, 0, a, b, 0⟩
  | angB32 (q : Rill) (e : Bool) (a b : Nat) : IsG (.rtAngB32 q e a b) e ⟨q, 6, 0, a, b, 1⟩
  | sol (q : Rill) (e : Bool) (g a b n : Nat) : IsG (.rtSol q e g a b n) e ⟨q, 7, g, a, b, n⟩
  | app (q : Rill) (e : Bool) (g a b : Nat) : IsG (.rtApp q e g a b) e ⟨q, 8, g, a, b, 0⟩
  | gz (q : Rill) (e : Bool) : IsG (.rtGz q e) e ⟨q, 9, 0, 0, 0, 0⟩
  | rhs (q : Rill) (e : Bool) (a : Nat) : IsG (.rtRhs q e a) e ⟨q, 10, 0, a, 0, 0⟩

theorem IsG.exec_eq {i : Instr} {e : Bool} {g : GFields} (h : IsG i e g) (s : State) : exec i s = (g.hand e).exec s := by
  cases h <;> rfl

theorem IsG.word_eq {i : Instr} {e : Bool} {g : GFields} (h : IsG i e g) : (encodeWords i).headD 0 = g.word e := by
  cases h <;> simp only [encodeWords, List.headD_cons, GFields.word, gWord] <;> omega

theorem IsG.fits {i : Instr} {e : Bool} {g : GFields} (h : IsG i e g) (hwf : i.wf = true) : g.Fits := by
  cases h <;> simp only [Instr.wf, Bool.and_eq_true, decide_eq_true_eq] at hwf <;> simp only [GFields.Fits] <;> omega

/-- A G syllable is handed over, in order where `ok` holds. -/
theorem IsG.hands {i : Instr} {e : Bool} {g : GFields} {types : List (Nat × Nat)} {ok : Prop} (h : IsG i e g)
    (hok : ok → g.bad = false ∧ g.types = types) : HandsG i e g.a g.b types ok := by
  intro s c k hw hwf ho l w good cmd
  obtain ⟨hbad, rfl⟩ := hok ho
  have hlegal : (g.hand e).illegal l = false ↔ good := GFields.hand_illegal_iff (h.fits hwf) hbad l
  rw [h.exec_eq]
  refine ⟨fun hgood hgo hroom => Hand.enters hw (hlegal.mpr hgood) hgo ?_ ?_,
    fun hgood hgo hfull => Hand.stalls hw (hlegal.mpr hgood) hgo (if_pos hfull), fun hnot ht => Hand.traps hw ?_ ht⟩
  · exact if_neg (Nat.not_le.mpr hroom)
  · have hcmd : cmd = ⟨g.word e, l.ftz, l.descs.atD g.a 0, l.descs.atD g.b 0, s.cur.pc, s.cur.syl⟩ := by
      rw [← h.word_eq]
      rfl
    rw [hcmd]
    rfl
  · exact (Bool.not_eq_false _).mp (mt hlegal.mp hnot)

theorem rotatorHandOver : Sys2Proof.Parts.RotatorHandOver := by
  refine ⟨fun q e => (IsG.clr q e).hands fun _ => ⟨rfl, rfl⟩, fun q e => (IsG.gz q e).hands fun _ => ⟨rfl, rfl⟩,
    fun q e a => (IsG.ld q e a).hands fun _ => ⟨rfl, rfl⟩, fun q e a => (IsG.rhs q e a).hands fun _ => ⟨rfl, rfl⟩,
    fun q e g a => (IsG.st q e g a).hands fun hg => ⟨?_, rfl⟩, fun q e g a => (IsG.qr q e g a 0 0).hands fun hg => ⟨?_, rfl⟩,
    fun q e g a b n => (IsG.qr q e g a b n).hands fun ⟨hg, hn, hn4⟩ => ⟨?_, if_neg (Nat.ne_of_gt hn)⟩,
    fun q e g a b => (IsG.vec q e g a b).hands fun hg => ⟨?_, rfl⟩,
    fun q e g a b => (IsG.rot q e g a b).hands fun hg => ⟨?_, rfl⟩,
    fun q e a b => (IsG.angB16 q e a b).hands fun _ => ⟨rfl, rfl⟩,
    fun q e a b => (IsG.angB32 q e a b).hands fun _ => ⟨rfl, rfl⟩,
    fun q e g a b n => (IsG.sol q e g a b n).hands fun ⟨hg, hn⟩ => ⟨?_, rfl⟩,
    fun q e g a b => (IsG.app q e g a b).hands fun hg => ⟨?_, rfl⟩⟩
  case refine_3 => simp [GFields.bad, Nat.ne_of_lt hg, hn4, Nat.ne_of_gt hn]
  case refine_6 => simp [GFields.bad, Nat.ne_of_lt hg, hn]
  all_goals simp [GFields.bad, Nat.ne_of_lt hg]

/-- Settles O42: each syllable's word reads back as its fields, and by those its hand-over is in order, waits or enters the FIFO. -/
theorem engineHandOver : Obligations.EngineHandOver := ⟨matrixHandOver, rotatorHandOver⟩

end Sys2Proof.Machine

/-! The functions of one element: integers modulo 2^b, their order and their shifts, and a NaN first operand
(09_numbers.md R173, 11_vector_arith.md R213 to R215, R218). -/

namespace Sys2Proof.Machine

open Sys2Proof.Spec

/-! ## Integer values and patterns (09_numbers.md R172) -/

theorem tyBits_pos (ty : Nat) : 0 < tyBits ty := by
  unfold tyBits
  split <;> decide

theorem tyFmt_eq_none {ty : Nat} (h : 6 ≤ ty) : tyFmt ty = none := by
  obtain ⟨n, rfl⟩ := Nat.exists_eq_add_of_le' h
  rfl

theorem tyVal_signed {ty x : Nat} (h8 : 8 ≤ ty) (h11 : ty ≤ 11) (hx : x < 2 ^ tyBits ty) :
    tyVal ty x = (BitVec.ofNat (tyBits ty) x).toInt := by
  have hs : tySigned ty = true := by simp [tySigned, h8, h11]
  rw [tyVal, if_neg (by omega), if_pos hs, Nat.mod_eq_of_lt hx, sextZ_eq _ x (tyBits_pos ty) hx]

theorem tyVal_unsigned {ty x : Nat} (h : 12 ≤ ty) (hx : x < 2 ^ tyBits ty) : tyVal ty x = x := by
  have hs : tySigned ty = false := by simp [tySigned]; omega
  rw [tyVal, if_neg (by omega), hs, if_neg Bool.false_ne_true, Nat.mod_eq_of_lt hx]

theorem tyPat_eq (ty : Nat) (z : Int) : tyPat ty z = (BitVec.ofInt (tyBits ty) z).toNat :=
  (BitVec.toNat_ofInt z).symm

/-- A pattern of an integer type is the pattern of its value, so the value says which pattern it was. -/
theorem tyPat_tyVal {ty x : Nat} (h : 8 ≤ ty) (hx : x < 2 ^ tyBits ty) : tyPat ty (tyVal ty x) = x := by
  rw [tyPat_eq]
  by_cases hs : ty ≤ 11
  · rw [tyVal_signed h hs hx, BitVec.ofInt_toInt, BitVec.toNat_ofNat, Nat.mod_eq_of_lt hx]
  · rw [tyVal_unsigned (by omega) hx, BitVec.ofInt_natCast, BitVec.toNat_ofNat, Nat.mod_eq_of_lt hx]

theorem tyVal_inj {ty x y : Nat} (h : 8 ≤ ty) (hx : x < 2 ^ tyBits ty) (hy : y < 2 ^ tyBits ty) :
    tyVal ty x = tyVal ty y ↔ x = y := by
  refine ⟨fun he => ?_, congrArg _⟩
  rw [← tyPat_tyVal h hx, he, tyPat_tyVal h hy]

/-- Two's complement, by the top bit. -/
theorem tyVal_eq_ite {ty x : Nat} (h8 : 8 ≤ ty) (h11 : ty ≤ 11) (hx : x < 2 ^ tyBits ty) :
    tyVal ty x = if x < 2 ^ (tyBits ty - 1) then (x : Int) else (x : Int) - 2 ^ tyBits ty := by
  rw [tyVal_signed h8 h11 hx, ← sextZ_eq _ x (tyBits_pos ty) hx, sextZ]
  push_cast
  rfl

/-! ## Integer arithmetic, order and shifts (11_vector_arith.md R213 to R215, R218) -/

section Integer

variable {ty : Nat} (h : tyFmt ty = none) (rm : RMode) (sub : Sub) (x y c : Nat)

include h

theorem addE_integer : addE ty rm sub x y = bits ((x + y) % 2 ^ tyBits ty) := by
  rw [addE, h]
  rfl

theorem subE_integer : subE ty rm sub x y = bits ((x + (2 ^ tyBits ty - y % 2 ^ tyBits ty)) % 2 ^ tyBits ty) := by
  rw [subE, h]
  rfl

theorem mulE_integer : mulE ty rm sub x y = bits (x * y % 2 ^ tyBits ty) := by
  rw [mulE, h]
  rfl

theorem macE_integer : macE ty rm sub x y c = bits ((x * y + c) % 2 ^ tyBits ty) := by
  rw [macE, h]
  rfl

theorem minE_integer : minmaxE false ty x y = bits (if tyVal ty y < tyVal ty x then y else x) := by
  simp [minmaxE, h, bits, RRes.ok]

theorem maxE_integer : minmaxE true ty x y = bits (if tyVal ty x < tyVal ty y then y else x) := by
  simp [minmaxE, h, bits, RRes.ok]

theorem cmpE_eq_integer : (cmpE .eq ty x y).bits = if tyVal ty x = tyVal ty y then 1 else 0 := by
  simp [cmpE, h, RRes.ok]

theorem cmpE_lt_integer : (cmpE .lt ty x y).bits = if tyVal ty x < tyVal ty y then 1 else 0 := by
  simp [cmpE, h, RRes.ok]

/-- A difference, with the subtrahend added back, is the minuend. -/
theorem subE_add_mod (hx : x < 2 ^ tyBits ty) (hy : y < 2 ^ tyBits ty) :
    ((subE ty rm sub x y).bits + y) % 2 ^ tyBits ty = x := by
  rw [subE_integer h]
  calc ((x + (2 ^ tyBits ty - y % 2 ^ tyBits ty)) % 2 ^ tyBits ty + y) % 2 ^ tyBits ty
      = (x + (2 ^ tyBits ty - y) + y) % 2 ^ tyBits ty := by rw [Nat.mod_add_mod, Nat.mod_eq_of_lt hy]
    _ = (x + 2 ^ tyBits ty) % 2 ^ tyBits ty := by rw [Nat.add_assoc, Nat.sub_add_cancel (Nat.le_of_lt hy)]
    _ = x := by rw [Nat.add_mod_right, Nat.mod_eq_of_lt hx]

end Integer

/-- A value of n + 1 bits shifted right by n places is its sign already; a longer shift gives the same. -/
theorem ediv_two_pow_eq_of_bounds {z : Int} {n k : Nat} (hlo : -((2 ^ n : Nat) : Int) ≤ z) (hhi : z < (2 ^ n : Nat))
    (hk : n ≤ k) : z / (2 ^ k : Nat) = z / (2 ^ n : Nat) := by
  have sign : ∀ m, n ≤ m → z / (2 ^ m : Nat) = if z < 0 then -1 else 0 := by
    intro m hm
    have hle : ((2 ^ n : Nat) : Int) ≤ (2 ^ m : Nat) := Int.ofNat_le.mpr (Nat.pow_le_pow_right Nat.two_pos hm)
    have hpos : (0 : Int) < (2 ^ m : Nat) := Int.natCast_pos.mpr (Nat.two_pow_pos m)
    split
    · rw [Int.ediv_eq_iff_of_pos hpos]
      omega
    · exact Int.ediv_eq_zero_of_lt (by omega) (by omega)
  rw [sign k hk, sign n (Nat.le_refl n)]

theorem toInt_shiftRight_eq_ediv_min {w : Nat} (v : BitVec w) (k : Nat) :
    v.toInt >>> k = v.toInt / (2 ^ min k (w - 1) : Nat) := by
  rw [Int.shiftRight_eq_div_pow]
  rcases Nat.le_total k (w - 1) with hk | hk
  · rw [Nat.min_eq_left hk]
  · rw [Nat.min_eq_right hk]
    refine ediv_two_pow_eq_of_bounds ?_ ?_ hk
    · rw [Int.natCast_pow]
      exact v.le_toInt
    · rw [Int.natCast_pow]
      exact v.toInt_lt

theorem sraE_eq_sshiftRight {ty x : Nat} (h8 : 8 ≤ ty) (h11 : ty ≤ 11) (hx : x < 2 ^ tyBits ty) (k : Nat) :
    sraE ty x k = bits ((BitVec.ofNat (tyBits ty) x).sshiftRight k).toNat := by
  rw [sraE, tyVal_signed h8 h11 hx, ← toInt_shiftRight_eq_ediv_min, tyPat_eq]
  rfl

theorem mulhE_eq (ty x y : Nat) : mulhE ty x y = bits (tyPat ty (tyVal ty x * tyVal ty y / 2 ^ tyBits ty)) := by
  rw [mulhE]
  push_cast
  rfl

/-! ## A NaN first operand (09_numbers.md R173) -/

theorem FV.isNan_iff {v : FV} : v.isNan = true ↔ v = .nan v.isSig := by
  cases v <;> simp [FV.isNan, FV.isSig]

theorem FV.add_nan_left (rm : RMode) (a : Bool) (y : FV) : FV.add rm (.nan a) y = (.nan false, a || y.isSig) := by
  cases y <;> simp [FV.add, FV.isSig]

theorem FV.mul_nan_left (a : Bool) (y : FV) : FV.mul (.nan a) y = (.nan false, a || y.isSig) := by
  cases y <;> simp [FV.mul, FV.isSig]

theorem FV.fma_nan_left (rm : RMode) (a : Bool) (y c : FV) :
    FV.fma rm (.nan a) y c = (.nan false, a || y.isSig || c.isSig) := by
  simp [FV.fma, FV.isNan, FV.isSig]

theorem FV.lt_nan_left (a : Bool) (y : FV) : FV.lt (.nan a) y = false := by
  simp [FV.lt]

theorem FV.eq_nan_left (a : Bool) (y : FV) : FV.eq (.nan a) y = false := by
  simp [FV.eq, FV.isNan]

theorem deliver_nan (f : Fmt) (rm : RMode) (sub : Sub) (a b : Bool) :
    deliver f rm sub (.nan a, b) = ⟨f.nanBits, flagIf b nv, false⟩ := by
  simp [deliver, FV.round, RRes.addFlags]

section NanFirst

variable {ty x : Nat} {f : Fmt} {a : Bool} (hf : tyFmt ty = some f) (hx : f.value x = .nan a)
  (rm : RMode) (sub : Sub) (y c : Nat)

include hf hx

theorem addE_nan_left : addE ty rm sub x y = ⟨f.nanBits, flagIf (a || (f.value y).isSig) nv, false⟩ := by
  simp only [addE, hf, hx, FV.add_nan_left, deliver_nan]

theorem mulE_nan_left : mulE ty rm sub x y = ⟨f.nanBits, flagIf (a || (f.value y).isSig) nv, false⟩ := by
  simp only [mulE, hf, hx, FV.mul_nan_left, deliver_nan]

theorem macE_nan_left :
    macE ty rm sub x y c = ⟨f.nanBits, flagIf (a || (f.value y).isSig || (f.value c).isSig) nv, false⟩ := by
  simp only [macE, hf, hx, FV.fma_nan_left, deliver_nan]

theorem minmaxE_nan_left (big : Bool) :
    minmaxE big ty x y = ⟨f.nanBits, flagIf (a || (f.value y).isSig) nv, false⟩ := by
  simp [minmaxE, hf, hx, FV.isNan, FV.isSig]

/-- A NaN is unordered: of the comparisons only `ne` holds. -/
theorem cmpE_nan_left (op : Cmp) : (cmpE op ty x y).bits = if op = .ne then 1 else 0 := by
  cases op <;> simp [cmpE, hf, hx, FV.eq_nan_left, FV.lt_nan_left, FV.isNan]

end NanFirst

/-- Settles O37: integers by their values and patterns, a NaN first operand by the operations on values. -/
theorem elementFunctions : Obligations.ElementFunctions := by
  refine ⟨fun ty rm sub x y c h8 _ => ?_, fun ty x hty hx => ?_, fun ty x y h8 h11 hx => sraE_eq_sshiftRight h8 h11 hx y,
    fun ty x y _ _ => mulhE_eq ty x y, fun ty f rm sub x y c hf hnan => ?_⟩
  case refine_1 =>
    have h : tyFmt ty = none := tyFmt_eq_none (by omega)
    refine ⟨addE_integer h rm sub x y, mulE_integer h rm sub x y, macE_integer h rm sub x y c, fun hx hy =>
      ⟨?_, subE_add_mod h rm sub x y hx hy, minE_integer h x y, maxE_integer h x y, ?_, cmpE_lt_integer h x y⟩⟩
    · rw [subE_integer h]
      exact Nat.mod_lt _ (Nat.two_pow_pos _)
    · simp only [cmpE_eq_integer h, tyVal_inj h8 hx hy]
  case refine_2 =>
    obtain ⟨h8, h11⟩ : 8 ≤ ty ∧ ty ≤ 11 := by
      simp only [List.mem_cons, List.not_mem_nil, or_false] at hty
      omega
    exact tyVal_eq_ite h8 h11 hx
  case refine_3 =>
    have hx := FV.isNan_iff.mp hnan
    exact ⟨addE_nan_left hf hx rm sub y, mulE_nan_left hf hx rm sub y, macE_nan_left hf hx rm sub y c,
      minmaxE_nan_left hf hx y, cmpE_nan_left hf hx y .eq, cmpE_nan_left hf hx y .ne, cmpE_nan_left hf hx y .lt,
      cmpE_nan_left hf hx y .le⟩

end Sys2Proof.Machine

/-! Bytes as numbers, bits of a register, and an access to a page: what sync objects are read and written by (00_scope.md R1,
08_memory.md R166, R167). -/

namespace Sys2Proof.Machine

open Sys2Proof.Spec

/-! ## Bytes as numbers -/

theorem ofBytes_lt (bs : List Byte) : ofBytes bs < 256 ^ bs.length := by
  induction bs with
  | nil => decide
  | cons b bs ih =>
    have hb := b.isLt
    simp only [ofBytes, List.length_cons, Nat.pow_succ]
    omega

theorem ofBytes_append (as bs : List Byte) : ofBytes (as ++ bs) = ofBytes as + 256 ^ as.length * ofBytes bs := by
  induction as with
  | nil => simp [ofBytes]
  | cons a as ih =>
    simp only [List.cons_append, ofBytes, ih, List.length_cons, Nat.pow_succ]
    rw [Nat.mul_add, ← Nat.add_assoc, ← Nat.mul_assoc, Nat.mul_comm 256 (256 ^ as.length)]

/-- The first `n` bytes are the value modulo 256^n. -/
theorem ofBytes_take (bs : List Byte) (n : Nat) : ofBytes (bs.take n) = ofBytes bs % 256 ^ n := by
  rcases Nat.le_total n bs.length with h | h
  · have hlt := ofBytes_lt (bs.take n)
    have hsplit := ofBytes_append (bs.take n) (bs.drop n)
    rw [List.length_take_of_le h] at hlt hsplit
    rw [List.take_append_drop] at hsplit
    rw [hsplit, Nat.add_mul_mod_self_left, Nat.mod_eq_of_lt hlt]
  · rw [List.take_of_length_le h]
    exact (Nat.mod_eq_of_lt (Nat.lt_of_lt_of_le (ofBytes_lt bs) (Nat.pow_le_pow_right (by decide) h))).symm

theorem bytesOf_ofBytes (bs : List Byte) : bytesOf bs.length (ofBytes bs) = bs := by
  induction bs with
  | nil => rfl
  | cons b bs ih =>
    have hb := b.isLt
    have hlow : BitVec.ofNat 8 (b.toNat + 256 * ofBytes bs) = b := by
      apply BitVec.eq_of_toNat_eq
      rw [BitVec.toNat_ofNat]
      omega
    have hrest : (b.toNat + 256 * ofBytes bs) / 256 = ofBytes bs := by omega
    simp only [List.length_cons, ofBytes, bytesOf, hlow, hrest, ih]

theorem bytesOf_add (m n v : Nat) : bytesOf (m + n) v = bytesOf m v ++ bytesOf n (v / 256 ^ m) := by
  induction m generalizing v with
  | zero => simp [bytesOf]
  | succ m ih =>
    rw [Nat.succ_add, bytesOf, bytesOf, ih, Nat.div_div_eq_div_mul, Nat.pow_succ', List.cons_append]

/-- The `n` bytes of a number are those of its remainder modulo 256^n. -/
theorem bytesOf_congr {n v w : Nat} (h : v % 256 ^ n = w % 256 ^ n) : bytesOf n v = bytesOf n w := by
  induction n generalizing v w with
  | zero => rfl
  | succ n ih =>
    rw [Nat.pow_succ', Nat.mod_mul, Nat.mod_mul] at h
    have hlow : v % 256 = w % 256 := by omega
    have hrest : v / 256 % 256 ^ n = w / 256 % 256 ^ n := by omega
    have hbyte : BitVec.ofNat 8 v = BitVec.ofNat 8 w := by
      apply BitVec.eq_of_toNat_eq
      simpa only [BitVec.toNat_ofNat] using hlow
    rw [bytesOf, bytesOf, hbyte, ih hrest]

theorem State.length_physBytes (s : State) (pa n : Nat) : (s.physBytes pa n).length = n := by
  induction n generalizing pa with
  | zero => rfl
  | succ n ih => simp [State.physBytes, ih]

/-! ## Bits of a register -/

/-- A field is zero when each of its bits is clear. -/
theorem wf_eq_zero_iff (w : Word) (hi lo : Nat) :
    wf w hi lo = 0 ↔ ∀ i, lo ≤ i → i < lo + (hi - lo + 1) → w.getLsbD i = false := by
  constructor
  · intro h i hlo hhi
    have hbit : (wf w hi lo).testBit (i - lo) = false := by rw [h, Nat.zero_testBit]
    rw [wf, fld, Nat.testBit_mod_two_pow, decide_eq_true (by omega), Bool.true_and, Nat.testBit_div_two_pow,
      Nat.sub_add_cancel hlo] at hbit
    exact hbit
  · intro h
    apply Nat.eq_of_testBit_eq
    intro j
    rw [wf, fld, Nat.testBit_mod_two_pow, Nat.testBit_div_two_pow, Nat.zero_testBit, Bool.and_eq_false_imp, decide_eq_true_eq]
    exact fun hj => h (j + lo) (by omega) (by omega)

/-- The bits of a mask are clear. -/
theorem and_eq_zero_iff_getLsbD (w m : Word) : w &&& m = 0 ↔ ∀ i, m.getLsbD i = true → w.getLsbD i = false := by
  constructor
  · intro h i hi
    have hbit : (w &&& m).getLsbD i = false := by
      rw [h]
      exact BitVec.getLsbD_zero
    simpa [hi] using hbit
  · intro h
    apply BitVec.eq_of_getLsbD_eq
    intro i _
    cases hi : m.getLsbD i with
    | false => simp [hi]
    | true => simp [h i hi]

/-! ## An access to a page (08_memory.md R166, R167) -/

theorem mappable_iff (pa : Nat) : mappable pa = true ↔ mapped pa := by
  simp [mappable, mapped]

theorem State.place_paged {s : State} {x va pa p : Nat} {e : Word} {how : Access} (k : Nat) (h : Paged s x va pa p e)
    (hp : permits how e = true) : s.place x k how va = .ok (.phys pa (some p)) := by
  obtain ⟨hva, size, hwalk, rfl, hmap⟩ := h
  have hend : ¬ va ≥ vaEnd := by
    unfold vaEnd
    omega
  have hwin : va < winLocal := hva
  have hmap := (mappable_iff _).mpr hmap
  unfold permits at hp
  simp only [State.place, hend, hwin, if_false, if_true, hwalk, hmap, Bool.not_true, Bool.false_eq_true]
  exact if_pos hp

theorem State.runs_nil (s : State) (x k : Nat) (how : Access) (fuel va : Nat) : s.runs x k how fuel va 0 = .ok [] := by
  cases fuel <;> rfl

theorem State.basinEnd_of_below {s : State} {x : Nat} {r : Run} (h : r.va < winBasin) : s.basinEnd x r = none :=
  if_neg fun hb => Nat.not_le.mpr h hb.1

/-- An access within a 4 KiB block, below the basin, is one run. -/
theorem State.runs_of_place {s : State} {x k va n : Nat} {how : Access} {p : Place} (fuel : Nat) (hn : 0 < n)
    (hblock : va % 4096 + n ≤ 4096) (hva : va < winBasin) (hp : s.place x k how va = .ok p) :
    s.runs x k how (fuel + 1) va n = .ok [⟨va, p, n⟩] := by
  have hmin : min n (4096 - va % 4096) = n := by omega
  have hbasin : s.basinEnd x ⟨va, p, n⟩ = none := State.basinEnd_of_below hva
  simp only [State.runs, Nat.ne_of_gt hn, if_false, hmin, hp, hbasin, Nat.sub_self, State.runs_nil, Acc.bind]

end Sys2Proof.Machine

/-! Sync objects and fences: what an entry says, what the instructions on a valid, an invalid and a missing entry do, and what
a fence waits for (10_consistency.md R191 to R195, 12_vector_data.md R238, 15_sluice.md R283). -/

namespace Sys2Proof.Machine

open Sys2Proof.Safety
open Sys2Proof.Spec

/-! ## The words of an entry (10_consistency.md R190) -/

theorem soWord_zero_toNat (blk : List Byte) : (soWord blk 0).toNat = ofBytes (blk.take 8) := by
  have hlt := ofBytes_lt (blk.take 8)
  have hle := Nat.pow_le_pow_right (show 0 < 256 by decide) (List.length_take_le 8 blk)
  exact Nat.mod_eq_of_lt (Nat.lt_of_lt_of_le hlt hle)

theorem soGen_eq_generation (blk : List Byte) : soGen blk = generation blk := by
  rw [soGen, generation, wf, fld, soWord_zero_toNat, ofBytes_take, ofBytes_take]
  omega

/-- The word that `rel` stores, and the rest of the entry: the entry with 1 added to GEN, modulo 2^32. -/
theorem bytesOf_released {blk : List Byte} (h : 8 ≤ blk.length) :
    bytesOf 8 (setFld (soWord blk 0) 31 0 (soGen blk + 1)).toNat ++ blk.drop 8 =
      bytesOf 4 (generation blk + 1) ++ blk.drop 4 := by
  have hword : bytesOf 8 (soWord blk 0).toNat = blk.take 8 := by
    rw [soWord_zero_toNat]
    simpa only [List.length_take_of_le h] using bytesOf_ofBytes (blk.take 8)
  have hhigh : bytesOf 4 ((soWord blk 0).toNat / 256 ^ 4) = (blk.take 8).drop 4 := by
    rw [← hword, bytesOf_add 4 4, List.drop_left' (bytesOf_length ..)]
  have hw := (soWord blk 0).isLt
  have hset : (setFld (soWord blk 0) 31 0 (soGen blk + 1)).toNat =
      (soWord blk 0).toNat / 2 ^ 32 * 2 ^ 32 + (generation blk + 1) % 2 ^ 32 := by
    simp only [setFld, fld, toW, BitVec.toNat_ofNat, soGen_eq_generation]
    omega
  have hlow : bytesOf 4 (setFld (soWord blk 0) 31 0 (soGen blk + 1)).toNat = bytesOf 4 (generation blk + 1) :=
    bytesOf_congr (by omega)
  have hrest : (setFld (soWord blk 0) 31 0 (soGen blk + 1)).toNat / 256 ^ 4 = (soWord blk 0).toNat / 256 ^ 4 := by omega
  rw [bytesOf_add 4 4, hlow, hrest, hhigh, List.append_assoc, List.drop_take]
  congr 1
  simpa only [List.drop_drop] using List.take_append_drop 4 (blk.drop 4)

/-! ## Validity (10_consistency.md R191) -/

/-- The reserved bits of a range's two words are zero. -/
theorem rangeReserved_iff (b l : Word) :
    (wf b 63 57 = 0 ∧ wf b 6 0 = 0 ∧ wf l 63 32 = 0) ↔ b &&& 0xFE0000000000007F = 0 ∧ l.toNat < 2 ^ 32 := by
  have hmask : ∀ i : Fin 64, (0xFE0000000000007F : Word).getLsbD i.val = decide (57 ≤ i.val ∨ i.val < 7) := by decide
  have hb : wf b 63 57 = 0 ∧ wf b 6 0 = 0 ↔ b &&& 0xFE0000000000007F = 0 := by
    rw [wf_eq_zero_iff, wf_eq_zero_iff, and_eq_zero_iff_getLsbD]
    constructor
    · rintro ⟨hhi, hlo⟩ i hi
      by_cases h64 : i < 64
      · rw [hmask ⟨i, h64⟩, decide_eq_true_eq] at hi
        rcases hi with hi | hi
        · exact hhi i hi h64
        · exact hlo i (Nat.zero_le i) hi
      · exact BitVec.getLsbD_of_ge b i (Nat.not_lt.mp h64)
    · intro h
      refine ⟨fun i h57 h64 => h i ?_, fun i _ h7 => h i ?_⟩
      · rw [hmask ⟨i, h64⟩]
        exact decide_eq_true (.inl h57)
      · rw [hmask ⟨i, by omega⟩]
        exact decide_eq_true (.inr h7)
  have hl : wf l 63 32 = 0 ↔ l.toNat < 2 ^ 32 := by
    have hlt := l.isLt
    simp only [wf, fld]
    omega
  rw [← and_assoc, hb, hl]

/-- Where the reserved bits are zero, a range of `l` lines from `b` ends above the fixed windows as its words say. -/
theorem rangeReaches_iff {b l : Word} (hb : b &&& 0xFE0000000000007F = 0) (hl : l.toNat < 2 ^ 32) :
    (wf l 31 0 * 128 ≠ 0 ∧ winLocal < wf b 56 7 * 128 + wf l 31 0 * 128) ↔
      ¬ (l.toNat = 0 ∨ b.toNat + l.toNat * 128 ≤ 0x01FFFF0000000000) := by
  obtain ⟨hhi, hlo, -⟩ := (rangeReserved_iff b l).mpr ⟨hb, hl⟩
  have hlt := b.isLt
  simp only [wf, fld] at hhi hlo ⊢
  have hbase : b.toNat / 2 ^ 7 % 2 ^ (56 - 7 + 1) * 128 = b.toNat := by omega
  have hlen : l.toNat / 2 ^ 0 % 2 ^ (31 - 0 + 1) = l.toNat := by omega
  rw [hbase, hlen, winLocal]
  omega

theorem soInvalid_eq_false_iff (blk : List Byte) : soInvalid blk = false ↔ validEntry blk := by
  have hv : wbit (soWord blk 0) 63 = (soWord blk 0).msb := (BitVec.msb_eq_getLsbD_last _).symm
  simp only [soInvalid, Bool.or_eq_false_iff, Bool.not_eq_false', decide_eq_false_iff_not, bne_eq_false_iff_eq,
    List.any_eq_false, List.mem_range, Bool.and_eq_true, decide_eq_true_eq, Bool.not_eq_true, Nat.not_lt, hv, and_assoc]
  refine and_congr_right fun _ => and_congr_right fun hnr => and_congr_right fun _ => and_congr_right fun _ => ?_
  have hreserved := forall₂_congr fun k (_ : k < 4) => rangeReserved_iff (soWord blk (2 + 2 * k)) (soWord blk (3 + 2 * k))
  rw [hreserved]
  refine and_congr_right fun hres => and_congr_right fun _ => forall₂_congr fun k hk => ?_
  obtain ⟨hb, hl⟩ := hres k (Nat.lt_of_lt_of_le hk hnr)
  rw [rangeReaches_iff hb hl, Classical.not_not]
  rfl

/-- An entry that counts as invalid. -/
theorem soInvalid_of_not_validEntry {blk : List Byte} (h : ¬ validEntry blk) : soInvalid blk = true :=
  (Bool.not_eq_false _).mp (mt (soInvalid_eq_false_iff blk).mp h)

/-! ## An instruction on an entry (12_vector_data.md R238) -/

theorem objectVa_eq (s : State) (k : Nat) (n : Word) : (s.ctxAt (s.lcAt k).ctx).soVa n.toNat = objectVa s k n := rfl

theorem length_of_entry {s : State} {k : Nat} {n : Word} {rs : List Run} {blk : List Byte} (h : Entry s k n rs blk) :
    blk.length = 128 := by
  obtain ⟨-, -, pa, p, e, -, -, -, rfl⟩ := h
  exact s.length_physBytes pa 128

/-- The reads of an entry find its bytes. -/
theorem State.withObject_entry {s : State} {k : Nat} {n : Word} {rs : List Run} {blk : List Byte} (h : Entry s k n rs blk)
    (ep : Bool) (c : Nat) (f : Nat → List Run → List Byte → State) :
    s.withObject (.core ep c k) n f = f (objectVa s k n) rs blk := by
  obtain ⟨hn, halign, pa, p, e, hpaged, hread, rfl, rfl⟩ := h
  have hbelow : objectVa s k n < winBasin := Nat.lt_of_lt_of_le hpaged.1 (by decide)
  have hruns := State.runs_of_place (n := 128) 1 (by decide) (by omega) hbelow (State.place_paged k hpaged hread)
  simp only [State.withObject, objectVa_eq, Nat.not_le.mpr hn, if_false, hruns, State.runsBytes, List.flatMap_cons,
    List.flatMap_nil, List.append_nil, State.runBytes]

theorem State.withObject_noEntry {s : State} {n : Word} (hn : 1024 ≤ n.toNat) (ep : Bool) (c k : Nat)
    (f : Nat → List Run → List Byte → State) :
    s.withObject (.core ep c k) n f = s.raise (.core ep c k) 1 3 (toW (objectVa s k n)) := if_pos hn

/-- Instruction `i` reads the entry that ga names, and goes on from it as `f` says. -/
def OnObject (i : Instr) (q : Rill) (e : Bool) (a : Nat) (srcs dsts : List Nat)
    (f : State → Who → Nat → List Run → List Byte → State) : Prop :=
  ∀ s, exec i s = s.onStream fun w => s.issued w (streams q e srcs dsts) (s.withObject w (s.src w a) (f s w))

/-- `acq` on the entry `blk` read by `rs`, with the uses `u`. -/
def acqOn (u : Use) (s : State) (w : Who) (_ : Nat) (rs : List Run) (blk : List Byte) : State :=
  if soInvalid blk then s.asFenceCore w u rs else (s.readMarks (s.ctxOf w) rs).commit0 w u .next

/-- `rel` on the entry `blk`. -/
def relOn (u : Use) (s : State) (w : Who) (_ : Nat) (rs : List Run) (blk : List Byte) : State :=
  if soInvalid blk then s.asFenceCore w u rs
  else (((s.readMarks (s.ctxOf w) rs).writeMarks (s.ctxOf w) rs).putRuns rs
    (bytesOf 8 (setFld (soWord blk 0) 31 0 (soGen blk + 1)).toNat ++ blk.drop 8)).commit0 w u .next

/-- `acq.gen` of the generation in `gb` on the entry `blk` at `va`. -/
def acqGenOn (u : Use) (b : Nat) (s : State) (w : Who) (va : Nat) (rs : List Run) (blk : List Byte) : State :=
  if soGen blk ≠ (s.src w b).toNat % 2 ^ 32 then s.raise w 1 12 (toW va) else acqOn u s w va rs blk

/-- `so.gen` of the entry `blk`. -/
def soGenOn (u : Use) (d : Nat) (s : State) (w : Who) (_ : Nat) (rs : List Run) (blk : List Byte) : State :=
  (s.readMarks (s.ctxOf w) rs).commit w u d (toW (soGen blk)) .next

theorem acq_onObject (q : Rill) (e : Bool) (a : Nat) : OnObject (.acq q e a) q e a [a] [] (acqOn (streams q e [a] [])) :=
  fun _ => rfl

theorem rel_onObject (q : Rill) (e : Bool) (a : Nat) : OnObject (.rel q e a) q e a [a] [] (relOn (streams q e [a] [])) :=
  fun _ => rfl

theorem acqGen_onObject (q : Rill) (e : Bool) (a b : Nat) :
    OnObject (.acqGen q e a b) q e a [a, b] [] (acqGenOn (streams q e [a, b] []) b) := fun _ => rfl

theorem soGen_onObject (q : Rill) (e : Bool) (d a : Nat) :
    OnObject (.soGen q e d a) q e a [a] [d] (soGenOn (streams q e [a] [d]) d) := fun _ => rfl

theorem State.asFenceCore_core (s : State) (ep : Bool) (c k : Nat) (u : Use) (rs : List Run) :
    s.asFenceCore (.core ep c k) u rs = if s.fencePending (.core ep c k) 0 then
      s.stallOn (.core ep c k) (.fence (s.fenceBound (.core ep c k)))
      else ((s.readMarks (s.lcAt k).ctx rs).countErrs 1 1).commit0 (.core ep c k) u .next := rfl

section Object

variable {i : Instr} {q : Rill} {e : Bool} {a : Nat} {srcs dsts : List Nat}
  {f : State → Who → Nat → List Run → List Byte → State} (h : OnObject i q e a srcs dsts f)

include h

theorem OnObject.noEntry : NoEntry i q e a srcs dsts := by
  intro s ep c k hw hn ht hi
  refine ⟨_, ?_, State.raise_trapped s _ 1 3 _ ht⟩
  rw [h s, State.onStream_who hw, State.issued_go hi, State.withObject_noEntry hn]
  rfl

variable {s : State} {ep : Bool} {c k : Nat} {rs : List Run} {blk : List Byte} (hw : s.who = some (.core ep c k))
  (he : Entry s k (s.src (.core ep c k) a) rs blk)

include hw he

theorem OnObject.exec_entry (hi : s.issue (.core ep c k) (streams q e srcs dsts) = .go) :
    exec i s = .next (f s (.core ep c k) (objectVa s k (s.src (.core ep c k) a)) rs blk) := by
  rw [h s, State.onStream_who hw, State.issued_go hi, State.withObject_entry he]

/-- Where the entry leads to a retirement with `v` in `d`. -/
theorem OnObject.givesFrom {t : State} {d : Nat} {v : Word}
    (ht : f s (.core ep c k) (objectVa s k (s.src (.core ep c k) a)) rs blk =
      t.commit (.core ep c k) (streams q e srcs dsts) d v .next) :
    GivesFrom t i s (.core ep c k) (streams q e srcs dsts) d v .next := by
  intro _ hi
  exact ⟨_, by rw [h.exec_entry hw he hi, ht], State.commit_retired_from hi t d v .next⟩

end Object

/-- Where the entry leads to a `fence core`. -/
theorem OnObject.actsAsFence {i : Instr} {q : Rill} {e : Bool} {a : Nat} {srcs : List Nat}
    {f : State → Who → Nat → List Run → List Byte → State} (h : OnObject i q e a srcs [] f) {s : State} {ep : Bool}
    {c k : Nat} {rs : List Run} {blk : List Byte} (hw : s.who = some (.core ep c k)) (he : Entry s k (s.src (.core ep c k) a) rs blk)
    (hf : f s (.core ep c k) (objectVa s k (s.src (.core ep c k) a)) rs blk =
      s.asFenceCore (.core ep c k) (streams q e srcs []) rs) :
    ActsAsFence i q e s ep c k srcs rs := by
  rw [State.asFenceCore_core] at hf
  refine ⟨fun hidle => h.givesFrom hw he ?_, fun hpending _ hi => ⟨_, ?_, State.stallOn_stalled ..⟩⟩
  · rw [hf, hidle, State.commit0_eq _ _ _ 0]
    rfl
  · rw [h.exec_entry hw he hi, hf, if_pos hpending]

theorem acqOn_valid {blk : List Byte} (h : validEntry blk) (u : Use) (s : State) (ep : Bool) (c k va : Nat) (rs : List Run) :
    acqOn u s (.core ep c k) va rs blk = (s.readMarks (s.lcAt k).ctx rs).commit (.core ep c k) u 0 0 .next := by
  rw [acqOn, (soInvalid_eq_false_iff blk).mpr h, State.commit0_eq _ _ _ 0]
  rfl

theorem acqOn_invalid {blk : List Byte} (h : ¬ validEntry blk) (u : Use) (s : State) (w : Who) (va : Nat) (rs : List Run) :
    acqOn u s w va rs blk = s.asFenceCore w u rs := if_pos (soInvalid_of_not_validEntry h)

theorem relOn_valid {blk : List Byte} (h : validEntry blk) (hlen : blk.length = 128) (u : Use) (s : State) (ep : Bool)
    (c k va : Nat) (rs : List Run) :
    relOn u s (.core ep c k) va rs blk =
      (((s.readMarks (s.lcAt k).ctx rs).writeMarks (s.lcAt k).ctx rs).putRuns rs
        (bytesOf 4 (generation blk + 1) ++ blk.drop 4)).commit (.core ep c k) u 0 0 .next := by
  rw [relOn, (soInvalid_eq_false_iff blk).mpr h, bytesOf_released (by omega), State.commit0_eq _ _ _ 0]
  rfl

theorem relOn_invalid {blk : List Byte} (h : ¬ validEntry blk) (u : Use) (s : State) (w : Who) (va : Nat) (rs : List Run) :
    relOn u s w va rs blk = s.asFenceCore w u rs := if_pos (soInvalid_of_not_validEntry h)

theorem acqGenOn_current {blk : List Byte} {s : State} {w : Who} {b : Nat} (h : generation blk = (s.src w b).toNat % 2 ^ 32)
    (u : Use) (va : Nat) (rs : List Run) : acqGenOn u b s w va rs blk = acqOn u s w va rs blk :=
  if_neg (not_not_intro ((soGen_eq_generation blk).trans h))

theorem acqGenOn_stale {blk : List Byte} {s : State} {w : Who} {b : Nat} (h : generation blk ≠ (s.src w b).toNat % 2 ^ 32)
    (u : Use) (va : Nat) (rs : List Run) : acqGenOn u b s w va rs blk = s.raise w 1 12 (toW va) :=
  if_pos fun hg => h ((soGen_eq_generation blk).symm.trans hg)

/-- `acq.gen` of another generation raises STALE-GENERATION (R192). -/
theorem acqGen_stale {s : State} {ep : Bool} {c k a b : Nat} {q : Rill} {e : Bool} {rs : List Run} {blk : List Byte}
    (hw : s.who = some (.core ep c k)) (he : Entry s k (s.src (.core ep c k) a) rs blk)
    (hg : generation blk ≠ (s.src (.core ep c k) b).toNat % 2 ^ 32) (ht : MayTrap s (.core ep c k))
    (hi : s.issue (.core ep c k) (streams q e [a, b] []) = .go) :
    ∃ t, exec (.acqGen q e a b) s = .next t ∧
      Trapped s t (.core ep c k) 1 12 (BitVec.ofNat 64 (objectVa s k (s.src (.core ep c k) a))) := by
  refine ⟨_, ?_, State.raise_trapped s _ 1 12 _ ht⟩
  rw [(acqGen_onObject q e a b).exec_entry hw he hi, acqGenOn_stale hg]
  rfl

theorem syncObjects : Sys2Proof.Parts.SyncObjects := by
  refine ⟨soInvalid_eq_false_iff, fun s ep c k q e a rs blk hw he hv => ?acqValid,
    fun s ep c k q e a rs blk hw he hv => ⟨?acqInvalid, ?relInvalid⟩,
    fun s ep c k q e a b rs blk hw he hv hg => ?acqGenInvalid, fun s ep c k q e a rs blk hw he hv => ?relValid,
    fun s ep c k q e a b rs blk hw he hv hg => ?acqGenValid,
    fun s ep c k q e a b rs blk hw he hg ht hi => acqGen_stale hw he hg ht hi,
    fun s ep c k q e d a rs blk hw he => ?soGen, fun q e a => (acq_onObject q e a).noEntry,
    fun q e a => (rel_onObject q e a).noEntry, fun q e a b => (acqGen_onObject q e a b).noEntry,
    fun q e d a => (soGen_onObject q e d a).noEntry⟩
  case acqValid => exact (acq_onObject q e a).givesFrom hw he (acqOn_valid hv ..)
  case acqInvalid => exact (acq_onObject q e a).actsAsFence hw he (acqOn_invalid hv ..)
  case relInvalid => exact (rel_onObject q e a).actsAsFence hw he (relOn_invalid hv ..)
  case acqGenInvalid => exact (acqGen_onObject q e a b).actsAsFence hw he ((acqGenOn_current hg ..).trans (acqOn_invalid hv ..))
  case relValid => exact (rel_onObject q e a).givesFrom hw he (relOn_valid hv (length_of_entry he) ..)
  case acqGenValid => exact (acqGen_onObject q e a b).givesFrom hw he ((acqGenOn_current hg ..).trans (acqOn_valid hv ..))
  case soGen =>
    rw [← soGen_eq_generation]
    exact (soGen_onObject q e d a).givesFrom hw he rfl

/-! ## Fences (10_consistency.md R194, R195, 15_sluice.md R283) -/

theorem fence_illegal {s : State} {w : Who} {k : Nat} (q : Rill) (e : Bool) (hw : s.who = some w) (hk : 4 < k) :
    exec (.fence q e k) s = .next (s.illegal w 1) := by
  show execFence q e k s = _
  rw [execFence, State.onStream_who hw]
  exact congrArg _ (if_pos hk)

theorem exec_fence {s : State} {w : Who} {q : Rill} {e : Bool} {k : Nat} (hw : s.who = some w) (hk : k ≤ 4)
    (hi : s.issue w (anywhere q e [] []) = .go) :
    exec (.fence q e k) s = .next (if s.fencePending w k then s.stallOn w (.fence (s.fenceBound w))
      else s.commit0 w (anywhere q e [] []) .next) := by
  show execFence q e k s = _
  rw [execFence, State.onStream_who hw]
  exact congrArg _ ((if_neg (Nat.not_lt.mpr hk)).trans (State.issued_go hi _))

theorem State.mcPending_iff (s : State) (k scope : Nat) :
    s.mcPending k scope = true ↔ ∃ m ∈ s.multicasts, m.writer = k ∧ (scope ≠ 0 ∨ k ∈ m.targets) := by
  simp [State.mcPending]

theorem State.collsOf_iff (s : State) (k bound : Nat) :
    s.collsOf k bound = true ↔ ∃ p ∈ (s.ctxAt (s.lcAt k).ctx).colls,
      (p.2.starter = k ∨ p.2.starter = 2 ^ 40) ∧ p.2.state = 1 ∧ p.2.order < bound := by
  simp only [State.collsOf, anyStarter, List.any_eq_true, Bool.and_eq_true, Bool.or_eq_true, beq_iff_eq, decide_eq_true_eq,
    and_assoc]

theorem State.transfersOf_iff (s : State) (n bound : Nat) :
    s.transfersOf n bound = true ↔ ∃ p ∈ (s.slAt n).transfers, p.2.coll = none ∧ p.2.state = 1 ∧ p.2.order < bound := by
  simp only [State.transfersOf, List.any_eq_true, Bool.and_eq_true, Option.isNone_iff_eq_none, beq_iff_eq, decide_eq_true_eq,
    and_assoc]

theorem State.fencePending_core_iff (s : State) (ep : Bool) (c k scope : Nat) :
    s.fencePending (.core ep c k) scope = true ↔
      s.mcPending k scope = true ∨ scope = 4 ∧ s.collsOf k (s.fenceBound (.core ep c k)) = true := by
  simp only [State.fencePending, Bool.or_eq_true, Bool.and_eq_true, beq_iff_eq]

theorem State.fencePending_sluice_iff (s : State) (n scope : Nat) :
    s.fencePending (.sluice n) scope = true ↔ scope = 4 ∧ s.transfersOf n (s.fenceBound (.sluice n)) = true := by
  simp only [State.fencePending, Bool.and_eq_true, beq_iff_eq]

theorem fences : Sys2Proof.Parts.Fences := by
  refine ⟨fun s w q e k hw hk hidle _ hi => ⟨_, exec_fence hw hk hi, ?retires⟩,
    fun s w q e k hw hpending _ hk hi => ⟨_, exec_fence hw hk hi, ?stalls⟩,
    fun s w q e k hw hk ht => ⟨_, fence_illegal q e hw hk, State.raise_trapped s w 1 1 0 ht⟩,
    fun s ep c k scope => ?core, fun s n scope => ?sluice, fun _ _ _ _ => rfl, fun _ _ => rfl⟩
  case retires =>
    rw [hidle]
    exact State.commit0_retired s w _ 0 .next hi
  case stalls =>
    rw [if_pos hpending]
    exact State.stallOn_stalled s w _
  case core => rw [State.fencePending_core_iff, State.mcPending_iff, State.collsOf_iff]
  case sluice => rw [State.fencePending_sluice_iff, State.transfersOf_iff]

/-- Settles O18: the instructions on an entry by what each does with the bytes it reads, a fence by what it waits for. -/
theorem synchronisation : Obligations.Synchronisation := ⟨syncObjects, fences⟩

end Sys2Proof.Machine
